-- ==== Sys2Proof/Word.lean ====
section
/-!
DEFINITION. Word.lean: the words the ZX8 is made of (R3), the number of bits each register name has, and the
two plain ways a fixed bank of like things is built and read.
-/

namespace Sys2Proof

/-- One byte (R3). -/
abbrev Byte := BitVec 8

/-- A 64-bit scalar (s, k, a registers and queue entries). -/
abbrev W64 := BitVec 64

/-- A 32-bit word: an instruction parcel, a tile lane, an accumulator element. -/
abbrev W32 := BitVec 32

/-- The name of a scalar register s0–s31 (R143). -/
abbrev SReg := BitVec 5

/-- The name of a predicate p0–p7 (R144). -/
abbrev PReg := BitVec 3

/-- A 4-bit register field of a VW or TW word (R44, R56). -/
abbrev Reg4 := BitVec 4

/-- `tab n f` is the bank whose entry `i` is `f i`. -/
def tab {α : Type} (n : Nat) (f : Nat → α) : Vector α n :=
  ⟨⟨(List.range n).map f⟩, by simp⟩

/-- Entry `i` of a bank; `d` for a number outside the bank. -/
def vget {α : Type} {n : Nat} (v : Vector α n) (i : Nat) (d : α) : α :=
  if h : i < n then v[i] else d

/-- The bank with entry `i` replaced; the same bank for a number outside it. -/
def vset {α : Type} {n : Nat} (v : Vector α n) (i : Nat) (x : α) : Vector α n :=
  v.setIfInBounds i x

end Sys2Proof
end

