-- ==== Sys2Proof/Agents.lean ====
section
/-!
DEFINITION. Agents.lean: the names of the agents of the package (R9, R14, R17, R104), and the records of operand
fields that the VW, MW and TW word families share (R44, R50, R56).
-/

namespace Sys2Proof

/-- The four sequencers of a core (R14). -/
inductive SeqName where
  | x | l | c | s
deriving DecidableEq, Repr, Inhabited

/-- The three sequencers that read vector words (R35). -/
inductive VSeq where
  | l | c | s
deriving DecidableEq, Repr, Inhabited

/-- The sequencer a vector sequencer is. -/
def VSeq.toSeq : VSeq → SeqName
  | .l => .l
  | .c => .c
  | .s => .s

/-- The 416 transfer engines (R17): one per logical core, eight per near-tier die, sixteen per far-tier die. -/
inductive EngineId where
  | core (n : Fin 320)
  | die (nd : Fin 8) (k : Fin 8)
  | far (fd : Fin 2) (k : Fin 16)
deriving DecidableEq, Repr

/-- Who waits under a limit (R43): a sequencer or a transfer context. -/
inductive Waiter where
  | seq (core : Fin 320) (q : SeqName)
  | ctx (e : EngineId) (n : Fin 4)
deriving DecidableEq, Repr

/-- The machines that run as three voted copies (R19): the wharf, the lock-keeper, ten page walkers. -/
inductive Voted where
  | wharf
  | keeper
  | walker (die : Fin 10)
deriving DecidableEq, Repr

/-- A host queue (R407): one of a VM's 64, or the management queue. -/
inductive QueueId where
  | vm (vm : Fin 16) (n : Fin 64)
  | mgmt
deriving DecidableEq, Repr

/-- A guard (R38): the predicate and the negate bit. -/
structure Guard where
  neg : Bool
  pred : PReg
deriving DecidableEq, Repr, Inhabited

/-- The guard "always" (R38): p7 with negate clear. -/
def Guard.always : Guard := ⟨false, 7⟩

/-- The fields of a vector word (R44) other than OP and LEN. -/
structure VArgs where
  g : Guard
  d : Reg4
  a : Reg4
  b : Reg4
  c : Reg4
  fn : BitVec 4
  fmt : BitVec 4
  msel : PReg
  ms : Bool
  sa : Byte
  sb : Byte
  sc : Byte
  imm : W32
deriving DecidableEq, Repr, Inhabited

/-- The fields of a matrix word (R50) other than OP and LEN. `ops` is bits [191:32]. -/
structure MArgs where
  g : Guard
  acc : BitVec 2
  acn : BitVec 2
  mode : BitVec 2
  fmta : BitVec 4
  fmtb : BitVec 4
  ks : BitVec 6
  ops : BitVec 160
deriving DecidableEq, Repr, Inhabited

/-- The fields of a transfer word (R56) other than OP and LEN. `imm64` is zero in a 64-bit word. -/
structure TArgs where
  d : Reg4
  s : Reg4
  h : Reg4
  x : Reg4
  tag : BitVec 6
  te : Bool
  ord : BitVec 2
  sfmt : BitVec 4
  dfmt : BitVec 4
  fn : BitVec 6
  scope : BitVec 2
  imm16 : BitVec 16
  imm64 : W64
deriving DecidableEq, Repr, Inhabited

/-- A matrix word as the follow-on port or the engine queue holds it (R54): the OP and the fields. -/
structure MWord where
  op : BitVec 6
  args : MArgs
deriving DecidableEq, Repr, Inhabited

/-- What a peer package's participant brings to a COLL (R307): its rank, the values it exchanges and its send
elements, as raw element patterns in linear order. An input from outside the package. -/
structure CollPeer where
  rank : Nat
  kind : Nat
  op : Nat
  np : Nat
  bounds : List Nat
  send : List Nat
deriving DecidableEq, Repr

/-- The fields of a PARTCFG packet that the configuration bytes of R385 do not hold: the VM and the ASIDs the
partition receives (R415), its admission entries (R293), its migration policy (R376) and its slot tables (R416). -/
structure PartExtra where
  vm : Nat
  asids : List Nat
  admission : List (List Byte)
  policy : W64
  slots : List (Nat × Nat × List Byte)
deriving DecidableEq, Repr

/-- A 256-byte Harwald Link flit (R412) with what the receiver's FEC and CRC-48 found. `nak` says that its type is the negative
acknowledgement, `dest` is the package that its payload is for; the bits that say so are not given (notes/assumptions/19.md). -/
structure Flit where
  vc : BitVec 2
  ftype : BitVec 6
  credit : Byte
  seqno : BitVec 16
  ack : BitVec 16
  payload : List Byte
  crcOk : Bool
  nak : Bool
  dest : Byte
deriving DecidableEq, Repr

/-- Where an uncorrectable read arose (R420). -/
inductive ReadSite where
  | seq (core : Fin 320)
  | ctx (e : EngineId) (n : Fin 4)
deriving DecidableEq, Repr

/-- The software-visible registers that a REGISTER_WRITE may name (R6, R407, R430): a field of a queue's control
block, or a management-controller register by its offset. -/
inductive RegName where
  | queueBase (q : QueueId)
  | queueSize (q : QueueId)
  | queueVec (q : QueueId)
  | queuePart (q : QueueId)
  | queueAsid (q : QueueId)
  | mgmt (off : Nat)
deriving DecidableEq, Repr

end Sys2Proof
end

