-- ==== Sys2Proof/Syntax.lean ====
section
/-!
DEFINITION. Syntax.lean: the steps of the ZX8, one constructor for each row of spec/opcode_table.json. The words a
sequencer or a transfer context fetches come with their operand fields (R39-R58); the other rows (hardware events, host
packets, management actions) are bare: the agent such a step happens to, and what the outside world brings to it, stand
in the state (`Occ`).
-/

namespace Sys2Proof

/-- One step of the ZX8: a row of the opcode table. -/
inductive Instr where
  /-- ADD (R153): Adds two scalar registers modulo 2^64 into D. -/
  | add (g : Guard) (d a b : SReg)
  /-- SUB (R153): Subtracts s[B] from s[A] modulo 2^64 into D. -/
  | sub (g : Guard) (d a b : SReg)
  /-- AND (R153): Bitwise AND of two scalar registers. -/
  | andR (g : Guard) (d a b : SReg)
  /-- OR (R153): Bitwise OR of two scalar registers. -/
  | orR (g : Guard) (d a b : SReg)
  /-- XOR (R153): Bitwise XOR of two scalar registers. -/
  | xorR (g : Guard) (d a b : SReg)
  /-- ANDN (R153): s[A] AND NOT s[B]. -/
  | andn (g : Guard) (d a b : SReg)
  /-- SLL (R153): Shifts s[A] left by s[B][5:0], zeros in. -/
  | sll (g : Guard) (d a b : SReg)
  /-- SRL (R153): Shifts s[A] right logically by s[B][5:0]. -/
  | srl (g : Guard) (d a b : SReg)
  /-- SRA (R153): Shifts s[A] right arithmetically by s[B][5:0]. -/
  | sra (g : Guard) (d a b : SReg)
  /-- MIN (R153): Signed minimum of two scalar registers. -/
  | minS (g : Guard) (d a b : SReg)
  /-- MAX (R153): Signed maximum of two scalar registers. -/
  | maxS (g : Guard) (d a b : SReg)
  /-- MINU (R153): Unsigned minimum of two scalar registers. -/
  | minU (g : Guard) (d a b : SReg)
  /-- MAXU (R153): Unsigned maximum of two scalar registers. -/
  | maxU (g : Guard) (d a b : SReg)
  /-- CLZ (R153): Counts leading zero bits of s[A]. -/
  | clz (g : Guard) (d a : SReg)
  /-- CTZ (R153): Counts trailing zero bits of s[A]. -/
  | ctz (g : Guard) (d a : SReg)
  /-- POPC (R153): Counts one bits of s[A]. -/
  | popc (g : Guard) (d a : SReg)
  /-- ADD_IMM64 (R153): Adds SX(I16) to s[A], 64-bit immediate form. -/
  | addImm64 (g : Guard) (d a : SReg) (imm : BitVec 16)
  /-- ADD_IMM96 (R153): Adds SX(LIT) to s[A], 96-bit immediate form. -/
  | addImm96 (g : Guard) (d a : SReg) (imm : W32)
  /-- SUB_IMM64 (R153): Subtracts SX(I16) from s[A], 64-bit form. -/
  | subImm64 (g : Guard) (d a : SReg) (imm : BitVec 16)
  /-- SUB_IMM96 (R153): Subtracts SX(LIT) from s[A], 96-bit form. -/
  | subImm96 (g : Guard) (d a : SReg) (imm : W32)
  /-- AND_IMM64 (R153): AND with SX(I16), 64-bit form. -/
  | andImm64 (g : Guard) (d a : SReg) (imm : BitVec 16)
  /-- AND_IMM96 (R153): AND with SX(LIT), 96-bit form. -/
  | andImm96 (g : Guard) (d a : SReg) (imm : W32)
  /-- OR_IMM64 (R153): OR with SX(I16), 64-bit form. -/
  | orImm64 (g : Guard) (d a : SReg) (imm : BitVec 16)
  /-- OR_IMM96 (R153): OR with SX(LIT), 96-bit form. -/
  | orImm96 (g : Guard) (d a : SReg) (imm : W32)
  /-- XOR_IMM64 (R153): XOR with SX(I16), 64-bit form. -/
  | xorImm64 (g : Guard) (d a : SReg) (imm : BitVec 16)
  /-- XOR_IMM96 (R153): XOR with SX(LIT), 96-bit form. -/
  | xorImm96 (g : Guard) (d a : SReg) (imm : W32)
  /-- ANDN_IMM64 (R153): AND NOT with SX(I16), 64-bit form. -/
  | andnImm64 (g : Guard) (d a : SReg) (imm : BitVec 16)
  /-- ANDN_IMM96 (R153): AND NOT with SX(LIT), 96-bit form. -/
  | andnImm96 (g : Guard) (d a : SReg) (imm : W32)
  /-- SLL_IMM64 (R153): Logical left shift by an immediate 0-63, 64-bit form. -/
  | sllImm64 (g : Guard) (d a : SReg) (imm : BitVec 16)
  /-- SLL_IMM96 (R153): Logical left shift by an immediate 0-63, 96-bit form. -/
  | sllImm96 (g : Guard) (d a : SReg) (imm : W32)
  /-- SRL_IMM64 (R153): Logical right shift by an immediate, 64-bit form. -/
  | srlImm64 (g : Guard) (d a : SReg) (imm : BitVec 16)
  /-- SRL_IMM96 (R153): Logical right shift by an immediate, 96-bit form. -/
  | srlImm96 (g : Guard) (d a : SReg) (imm : W32)
  /-- SRA_IMM64 (R153): Arithmetic right shift by an immediate, 64-bit form. -/
  | sraImm64 (g : Guard) (d a : SReg) (imm : BitVec 16)
  /-- SRA_IMM96 (R153): Arithmetic right shift by an immediate, 96-bit form. -/
  | sraImm96 (g : Guard) (d a : SReg) (imm : W32)
  /-- MIN_IMM64 (R153): Signed minimum with SX(I16). -/
  | minImm64 (g : Guard) (d a : SReg) (imm : BitVec 16)
  /-- MIN_IMM96 (R153): Signed minimum with SX(LIT). -/
  | minImm96 (g : Guard) (d a : SReg) (imm : W32)
  /-- MAX_IMM64 (R153): Signed maximum with SX(I16). -/
  | maxImm64 (g : Guard) (d a : SReg) (imm : BitVec 16)
  /-- MAX_IMM96 (R153): Signed maximum with SX(LIT). -/
  | maxImm96 (g : Guard) (d a : SReg) (imm : W32)
  /-- MINU_IMM64 (R153): Unsigned minimum with SX(I16). -/
  | minuImm64 (g : Guard) (d a : SReg) (imm : BitVec 16)
  /-- MINU_IMM96 (R153): Unsigned minimum with SX(LIT). -/
  | minuImm96 (g : Guard) (d a : SReg) (imm : W32)
  /-- MAXU_IMM64 (R153): Unsigned maximum with SX(I16). -/
  | maxuImm64 (g : Guard) (d a : SReg) (imm : BitVec 16)
  /-- MAXU_IMM96 (R153): Unsigned maximum with SX(LIT). -/
  | maxuImm96 (g : Guard) (d a : SReg) (imm : W32)
  /-- MUL (R154): Low 64 bits of the product of two registers. -/
  | mul (g : Guard) (d a b : SReg)
  /-- MULH (R154): High 64 bits of the signed 128-bit product. -/
  | mulh (g : Guard) (d a b : SReg)
  /-- MULHU (R154): High 64 bits of the unsigned 128-bit product. -/
  | mulhu (g : Guard) (d a b : SReg)
  /-- DIV (R154): Signed division truncating toward zero; all ones on divide by zero. -/
  | div (g : Guard) (d a b : SReg)
  /-- DIVU (R154): Unsigned division; all ones on divide by zero. -/
  | divu (g : Guard) (d a b : SReg)
  /-- REM (R154): Signed remainder with the dividend's sign; dividend on divide by zero. -/
  | rem (g : Guard) (d a b : SReg)
  /-- REMU (R154): Unsigned remainder; dividend on divide by zero. -/
  | remu (g : Guard) (d a b : SReg)
  /-- BFX (R155): Extracts a zero-extended bit field from s[A]. -/
  | bfx (g : Guard) (d a : SReg) (lsb : BitVec 6) (width : BitVec 7)
  /-- BFXS (R155): Extracts a sign-extended bit field from s[A]. -/
  | bfxs (g : Guard) (d a : SReg) (lsb : BitVec 6) (width : BitVec 7)
  /-- BFI (R155): Inserts low bits of s[A] into a field of s[D]. -/
  | bfi (g : Guard) (d a : SReg) (lsb : BitVec 6) (width : BitVec 7)
  /-- LI_64 (R156): Loads SX(I16) into s[D]. -/
  | li64 (g : Guard) (d : SReg) (imm : BitVec 16)
  /-- LI_96 (R156): Loads SX(LIT) into s[D]. -/
  | li96 (g : Guard) (d : SReg) (lit : W32)
  /-- LIH (R156): Replaces s[D][63:32] with LIT. -/
  | lih (g : Guard) (d : SReg) (lit : W32)
  /-- CMP (R158): Integer compare written or combined into a predicate pair. -/
  | cmp (g : Guard) (cond : BitVec 3) (comb : BitVec 2) (pd pe : PReg) (a b : SReg) (immForm : Bool) (imm : BitVec 16)
  /-- FCMP (R159): Floating-point compare into a predicate pair, NV only, may trap FP_ENABLED. -/
  | fcmp (g : Guard) (cond : BitVec 3) (comb : BitVec 2) (prec : BitVec 2) (pd pe : PReg) (a b : SReg)
  /-- PLOG_AND (R160): pd gets pa AND pb. -/
  | plogAnd (g : Guard) (pd pa pb : PReg)
  /-- PLOG_OR (R160): pd gets pa OR pb. -/
  | plogOr (g : Guard) (pd pa pb : PReg)
  /-- PLOG_XOR (R160): pd gets pa XOR pb. -/
  | plogXor (g : Guard) (pd pa pb : PReg)
  /-- PLOG_ANDN (R160): pd gets pa AND NOT pb. -/
  | plogAndn (g : Guard) (pd pa pb : PReg)
  /-- PLOG_NAND (R160): pd gets NOT (pa AND pb). -/
  | plogNand (g : Guard) (pd pa pb : PReg)
  /-- PLOG_NOR (R160): pd gets NOT (pa OR pb). -/
  | plogNor (g : Guard) (pd pa pb : PReg)
  /-- PLOG_XNOR (R160): pd gets NOT (pa XOR pb). -/
  | plogXnor (g : Guard) (pd pa pb : PReg)
  /-- PLOG_MOV (R160): pd gets pa. -/
  | plogMov (g : Guard) (pd pa : PReg)
  /-- FADD (R163): Scalar floating-point add, rounded once in the captured mode. -/
  | fadd (g : Guard) (prec : BitVec 2) (d a b : SReg)
  /-- FSUB (R163): Scalar floating-point subtract. -/
  | fsub (g : Guard) (prec : BitVec 2) (d a b : SReg)
  /-- FMUL (R163): Scalar floating-point multiply. -/
  | fmul (g : Guard) (prec : BitVec 2) (d a b : SReg)
  /-- FFMA (R164): Fused multiply-add with optional negations, one rounding. -/
  | ffma (g : Guard) (negp nega : Bool) (prec : BitVec 2) (d a b c : SReg)
  /-- FMIN (R165): Floating-point minimum, NaN-avoiding. -/
  | fmin (g : Guard) (prec : BitVec 2) (d a b : SReg)
  /-- FMAX (R165): Floating-point maximum, NaN-avoiding. -/
  | fmax (g : Guard) (prec : BitVec 2) (d a b : SReg)
  /-- FCVT_FP_FP (R167): Converts between scalar floating-point precisions. -/
  | fcvtFpFp (g : Guard) (dst src : BitVec 2) (d a : SReg)
  /-- FCVT_FP_I64 (R167): Converts floating point to saturated signed 64-bit integer. -/
  | fcvtFpI64 (g : Guard) (src : BitVec 2) (d a : SReg)
  /-- FCVT_FP_U64 (R167): Converts floating point to saturated unsigned 64-bit integer. -/
  | fcvtFpU64 (g : Guard) (src : BitVec 2) (d a : SReg)
  /-- FCVT_I64_FP (R167): Converts a signed 64-bit integer to floating point. -/
  | fcvtI64Fp (g : Guard) (dst : BitVec 2) (d a : SReg)
  /-- FCVT_U64_FP (R167): Converts an unsigned 64-bit integer to floating point. -/
  | fcvtU64Fp (g : Guard) (dst : BitVec 2) (d a : SReg)
  /-- BR_32 (R169): Relative branch by a 10-bit parcel offset. -/
  | br32 (g : Guard) (off : BitVec 10)
  /-- BR_64 (R169): Relative branch by a 16-bit parcel offset. -/
  | br64 (g : Guard) (off : BitVec 16)
  /-- BR_96 (R169): Relative branch by a 32-bit parcel offset. -/
  | br96 (g : Guard) (off : W32)
  /-- CALL_32 (R169): Relative call writing the return address to s30, 10-bit offset. -/
  | call32 (g : Guard) (off : BitVec 10)
  /-- CALL_64 (R169): Relative call, 16-bit offset. -/
  | call64 (g : Guard) (off : BitVec 16)
  /-- CALL_96 (R169): Relative call, 32-bit offset. -/
  | call96 (g : Guard) (off : W32)
  /-- JMPR (R170): Jumps to s[A][31:0] with bits [1:0] cleared. -/
  | jmpr (g : Guard) (a : SReg)
  /-- RET (R170): Jumps to s30 with bits [1:0] cleared. -/
  | ret (g : Guard)
  /-- NOP_32 (R171): No effect, 32-bit form. -/
  | nop32 (g : Guard)
  /-- NOP_64 (R171): No effect, 64-bit form. -/
  | nop64 (g : Guard)
  /-- NOP_96 (R171): No effect, 96-bit form. -/
  | nop96 (g : Guard)
  /-- LDS (R174): Issues a scalar scratchpad load, incrementing lc at issue whatever the guard. -/
  | lds (g : Guard) (d a : SReg) (size : BitVec 2) (sx : Bool) (off : BitVec 16)
  /-- STS (R176): Stores low bytes of s[B] to scratchpad; discarded in the semaphore area. -/
  | sts (g : Guard) (a b : SReg) (size : BitVec 2) (off : BitVec 16)
  /-- WAITLC_64 (R177): Waits until lc is at most n, 64-bit form. -/
  | waitlc64 (g : Guard) (n : Byte) (rp : PReg) (lim : Byte)
  /-- WAITLC_96 (R177): Waits until lc is at most n, 96-bit form. -/
  | waitlc96 (g : Guard) (n : Byte) (rp : PReg) (lim : W32)
  /-- SEMADD (R180): X adds s[B] to a semaphore atomically, a release at core scope. -/
  | semadd (g : Guard) (a b : SReg) (off : BitVec 16)
  /-- SEMWAIT_64 (R181): X waits for a semaphore to reach n, optionally consuming, 64-bit form. -/
  | semwait64 (g : Guard) (a b : SReg) (off : BitVec 16) (take : Bool) (rp : PReg) (lim : Byte)
  /-- SEMWAIT_96 (R181): X semaphore wait, 96-bit form with LIT wait limit. -/
  | semwait96 (g : Guard) (a b : SReg) (off : BitVec 16) (take : Bool) (rp : PReg) (lim : W32)
  /-- TAGWAIT_64 (R182): Waits for any or all masked completion tags, optionally clearing them. -/
  | tagwait64 (g : Guard) (d a : SReg) (all clr : Bool) (rp : PReg) (lim : Byte)
  /-- TAGWAIT_96 (R182): Tag wait, 96-bit form. -/
  | tagwait96 (g : Guard) (d a : SReg) (all clr : Bool) (rp : PReg) (lim : W32)
  /-- TAGFF (R183): Returns the lowest ready masked tag, or 64, optionally clearing it. -/
  | tagff (g : Guard) (d a : SReg) (clr : Bool)
  /-- QPUT_64 (R184): X appends s[A] to q0-q2 when room exists. -/
  | qput64 (g : Guard) (q : BitVec 3) (a : SReg) (rp : PReg) (lim : Byte)
  /-- QPUT_96 (R184): X queue put, 96-bit form. -/
  | qput96 (g : Guard) (q : BitVec 3) (a : SReg) (rp : PReg) (lim : W32)
  /-- QGET_64 (R184): X removes the oldest entry of q5-q7 into s[D]. -/
  | qget64 (g : Guard) (q : BitVec 3) (d : SReg) (rp : PReg) (lim : Byte)
  /-- QGET_96 (R184): X queue get, 96-bit form. -/
  | qget96 (g : Guard) (q : BitVec 3) (d : SReg) (rp : PReg) (lim : W32)
  /-- FENCE_FULL (R185): Full scoped fence in X. -/
  | fenceFull (g : Guard) (scope : BitVec 2)
  /-- FENCE_RELEASE (R185): Release fence in X, waiting for earlier accesses and awaited UPD triples. -/
  | fenceRelease (g : Guard) (scope : BitVec 2)
  /-- FENCE_ACQUIRE (R185): Acquire fence in X, waiting for lc zero. -/
  | fenceAcquire (g : Guard) (scope : BitVec 2)
  /-- FENCESC (R186): Issues the sequentially consistent fence, draining to fabric scope. -/
  | fencesc (g : Guard)
  /-- LAUNCH (R187): Reads and checks a child descriptor and enqueues the child, writing a status. -/
  | launch (g : Guard) (d a : SReg) (rp : PReg)
  /-- DONE (R190): Issues retirement; L, C and S stop issuing. -/
  | done (g : Guard)
  /-- YIELD (R191): Asks the lock-keeper for an immediate pre-emption evaluation. -/
  | yield (g : Guard)
  /-- CSRR (R192): Reads a CSR into s[D]. -/
  | csrr (g : Guard) (d : SReg) (csr : BitVec 12)
  /-- CSRW (R192): Writes s[A] to a CSR, returning the old value. -/
  | csrw (g : Guard) (d a : SReg) (csr : BitVec 12)
  /-- CSRW_SET (R192): ORs s[A] into a CSR. -/
  | csrwSet (g : Guard) (d a : SReg) (csr : BitVec 12)
  /-- CSRW_CLR (R192): Clears the bits of s[A] in a CSR. -/
  | csrwClr (g : Guard) (d a : SReg) (csr : BitVec 12)
  /-- TRAP (R193): Raises SOFTWARE with an 8-bit code. -/
  | trap (g : Guard) (code : Byte)
  /-- TRET (R194): Leaves handler mode and resumes the trapped sequencer. -/
  | tret (g : Guard)
  /-- APCVT_GLOB (R195): Converts an own-window address to a global-window address. -/
  | apcvtGlob (g : Guard) (d a : SReg)
  /-- APCVT_OWN (R195): Converts a global address naming this core to the own window. -/
  | apcvtOwn (g : Guard) (d a : SReg)
  /-- APTST (R195): Writes the window code of an address. -/
  | aptst (g : Guard) (d a : SReg)
  /-- TXGO_64 (R196): Appends an invocation to the transfer engine's queue. -/
  | txgo64 (g : Guard) (a : SReg) (entry : BitVec 13) (rp : PReg) (lim : Byte)
  /-- TXGO_96 (R196): Starts an invocation, 96-bit form. -/
  | txgo96 (g : Guard) (a : SReg) (entry : BitVec 13) (rp : PReg) (lim : W32)
  /-- GOPEN (R208): Opens a stream from a shape record at a k-register offset. -/
  | gopen (w : VArgs)
  /-- GOPEN_X (R208): Opens a stream from an object-table entry. -/
  | gopenX (w : VArgs)
  /-- GCLOSE (R208): Closes a stream register. -/
  | gclose (w : VArgs)
  /-- SHFENCE (R208): Invalidates the 16-entry record cache. -/
  | shfence (w : VArgs)
  /-- GLD (R209): Loads the next stream unit into a tile, widening elements. -/
  | gld (w : VArgs)
  /-- GLD_OA (R210): Copies a raw 64x96 block and scales into an A operand buffer, setting FULL. -/
  | gldOa (w : VArgs)
  /-- GLD_OB (R210): Copies a raw block and scales into a B operand buffer, setting FULL. -/
  | gldOb (w : VArgs)
  /-- GLDM (R211): Loads and expands zero-plane blocks into a tile. -/
  | gldm (w : VArgs)
  /-- GST (R212): Stores a tile unit through a stream with conversion. -/
  | gst (w : VArgs)
  /-- GST_ACCUMULATOR (R212): Stores 64 lines of an accumulator through a stream. -/
  | gstAccumulator (w : VArgs)
  /-- GSTZ (R212): Compacts 16 tile rows into zero-plane blocks. -/
  | gstz (w : VArgs)
  /-- GADV (R213): Advances a stream cursor at a level. -/
  | gadv (w : VArgs)
  /-- GEND (R213): Sets a predicate to a stream's ended flag. -/
  | gend (w : VArgs)
  /-- GLDR (R214): Loads ragged lines into a tile with a boundary mask. -/
  | gldr (w : VArgs)
  /-- FOPEN (R216): Opens a fibre from a descriptor, checking coordinate order. -/
  | fopen (w : VArgs)
  /-- FADV (R217): Advances a fibre position, or traps FIBRE_ORDER. -/
  | fadv (w : VArgs)
  /-- FEND (R217): Sets a predicate when a fibre is exhausted. -/
  | fend (w : VArgs)
  /-- FCLOSE (R217): Closes a fibre register. -/
  | fclose (w : VArgs)
  /-- FISECT (R219): Forms the intersection fibre of two fibres. -/
  | fisect (w : VArgs)
  /-- FLDV (R218): Loads fibre values into a tile. -/
  | fldv (w : VArgs)
  /-- FLDV_CRD (R218): Loads fibre coordinates into a tile. -/
  | fldvCrd (w : VArgs)
  /-- RWAITF (R223): Waits for a filled ring slot and returns its address. -/
  | rwaitf (w : VArgs)
  /-- RWAITE (R223): Waits for a free ring slot and returns its address. -/
  | rwaite (w : VArgs)
  /-- RCLAIM (R225): Claims a ring slot without waiting. -/
  | rclaim (w : VArgs)
  /-- RPUB (R225): Publishes a claimed ring slot. -/
  | rpub (w : VArgs)
  /-- RREL (R225): Releases a filled ring slot. -/
  | rrel (w : VArgs)
  /-- QPUT_VW (R226): L, C or S appends k(A) to a queue. -/
  | qputVw (w : VArgs)
  /-- QGET_VW (R226): L, C or S removes a queue entry into k(D), adopting pending fcr writes. -/
  | qgetVw (w : VArgs)
  /-- SEMADD_VW (R227): L, C or S adds to a semaphore. -/
  | semaddVw (w : VArgs)
  /-- SEMWAIT_VW (R227): L, C or S waits on a semaphore, optionally consuming. -/
  | semwaitVw (w : VArgs)
  /-- KLI (R228): Loads SX(IMM) into a k register. -/
  | kli (w : VArgs)
  /-- KADD (R228): Adds SX(IMM) to a k register. -/
  | kadd (w : VArgs)
  /-- LOOPN (R229): Runs a body of up to 32 words as a nest of up to 6 levels. -/
  | loopn (w : VArgs)
  /-- VPM (R243): Reduces a mask to any, all or none into a predicate. -/
  | vpm (w : VArgs)
  /-- VADD (R238): Lane floating-point add. -/
  | vadd (w : VArgs)
  /-- VSUB (R238): Lane floating-point subtract. -/
  | vsub (w : VArgs)
  /-- VMUL (R238): Lane floating-point multiply. -/
  | vmul (w : VArgs)
  /-- VFMA (R238): Lane fused multiply-add. -/
  | vfma (w : VArgs)
  /-- VMINMAX (R239): Lane floating-point minimum or maximum. -/
  | vminmax (w : VArgs)
  /-- VSGN (R239): Lane absolute value, negation or copysign on bits. -/
  | vsgn (w : VArgs)
  /-- VCLAMP (R239): Lane clamp of A between B and C. -/
  | vclamp (w : VArgs)
  /-- VIADD (R240): Lane integer add, wrapping or saturating. -/
  | viadd (w : VArgs)
  /-- VISUB (R240): Lane integer subtract, wrapping or saturating. -/
  | visub (w : VArgs)
  /-- VIMUL (R240): Lane integer multiply, low or high half. -/
  | vimul (w : VArgs)
  /-- VLOGIC (R240): Lane bitwise logic. -/
  | vlogic (w : VArgs)
  /-- VSHIFT (R240): Lane shifts. -/
  | vshift (w : VArgs)
  /-- VIMINMAX (R240): Lane signed or unsigned integer minimum or maximum. -/
  | viminmax (w : VArgs)
  /-- VCMP (R241): Lane compare into a mask and its complement. -/
  | vcmp (w : VArgs)
  /-- VSEL (R242): Selects lanes of A or B by a mask. -/
  | vsel (w : VArgs)
  /-- VCVT (R244): Lane element conversion, optionally stochastic. -/
  | vcvt (w : VArgs)
  /-- VQNT (R245): Quantises tile rows into block-scaled codes and scales. -/
  | vqnt (w : VArgs)
  /-- VSF (R247): Correctly rounded lane special function. -/
  | vsf (w : VArgs)
  /-- VBCR (R248): Broadcasts one row to all rows. -/
  | vbcr (w : VArgs)
  /-- VBCC (R248): Broadcasts one column to all columns. -/
  | vbcc (w : VArgs)
  /-- VROTR (R248): Rotates rows. -/
  | vrotr (w : VArgs)
  /-- VROTC (R248): Rotates columns. -/
  | vrotc (w : VArgs)
  /-- VPERM (R248): Permutes within rows or columns by an index tile. -/
  | vperm (w : VArgs)
  /-- VMOV (R248): Moves between tiles and masks. -/
  | vmov (w : VArgs)
  /-- VLI (R248): Loads an immediate or iota into a tile. -/
  | vli (w : VArgs)
  /-- VREDR (R249): Reduces the 16 rows of each column, rounding once. -/
  | vredr (w : VArgs)
  /-- VREDC (R249): Reduces the 64 lanes of each row, rounding once. -/
  | vredc (w : VArgs)
  /-- VSEGR (R250): Segmented running reduction in lane order. -/
  | vsegr (w : VArgs)
  /-- VSCANR (R251): Scan down each column. -/
  | vscanr (w : VArgs)
  /-- VRNG (R253): Generates ZCG-10 random numbers per lane. -/
  | vrng (w : VArgs)
  /-- UPD (R352): Checks lanes and appends update triples to the emit pool. -/
  | upd (w : VArgs)
  /-- UPDF (R354): Waits until a port's earlier triples are accepted. -/
  | updf (w : VArgs)
  /-- MMA (R336): Buffer-mode matrix multiply-accumulate. -/
  | mma (w : MArgs)
  /-- MMA_D (R336): Direct-mode matrix multiply-accumulate from scratchpad. -/
  | mmaD (w : MArgs)
  /-- MMAS (R337): Sparse inner products over two fibres into accumulators. -/
  | mmas (w : MArgs)
  /-- MZERO (R339): Clears accumulators. -/
  | mzero (w : MArgs)
  /-- MACCR (R339): Copies an accumulator to four tiles. -/
  | maccr (w : MArgs)
  /-- MACCW (R339): Copies four tiles to an accumulator. -/
  | maccw (w : MArgs)
  /-- MSCALE (R340): Scales accumulator columns by F32 factors. -/
  | mscale (w : MArgs)
  /-- MWAIT (R341): Waits until port words finish and returns accumulators to C. -/
  | mwait (w : MArgs)
  /-- COPY (R281): Strided copy of record elements. -/
  | copy (w : TArgs)
  /-- XPOSE (R282): Transposes and re-blocks elements. -/
  | xpose (w : TArgs)
  /-- CONV (R283): Dense format conversion, computing block scales. -/
  | conv (w : TArgs)
  /-- CONV_ZP (R284): Compacts elements to zero-plane blocks. -/
  | convZp (w : TArgs)
  /-- CONV_FIB (R284): Compacts a matrix to fibre arrays. -/
  | convFib (w : TArgs)
  /-- DECOMP (R285): Expands a zero-plane sequence. -/
  | decomp (w : TArgs)
  /-- REQ (R286): Requantising transpose of block-scaled data, privileged. -/
  | req (w : TArgs)
  /-- GATHER (R287): Gathers indexed items into dense storage. -/
  | gather (w : TArgs)
  /-- SCATTER (R287): Scatters dense items to indexed places. -/
  | scatter (w : TArgs)
  /-- IREAD (R288): Indexed reads from peer scratchpads, written in order. -/
  | iread (w : TArgs)
  /-- MCAST (R289): Writes one source to up to 64 destinations. -/
  | mcast (w : TArgs)
  /-- REDUCE (R291): Combines listed sources into a destination at its port. -/
  | reduce (w : TArgs)
  /-- ACCW (R292): Accumulates source elements into destination elements at the port. -/
  | accw (w : TArgs)
  /-- ATOM (R295): Fetch-add, swap or compare-and-swap at the home. -/
  | atom (w : TArgs)
  /-- SIGNAL (R297): Adds to a semaphore after earlier commands complete. -/
  | signal (w : TArgs)
  /-- SEMWT (R298): Context waits on a semaphore, optionally consuming. -/
  | semwt (w : TArgs)
  /-- RFILL (R300): Fills ring slots one element per slot, publishing each. -/
  | rfill (w : TArgs)
  /-- RDRAIN (R300): Drains ring slots, releasing each. -/
  | rdrain (w : TArgs)
  /-- TAGSET (R301): Sets a tag once earlier commands complete. -/
  | tagset (w : TArgs)
  /-- TREL (R302): Transfer release fence. -/
  | trel (w : TArgs)
  /-- TACQ (R302): Transfer acquire fence. -/
  | tacq (w : TArgs)
  /-- TFENCE (R302): Transfer full fence. -/
  | tfence (w : TArgs)
  /-- FOLLOW (R303): Reads and checks a matrix word for the follow-on port. -/
  | follow (w : TArgs)
  /-- PREF (R304): Requests tier moves for touched TIERED pages. -/
  | pref (w : TArgs)
  /-- MIGH (R304): Sets residence hints of touched TIERED pages. -/
  | migh (w : TArgs)
  /-- UDRAIN (R305): Waits until a region's accepted triples are applied. -/
  | udrain (w : TArgs)
  /-- URGN (R365): Creates or deletes an update region, privileged. -/
  | urgn (w : TArgs)
  /-- COLL (R308): Collective operation among participants. -/
  | coll (w : TArgs)
  /-- TBR_64 (R309): Conditional transfer branch, 16-bit offset. -/
  | tbr64 (w : TArgs)
  /-- TBR_128 (R309): Conditional transfer branch, 64-bit offset. -/
  | tbr128 (w : TArgs)
  /-- TLOOP_64 (R309): Decrements a c register and branches while nonzero. -/
  | tloop64 (w : TArgs)
  /-- TLOOP_128 (R309): Counted loop branch, 128-bit form. -/
  | tloop128 (w : TArgs)
  /-- TLI_64 (R310): Loads SX(IMM16) into an a register. -/
  | tli64 (w : TArgs)
  /-- TLI_128 (R310): Loads IMM64 into an a register. -/
  | tli128 (w : TArgs)
  /-- TCMP (R310): Sets the compare flag from two a registers. -/
  | tcmp (w : TArgs)
  /-- TLDR (R312): Loads 8 bytes from the parameter area. -/
  | tldr (w : TArgs)
  /-- TSTR (R312): Stores 8 bytes to the parameter area. -/
  | tstr (w : TArgs)
  /-- TADD_64 (R313): a register add, 64-bit form. -/
  | tadd64 (w : TArgs)
  /-- TADD_128 (R313): a register add with IMM64. -/
  | tadd128 (w : TArgs)
  /-- TSUB_64 (R313): a register subtract. -/
  | tsub64 (w : TArgs)
  /-- TSUB_128 (R313): a register subtract with IMM64. -/
  | tsub128 (w : TArgs)
  /-- TMUL_64 (R313): a register multiply, low 64 bits. -/
  | tmul64 (w : TArgs)
  /-- TMUL_128 (R313): a register multiply with IMM64. -/
  | tmul128 (w : TArgs)
  /-- TAND_64 (R313): a register AND. -/
  | tand64 (w : TArgs)
  /-- TAND_128 (R313): a register AND with IMM64. -/
  | tand128 (w : TArgs)
  /-- TOR_64 (R313): a register OR. -/
  | tor64 (w : TArgs)
  /-- TOR_128 (R313): a register OR with IMM64. -/
  | tor128 (w : TArgs)
  /-- TSHL_64 (R313): a register left shift. -/
  | tshl64 (w : TArgs)
  /-- TSHL_128 (R313): a register left shift with IMM64. -/
  | tshl128 (w : TArgs)
  /-- TSHR_64 (R313): a register logical right shift. -/
  | tshr64 (w : TArgs)
  /-- TSHR_128 (R313): a register right shift with IMM64. -/
  | tshr128 (w : TArgs)
  /-- TEND (R311): Ends the invocation; context freed when commands complete. -/
  | tend
  /-- LDS_COMPLETE (R173): Load data arrives 4 clocks after its position; D written and lc decremented. -/
  | ldsComplete
  /-- FENCESC_COMPLETE (R186): FENCESC completes at the first tick after its accesses are performed. -/
  | fencescComplete
  /-- TASK_RETIREMENT (R134): DONE completes once contexts, emit ports and issued words finish; core freed. -/
  | taskRetirement
  /-- BLOCKING_CONDITION_MET (R178): A waiting blocking word finds its condition true at an opportunity and acts. -/
  | blockingConditionMet
  /-- WAIT_TIMEOUT (R43): A wait limit of W x 256 core clocks expires and the trap is raised. -/
  | waitTimeout
  /-- TRAP_DELIVERY (R136): A raised trap stops the sequencers, writes trap CSRs and enters HANDLER. -/
  | trapDelivery
  /-- RING_EXTENSION_LINK (R224): Lock-keeper links an extensible ring's extension instead of a timeout. -/
  | ringExtensionLink
  /-- MATRIX_WORD_START (R331): Engine takes its next word from the C queue or the follow-on port. -/
  | matrixWordStart
  /-- TILE_STEP_START (R327): A tile step starts once its buffers are FULL, latching and clearing them. -/
  | tileStepStart
  /-- MATRIX_WORD_COMPLETE (R332): Accumulators written and flags merged; the word completes. -/
  | matrixWordComplete
  /-- MATRIX_ENGINE_IDLE (R331): After 1,024 clocks without a word the engine becomes idle. -/
  | matrixEngineIdle
  /-- ADMISSION_GRANT (R294): A held contribution is admitted once earlier listed sources have applied. -/
  | admissionGrant
  /-- CONTEXT_WAIT_SATISFIED (R300): A context waiting in SEMWT, RFILL or RDRAIN finds its condition and proceeds. -/
  | contextWaitSatisfied
  /-- FOLLOW_ACCEPT (R333): Port accepts the word after the preceding copy lands; accumulators become follow-owned. -/
  | followAccept
  /-- COLL_EXCHANGE (R307): All participants have started; parameters exchanged and checked. -/
  | collExchange
  /-- INVOCATION_START (R197): A free context takes the oldest queued invocation. -/
  | invocationStart
  /-- TRANSFER_COMMAND_COMPLETE (R257): All accesses performed at scope; flags merged and tag set. -/
  | transferCommandComplete
  /-- PAGE_WALK_COMPLETE (R265): A translation walk returns a leaf or a fault. -/
  | pageWalkComplete
  /-- VOTE_DISSENT (R267): One voted copy dissents and is resynchronised from the majority. -/
  | voteDissent
  /-- LOCK_CYCLE_TICK (R21): The lock-cycle tick reaches every agent every 64 ns. -/
  | lockCycleTick
  /-- SELECTION (R393): Lock-keeper selects candidates and writes bind records. -/
  | selection
  /-- BIND_DISPATCH (R396): Dispatch carries out a valid bind record: copies, fills, preloads or frame restore. -/
  | bindDispatch
  /-- FAST_PATH_BIND (R398): Hardware binds a launch on a warm core without the firmware. -/
  | fastPathBind
  /-- OVERFLOW_PROMOTION (R388): The oldest overflow record takes a freed mooring and table entry. -/
  | overflowPromotion
  /-- RENAMED_SET_COPY (R392): After the last holder retires, version L is copied into version 0. -/
  | renamedSetCopy
  /-- PREEMPTION_EVALUATION (R395): Every 16 ticks the lock-keeper evaluates and requests pre-emptions. -/
  | preemptionEvaluation
  /-- PREEMPTION (R400): A pre-emption request stops the task and saves its frame. -/
  | preemption
  /-- SWAP_OUT (R274): Time T of suspension with all sequencers waiting expires; task swapped out. -/
  | swapOut
  /-- CORE_FAILED (R402): Machine check on a core stops the task for replay or rollback. -/
  | coreFailed
  /-- READ_UNCORRECTABLE (R420): An uncorrectable ECC error on a read. -/
  | readUncorrectable
  /-- ECC_CORRECTED (R420): A single-bit error is corrected and counted. -/
  | eccCorrected
  /-- ECC_THRESHOLD (R420): 256 corrections on a die within a second are reported as 0xF1. -/
  | eccThreshold
  /-- DRAIN_UNIT_TAKE (R355): The drain unit reads pool entries and sends triples to basins. -/
  | drainUnitTake
  /-- BASIN_ACCEPT (R356): A basin accepts a triple into bin SRAM as pending. -/
  | basinAccept
  /-- SPILL_EXTENSION_LINK (R359): Lock-keeper links a spill extension from the reserve. -/
  | spillExtensionLink
  /-- GRANULE_SWEEP (R360): The sweep applies the region's other pending granules. -/
  | granuleSweep
  /-- BASIN_CHOSEN_APPLY (R360): The basin applies insensitive triples at a time of its choosing. -/
  | basinChosenApply
  /-- EPOCH_DECISION (R374): At each 1 ms epoch the tug decides page moves. -/
  | epochDecision
  /-- PREF_REQUEST_SERVE (R375): The tug serves a queued PREF request. -/
  | prefRequestServe
  /-- TUG_MOVE_COMMIT (R377): After invalidation the tug recopies, rewrites the leaf and releases the hold. -/
  | tugMoveCommit
  /-- ANCHOR_EXPIRY (R379): 64 ms after anchoring the page may move again. -/
  | anchorExpiry
  /-- INVALIDATION_COMPLETE (R266): All TLBs have dropped entries and translated accesses are performed. -/
  | invalidationComplete
  /-- QUEUE_DOORBELL (R407): A TAIL write announces packets or restarts a stopped queue. -/
  | queueDoorbell
  /-- QUEUE_ERR_READ (R407): Reading ERR returns and clears the packet error code. -/
  | queueErrRead
  /-- NOP_PACKET (R408): Packet with no effect. -/
  | nopPacket
  /-- ENQUEUE (R408): Reads, checks and enqueues a task from a host queue. -/
  | enqueue
  /-- FENCE_PACKET (R390): Parses a fence packet that waits on counters. -/
  | fencePacket
  /-- FENCE_POLL (R390): Each microsecond the wharf reads the counters; all true satisfies the fence. -/
  | fencePoll
  /-- WRITE (R408): 8-byte write with release at fabric scope. -/
  | write
  /-- INVALIDATE (R266): Starts a TLB invalidation of an ASID range. -/
  | invalidate
  /-- RESUME (R272): Resume doorbell retries suspended elements in a range. -/
  | resume
  /-- PRIORITY (R394): Gives a task a new priority. -/
  | priority
  /-- REVOKE (R401): Pre-empts bound tasks whose code or tables lie in a range. -/
  | revoke
  /-- PIN (R372): Pins pages against tier moves. -/
  | pin
  /-- UNPIN (R372): Removes a page pin. -/
  | unpin
  /-- UNMAP (R378): Clears a TIERED leaf after any move in progress. -/
  | unmap
  /-- REMAP (R378): Changes a TIERED leaf after any move in progress. -/
  | remap
  /-- PARTCFG (R385): Loads a partition configuration and slot tables. -/
  | partcfg
  /-- SLOT_TABLE_SWITCH (R416): New slot tables take effect at a tick multiple of 16. -/
  | slotTableSwitch
  /-- RESET_CORE_WARM (R418): Warm reset of one core. -/
  | resetCoreWarm
  /-- RESET_PARTITION_WARM (R418): Drops all tasks of a partition and resets its cores. -/
  | resetPartitionWarm
  /-- RESET_DEVICE_WARM (R418): Drops all tasks and resets all engines. -/
  | resetDeviceWarm
  /-- RESET_COLD (R418): Reset packet of cold scope. -/
  | resetCold
  /-- RESET_COMPLETE (R419): Reset finishes; one vector 0 message and event 0xF2 sent. -/
  | resetComplete
  /-- CHECKPOINT_FULL (R421): Full dry-dock checkpoint of named partitions. -/
  | checkpointFull
  /-- CHECKPOINT_INCREMENTAL (R421): Incremental checkpoint of written pages. -/
  | checkpointIncremental
  /-- RESTORE (R422): Loads a complete checkpoint onto present dies. -/
  | restore
  /-- RETIRE (R423): Removes a logical compute die from service. -/
  | retire
  /-- REMOVE (R408): Drops a lost task's dependants. -/
  | remove
  /-- ROUTING_TABLE_LOAD (R414): Loads or rejects the fabric routing table. -/
  | routingTableLoad
  /-- FLIT_RECEIVE (R412): A Harwald Link flit is received, corrected or negatively acknowledged. -/
  | flitReceive
  /-- LINK_RETRAIN (R413): Eight successive replays of one flit retrain the port. -/
  | linkRetrain
  /-- LINK_LOST (R413): Retraining fails within 1 ms; outstanding elements fault. -/
  | linkLost
  /-- COLD_RESET (R424): Power-on or cold reset runs bring-up steps 1-8. -/
  | coldReset
  /-- BRINGUP_STEP_TIMEOUT (R424): A bring-up step exceeds its bound; RECOVERY reported. -/
  | bringupStepTimeout
  /-- CORE_GROUP_RELEASE (R426): At each tick one group of 8 logical cores is released. -/
  | coreGroupRelease
  /-- THROTTLE_EVALUATION (R428): Every 16 ticks the throttle level is re-evaluated from power and temperature. -/
  | throttleEvaluation
  /-- THERMAL_TRIP (R429): Overtemperature or low flow removes all rails and records the trip. -/
  | thermalTrip
  /-- COLDRST (R430): Writing 1 to COLDRST starts a cold reset. -/
  | coldrst
  /-- TRIP_CLEAR (R430): Writing 1 to TRIP clears the bit and the trip record. -/
  | tripClear
  /-- PCAP_WRITE (R430): Writes the power limit, clamped, effective at the next 16-tick boundary. -/
  | pcapWrite
  /-- THRCNT_READ (R430): Reading THRCNT returns the count and clears it. -/
  | thrcntRead
  /-- REGISTER_WRITE (R6): Write to any register without a row of its own, per its access type. -/
  | registerWrite
  /-- LAUNCH_RESULT (R189): The lock-keeper's decision on a LAUNCH arrives, writing D and the acceptance predicate and letting X continue. -/
  | launchResult
  /-- SUSPENSION_ENDED_AS_FAULT (R272): System software ends a suspension as a fault, so the command stops as a transfer fault with code 0x80 or 0x83. -/
  | suspensionEndedAsFault
  /-- LINK_RETRAINED (R413): A retraining port comes back up within 1 ms and traffic on its virtual channels resumes. -/
  | linkRetrained
  /-- FREE_FRAME_SUPPLY (R377): System software supplies free frames for a home's free list through the wharf, from which the tug takes move destinations. -/
  | freeFrameSupply
  /-- DYNAMIC_CAPACITY_CHANGE (R380): Pooled CXL dynamic capacity is added or released through the wharf. -/
  | dynamicCapacityChange
  /-- ASID_ROOT_TABLE_LOAD (R263): System software writes the 512-entry ASID root table and the lock-keeper loads it, changing the level-4 roots that walks use. -/
  | asidRootTableLoad
  /-- PKGNUM_LOAD (R146): The wharf loads the package's fabric number into pkgnum at fabric bring-up. -/
  | pkgnumLoad
deriving DecidableEq, Repr

/-- A row that no sequencer and no context fetches: an event, a packet or a management action. -/
def Instr.isEvent : Instr → Bool
  | .ldsComplete => true
  | .fencescComplete => true
  | .taskRetirement => true
  | .blockingConditionMet => true
  | .waitTimeout => true
  | .trapDelivery => true
  | .ringExtensionLink => true
  | .matrixWordStart => true
  | .tileStepStart => true
  | .matrixWordComplete => true
  | .matrixEngineIdle => true
  | .admissionGrant => true
  | .contextWaitSatisfied => true
  | .followAccept => true
  | .collExchange => true
  | .invocationStart => true
  | .transferCommandComplete => true
  | .pageWalkComplete => true
  | .voteDissent => true
  | .lockCycleTick => true
  | .selection => true
  | .bindDispatch => true
  | .fastPathBind => true
  | .overflowPromotion => true
  | .renamedSetCopy => true
  | .preemptionEvaluation => true
  | .preemption => true
  | .swapOut => true
  | .coreFailed => true
  | .readUncorrectable => true
  | .eccCorrected => true
  | .eccThreshold => true
  | .drainUnitTake => true
  | .basinAccept => true
  | .spillExtensionLink => true
  | .granuleSweep => true
  | .basinChosenApply => true
  | .epochDecision => true
  | .prefRequestServe => true
  | .tugMoveCommit => true
  | .anchorExpiry => true
  | .invalidationComplete => true
  | .queueDoorbell => true
  | .queueErrRead => true
  | .nopPacket => true
  | .enqueue => true
  | .fencePacket => true
  | .fencePoll => true
  | .write => true
  | .invalidate => true
  | .resume => true
  | .priority => true
  | .revoke => true
  | .pin => true
  | .unpin => true
  | .unmap => true
  | .remap => true
  | .partcfg => true
  | .slotTableSwitch => true
  | .resetCoreWarm => true
  | .resetPartitionWarm => true
  | .resetDeviceWarm => true
  | .resetCold => true
  | .resetComplete => true
  | .checkpointFull => true
  | .checkpointIncremental => true
  | .restore => true
  | .retire => true
  | .remove => true
  | .routingTableLoad => true
  | .flitReceive => true
  | .linkRetrain => true
  | .linkLost => true
  | .coldReset => true
  | .bringupStepTimeout => true
  | .coreGroupRelease => true
  | .throttleEvaluation => true
  | .thermalTrip => true
  | .coldrst => true
  | .tripClear => true
  | .pcapWrite => true
  | .thrcntRead => true
  | .registerWrite => true
  | .launchResult => true
  | .suspensionEndedAsFault => true
  | .linkRetrained => true
  | .freeFrameSupply => true
  | .dynamicCapacityChange => true
  | .asidRootTableLoad => true
  | .pkgnumLoad => true
  | _ => false

end Sys2Proof
end

