-- ==== Sys2Proof/WellFormed.lean ====
section
/-!
DEFINITION. WellFormed.lean: which operand fields a word may hold (R41-R60): register numbers, FN values, operand
limits and the fields that must be zero. A word whose fields fail raises ILLEGAL_ENCODING (R37 check 3) or stops its
context (R59). What depends on the stream or on the state is checked where the word is decoded or run.
-/

namespace Sys2Proof

/-! ## CSR addresses (R60, R146) -/

/-- The addresses of the task-state CSRs that R146 lists below 0x200. -/
def csrTaskAddrs : List Nat :=
  [0x001, 0x002, 0x005, 0x006, 0x011, 0x012, 0x021, 0x022, 0x023, 0x024, 0x025, 0x031, 0x032,
   0x100, 0x101, 0x102, 0x103, 0x104, 0x105, 0x106, 0x107, 0x108,
   0x110, 0x111, 0x112, 0x113, 0x114, 0x115]

/-- An address of the map of R146. -/
def csrAssigned (a : BitVec 12) : Bool :=
  csrTaskAddrs.contains a.toNat || a.toNat == 0x800 || a.toNat == 0x801

/-- A privileged CSR: assigned at 0x800 or above (R60). -/
def csrPrivileged (a : BitVec 12) : Bool := decide (0x800 ≤ a.toNat)

/-! ## Scalar words (R41) -/

/-- pd and pe differ unless both are p7 (R157). -/
def predPairOk (pd pe : PReg) : Bool := pd != pe || pd == 7

/-- lsb and width of a bit-field word (R155). -/
def bitFieldOk (lsb : BitVec 6) (width : BitVec 7) : Bool :=
  decide (1 ≤ width.toNat) && decide (lsb.toNat + width.toNat ≤ 64)

/-! ## Vector words (R44-R49) -/

/-- The fields a VW row may name (R48). -/
inductive VField where
  | d | a | b | c | fn | fmt | msel | ms | sa | sb | sc | imm
deriving DecidableEq, Repr

/-- The field holds zero. -/
def VArgs.zeroAt (w : VArgs) : VField → Bool
  | .d => w.d == 0
  | .a => w.a == 0
  | .b => w.b == 0
  | .c => w.c == 0
  | .fn => w.fn == 0
  | .fmt => w.fmt == 0
  | .msel => w.msel == 0
  | .ms => !w.ms
  | .sa => w.sa == 0
  | .sb => w.sb == 0
  | .sc => w.sc == 0
  | .imm => w.imm == 0

/-- Every field the row does not name is zero (R48, R49). -/
def VArgs.only (w : VArgs) (use : List VField) : Bool :=
  [VField.d, .a, .b, .c, .fn, .fmt, .msel, .ms, .sa, .sb, .sc, .imm].all fun f =>
    use.contains f || w.zeroAt f

/-- A register field that names one of eight: its top bit is zero (R44). -/
def low8 (r : Reg4) : Bool := decide (r.toNat < 8)

/-- A register field that names one of four. -/
def low4 (r : Reg4) : Bool := decide (r.toNat < 4)

/-- The NEG bit of a strided-operand byte is clear (R45). -/
def noNeg (b : Byte) : Bool := !b.getLsbD 7

/-- FMT is F32, BF16 or F16 (R46). -/
def fmtFp (f : BitVec 4) : Bool := f == 0 || f == 2 || f == 3

/-- FMT is one of 0-3. -/
def fmtLane (f : BitVec 4) : Bool := decide (f.toNat ≤ 3)

/-- FMT is F32 or I32. -/
def fmt01 (f : BitVec 4) : Bool := decide (f.toNat ≤ 1)

/-- FN is at most n. -/
def VArgs.fnLe (w : VArgs) (n : Nat) : Bool := decide (w.fn.toNat ≤ n)

/-- IMM is at most n. -/
def VArgs.immLe (w : VArgs) (n : Nat) : Bool := decide (w.imm.toNat ≤ n)

/-- Stochastic-rounding fields of VCVT and VQNT: C[27:25] zero, IMM zero unless C[24] is set (R244, R245). -/
def VArgs.srOk (w : VArgs) : Bool := decide (w.c.toNat ≤ 1) && (w.c == 1 || w.imm == 0)

/-- The conditions a VCMP may name for its type (R241). -/
def vcmpFnOk (w : VArgs) : Bool := if fmtFp w.fmt then w.fnLe 3 else w.fmt == 1 && w.fnLe 4

/-- The pairs of source type and destination a VCVT may name (R244). -/
def vcvtOk (w : VArgs) : Bool :=
  let wide := w.fn == 0 || w.fn == 1 || w.fn == 11
  fmtLane w.fmt && w.fnLe 11 && w.srOk && (fmtFp w.fmt || noNeg w.sa) &&
    !((w.fmt == 2 || w.fmt == 3) && wide) && !(w.fmt == 1 && w.fn == 11) &&
    !(w.c == 1 && (w.fn == 0 || w.fn == 11))

/-- Well-formed fields of a stream, fibre or ring word (R202). -/
def vwfGopen (w : VArgs) : Bool := w.only [.d, .a, .imm] && low8 w.d && low8 w.a
def vwfGopenX (w : VArgs) : Bool := w.only [.d, .fn, .imm] && w.fn == 1 && low8 w.d && w.immLe 0xFFFF
def vwfMaskD (w : VArgs) : Bool := w.only [.d, .a, .b, .fmt, .sa, .sb, .msel, .ms]

/-! ## Matrix words (R50-R54) -/

/-- ACC + ACN does not exceed 3 (R50). -/
def MArgs.accOk (w : MArgs) : Bool := decide (w.acc.toNat + w.acn.toNat ≤ 3)

/-- Bits `lo .. lo+n-1` of OPS, counted from bit 32 of the word. -/
def MArgs.opsAt (w : MArgs) (lo n : Nat) : Nat := (w.ops.toNat >>> lo) % 2 ^ n

/-- A format code of an operand with scales (R66). -/
def fmtScaled (f : Nat) : Bool := decide (11 ≤ f)

/-- A format code of an integer operand (R53). -/
def fmtInt (f : Nat) : Bool := f == 9 || f == 10

/-- The engine accepts the pair (R53). -/
def pairOk (a b : Nat) : Bool := fmtInt a == fmtInt b

/-- The element width of a format code, in bits, as stored (R66). -/
def fmtWidth (f : Nat) : Nat :=
  if f == 0 || f == 1 then 32 else if f == 2 || f == 3 then 16
  else if f == 6 || f == 7 || f == 13 || f == 14 then 6
  else if f == 8 || f == 10 || f == 15 then 4 else 8

/-- Bytes of one canonical block of 64 lines of 96 elements (R87). -/
def blockBytes (f : Nat) : Nat := 64 * 96 * fmtWidth f / 8

/-- Bytes of the scale area of `steps` steps (R88): none, 128 a step, or a 64-byte band row and 768 a step. -/
def scaleBytes (f steps : Nat) : Nat :=
  if f == 15 then 64 + 768 * steps else if fmtScaled f then 128 * steps else 0

/-- One operand of a direct-mode word: no scale field without scales (R52), every byte in the data area (R330). -/
def directOperandOk (f data scales steps : Nat) : Bool :=
  (fmtScaled f || scales == 0) &&
    decide (64 * data + steps * blockBytes f ≤ 0x3E0000) &&
    decide (64 * scales + scaleBytes f steps ≤ 0x3E0000)

/-- A direct-mode MMA (R50, R52, R53, R330). -/
def mmaDirectOk (w : MArgs) : Bool :=
  let n := w.ks.toNat + 1
  w.accOk && w.mode == 1 && pairOk w.fmta.toNat w.fmtb.toNat &&
    decide (w.ops.toNat < 2 ^ (32 + 32 * (w.acn.toNat + 1))) &&
    directOperandOk w.fmta.toNat (w.opsAt 0 16) (w.opsAt 16 16) n &&
    (List.range (w.acn.toNat + 1)).all fun i =>
      directOperandOk w.fmtb.toNat (w.opsAt (32 + 32 * i) 16) (w.opsAt (48 + 32 * i) 16) n

/-- MODE, FMTA and FMTB are zero. -/
def MArgs.plain (w : MArgs) : Bool := w.mode == 0 && w.fmta == 0 && w.fmtb == 0

/-! ## Transfer words (R56-R59) -/

/-- The fields a TW row may name besides ORD, SCOPE, TE and TAG (R58). -/
inductive TField where
  | d | s | h | x | sfmt | dfmt | fn | imm16 | imm64
deriving DecidableEq, Repr

/-- The field holds zero. -/
def TArgs.zeroAt (w : TArgs) : TField → Bool
  | .d => w.d == 0
  | .s => w.s == 0
  | .h => w.h == 0
  | .x => w.x == 0
  | .sfmt => w.sfmt == 0
  | .dfmt => w.dfmt == 0
  | .fn => w.fn == 0
  | .imm16 => w.imm16 == 0
  | .imm64 => w.imm64 == 0

/-- Every field the row does not name is zero. -/
def TArgs.only (w : TArgs) (use : List TField) : Bool :=
  [TField.d, .s, .h, .x, .sfmt, .dfmt, .fn, .imm16, .imm64].all fun f => use.contains f || w.zeroAt f

/-- TAG is zero when TE is clear (R57). -/
def TArgs.tagOk (w : TArgs) : Bool := w.te || w.tag == 0

/-- No tag (R57: only the data commands and TAGSET use TE and TAG). -/
def TArgs.noTag (w : TArgs) : Bool := !w.te && w.tag == 0

/-- SCOPE is zero when ORD is relaxed (R57). -/
def TArgs.ordOk (w : TArgs) : Bool := w.ord != 0 || w.scope == 0

/-- Neither ORD nor SCOPE (R57). -/
def TArgs.noOrd (w : TArgs) : Bool := w.ord == 0 && w.scope == 0

/-- FN is at most n. -/
def TArgs.fnLe (w : TArgs) (n : Nat) : Bool := decide (w.fn.toNat ≤ n)

/-- A data command with ordering fields and a tag. -/
def TArgs.cmd (w : TArgs) (use : List TField) : Bool := w.only use && w.tagOk && w.ordOk

/-- A word with neither a tag nor ordering. -/
def TArgs.ctl (w : TArgs) (use : List TField) : Bool := w.only use && w.noTag && w.noOrd

/-- The fields of ATOM (R295). -/
def atomOk (w : TArgs) : Bool :=
  let op := w.fn.toNat % 4
  let ty := w.fn.toNat / 4
  decide (op ≤ 2) && decide (ty ≤ 2) && !(ty == 2 && op != 0) && (op == 2 || w.x == 0)

/-- The fields of COLL (R308). -/
def collOk (w : TArgs) : Bool :=
  let kind := w.fn.toNat % 8
  let op := w.fn.toNat / 8
  decide (kind ≤ 4) && decide (op ≤ 4) && (decide (kind ≤ 1) || op == 0)

/-- The destination formats a fibre may hold (R90). -/
def fibreFmtOk (f : Nat) : Bool := decide (f ≤ 5) || f == 9

/-- The register-arithmetic words (R313): an immediate only with FN[40], and then X zero. -/
def tarith64 (w : TArgs) : Bool :=
  w.ctl [.d, .s, .x, .fn, .imm16] && w.fnLe 1 && (if w.fn == 1 then w.x == 0 else w.imm16 == 0)

def tarith128 (w : TArgs) : Bool :=
  w.ctl [.d, .s, .x, .fn, .imm64] && w.fnLe 1 && (if w.fn == 1 then w.x == 0 else w.imm64 == 0)

/-! ## Every row -/

/-- The operand fields of a step are ones the spec admits. -/
def Instr.wf : Instr → Bool
  | .add _ _ _ _ => true
  | .sub _ _ _ _ => true
  | .andR _ _ _ _ => true
  | .orR _ _ _ _ => true
  | .xorR _ _ _ _ => true
  | .andn _ _ _ _ => true
  | .sll _ _ _ _ => true
  | .srl _ _ _ _ => true
  | .sra _ _ _ _ => true
  | .minS _ _ _ _ => true
  | .maxS _ _ _ _ => true
  | .minU _ _ _ _ => true
  | .maxU _ _ _ _ => true
  | .clz _ _ _ => true
  | .ctz _ _ _ => true
  | .popc _ _ _ => true
  | .addImm64 _ _ _ _ => true
  | .addImm96 _ _ _ _ => true
  | .subImm64 _ _ _ _ => true
  | .subImm96 _ _ _ _ => true
  | .andImm64 _ _ _ _ => true
  | .andImm96 _ _ _ _ => true
  | .orImm64 _ _ _ _ => true
  | .orImm96 _ _ _ _ => true
  | .xorImm64 _ _ _ _ => true
  | .xorImm96 _ _ _ _ => true
  | .andnImm64 _ _ _ _ => true
  | .andnImm96 _ _ _ _ => true
  | .sllImm64 _ _ _ imm =>
    decide (imm.toNat < 64)
  | .sllImm96 _ _ _ imm =>
    decide (imm.toNat < 64)
  | .srlImm64 _ _ _ imm =>
    decide (imm.toNat < 64)
  | .srlImm96 _ _ _ imm =>
    decide (imm.toNat < 64)
  | .sraImm64 _ _ _ imm =>
    decide (imm.toNat < 64)
  | .sraImm96 _ _ _ imm =>
    decide (imm.toNat < 64)
  | .minImm64 _ _ _ _ => true
  | .minImm96 _ _ _ _ => true
  | .maxImm64 _ _ _ _ => true
  | .maxImm96 _ _ _ _ => true
  | .minuImm64 _ _ _ _ => true
  | .minuImm96 _ _ _ _ => true
  | .maxuImm64 _ _ _ _ => true
  | .maxuImm96 _ _ _ _ => true
  | .mul _ _ _ _ => true
  | .mulh _ _ _ _ => true
  | .mulhu _ _ _ _ => true
  | .div _ _ _ _ => true
  | .divu _ _ _ _ => true
  | .rem _ _ _ _ => true
  | .remu _ _ _ _ => true
  | .bfx _ _ _ l n =>
    bitFieldOk l n
  | .bfxs _ _ _ l n =>
    bitFieldOk l n
  | .bfi _ _ _ l n =>
    bitFieldOk l n
  | .li64 _ _ _ => true
  | .li96 _ _ _ => true
  | .lih _ _ _ => true
  | .cmp _ cond comb pd pe _ b immForm imm =>
    decide (cond.toNat ≤ 5) && decide (comb.toNat ≤ 2) && predPairOk pd pe && (if immForm then b == 0 else imm == 0)
  | .fcmp _ cond comb _ pd pe _ _ =>
    decide (cond.toNat ≤ 3) && decide (comb.toNat ≤ 2) && predPairOk pd pe
  | .plogAnd _ _ _ _ => true
  | .plogOr _ _ _ _ => true
  | .plogXor _ _ _ _ => true
  | .plogAndn _ _ _ _ => true
  | .plogNand _ _ _ _ => true
  | .plogNor _ _ _ _ => true
  | .plogXnor _ _ _ _ => true
  | .plogMov _ _ _ => true
  | .fadd _ _ _ _ _ => true
  | .fsub _ _ _ _ _ => true
  | .fmul _ _ _ _ _ => true
  | .ffma _ _ _ _ _ _ _ _ => true
  | .fmin _ _ _ _ _ => true
  | .fmax _ _ _ _ _ => true
  | .fcvtFpFp _ _ _ _ _ => true
  | .fcvtFpI64 _ _ _ _ => true
  | .fcvtFpU64 _ _ _ _ => true
  | .fcvtI64Fp _ _ _ _ => true
  | .fcvtU64Fp _ _ _ _ => true
  | .br32 _ _ => true
  | .br64 _ _ => true
  | .br96 _ _ => true
  | .call32 _ _ => true
  | .call64 _ _ => true
  | .call96 _ _ => true
  | .jmpr _ _ => true
  | .ret _ => true
  | .nop32 _ => true
  | .nop64 _ => true
  | .nop96 _ => true
  | .lds _ _ _ size sx _ =>
    !(size == 3 && sx)
  | .sts _ _ _ _ _ => true
  | .waitlc64 _ _ _ _ => true
  | .waitlc96 _ _ _ _ => true
  | .semadd _ _ _ _ => true
  | .semwait64 _ _ _ _ _ _ _ => true
  | .semwait96 _ _ _ _ _ _ _ => true
  | .tagwait64 _ _ _ _ _ _ _ => true
  | .tagwait96 _ _ _ _ _ _ _ => true
  | .tagff _ _ _ _ => true
  | .qput64 _ q _ _ _ =>
    decide (q.toNat ≤ 2)
  | .qput96 _ q _ _ _ =>
    decide (q.toNat ≤ 2)
  | .qget64 _ q _ _ _ =>
    decide (5 ≤ q.toNat)
  | .qget96 _ q _ _ _ =>
    decide (5 ≤ q.toNat)
  | .fenceFull _ _ => true
  | .fenceRelease _ _ => true
  | .fenceAcquire _ _ => true
  | .fencesc _ => true
  | .launch _ _ _ _ => true
  | .done _ => true
  | .yield _ => true
  | .csrr _ _ a =>
    csrAssigned a
  | .csrw _ _ _ a =>
    csrAssigned a
  | .csrwSet _ _ _ a =>
    csrAssigned a
  | .csrwClr _ _ _ a =>
    csrAssigned a
  | .trap _ _ => true
  | .tret _ => true
  | .apcvtGlob _ _ _ => true
  | .apcvtOwn _ _ _ => true
  | .aptst _ _ _ => true
  | .txgo64 _ _ _ _ _ => true
  | .txgo96 _ _ _ _ _ => true
  | .gopen w =>
    vwfGopen w
  | .gopenX w =>
    vwfGopenX w
  | .gclose w =>
    w.only [.d] && low8 w.d
  | .shfence w =>
    w.only []
  | .gld w =>
    w.only [.d, .a] && low8 w.a
  | .gldOa w =>
    w.only [.d, .a, .fn] && w.fn == 1 && low4 w.d && low8 w.a
  | .gldOb w =>
    w.only [.d, .a, .fn] && w.fn == 2 && low4 w.d && low8 w.a
  | .gldm w =>
    w.only [.d, .a] && low8 w.a
  | .gst w =>
    w.only [.d, .a] && low8 w.d
  | .gstAccumulator w =>
    w.only [.d, .a, .fn] && w.fn == 1 && low8 w.d && low4 w.a
  | .gstz w =>
    w.only [.d, .a] && low8 w.d
  | .gadv w =>
    w.only [.d, .fn, .imm] && w.fnLe 5 && low8 w.d
  | .gend w =>
    w.only [.d, .a] && low8 w.d && low8 w.a
  | .gldr w =>
    w.only [.d, .a, .c] && low8 w.a && decide (w.c.toNat ≤ 6)
  | .fopen w =>
    w.only [.d, .a, .imm] && low4 w.d && low8 w.a
  | .fadv w =>
    w.only [.d, .imm] && low4 w.d
  | .fend w =>
    w.only [.d, .a] && low8 w.d && low4 w.a
  | .fclose w =>
    w.only [.d] && low4 w.d
  | .fisect w =>
    w.only [.d, .a, .b] && low4 w.d && low4 w.a && low4 w.b
  | .fldv w =>
    w.only [.d, .a] && low4 w.a
  | .fldvCrd w =>
    w.only [.d, .a, .fn] && w.fn == 1 && low4 w.a
  | .rwaitf w =>
    w.only [.d, .a, .imm, .msel] && low8 w.d && low8 w.a
  | .rwaite w =>
    w.only [.d, .a, .imm, .msel] && low8 w.d && low8 w.a
  | .rclaim w =>
    w.only [.d, .a] && low8 w.d && low8 w.a
  | .rpub w =>
    w.only [.a] && low8 w.a
  | .rrel w =>
    w.only [.a] && low8 w.a
  | .qputVw w =>
    w.only [.a, .fn, .imm, .msel] && w.fnLe 7 && low8 w.a
  | .qgetVw w =>
    w.only [.d, .fn, .imm, .msel] && w.fnLe 7 && low8 w.d
  | .semaddVw w =>
    w.only [.a, .b, .imm] && low8 w.a && low8 w.b
  | .semwaitVw w =>
    w.only [.a, .b, .fn, .imm, .msel] && w.fnLe 1 && low8 w.a && low8 w.b
  | .kli w =>
    w.only [.d, .imm] && low8 w.d
  | .kadd w =>
    w.only [.d, .a, .imm] && low8 w.d && low8 w.a
  | .loopn w =>
    w.only [.a, .fn, .imm] && w.fnLe 5 && low8 w.a && w.immLe 31
  | .vpm w =>
    w.only [.d, .fn, .msel, .ms] && w.fnLe 2 && low8 w.d
  | .vadd w =>
    vwfMaskD w && fmtFp w.fmt
  | .vsub w =>
    vwfMaskD w && fmtFp w.fmt
  | .vmul w =>
    vwfMaskD w && fmtFp w.fmt
  | .vfma w =>
    w.only [.d, .a, .b, .c, .fmt, .sa, .sb, .sc, .msel, .ms] && fmtFp w.fmt
  | .vminmax w =>
    w.only [.d, .a, .b, .fn, .fmt, .sa, .sb, .msel, .ms] && w.fnLe 1 && fmtFp w.fmt
  | .vsgn w =>
    w.only [.d, .a, .b, .fn, .fmt, .sa, .sb, .msel, .ms] && w.fnLe 2 && fmtFp w.fmt && (w.fn == 2 || (w.b == 0 && w.sb == 0))
  | .vclamp w =>
    w.only [.d, .a, .b, .c, .fmt, .sa, .sb, .sc, .msel, .ms] && fmtLane w.fmt
  | .viadd w =>
    w.only [.d, .a, .b, .fn, .fmt, .sa, .sb, .msel, .ms] && w.fnLe 1 && w.fmt == 1
  | .visub w =>
    w.only [.d, .a, .b, .fn, .fmt, .sa, .sb, .msel, .ms] && w.fnLe 1 && w.fmt == 1
  | .vimul w =>
    w.only [.d, .a, .b, .fn, .fmt, .sa, .sb, .msel, .ms] && w.fnLe 2 && w.fmt == 1
  | .vlogic w =>
    w.only [.d, .a, .b, .fn, .fmt, .sa, .sb, .msel, .ms] && w.fnLe 4 && w.fmt == 1 && noNeg w.sa && noNeg w.sb && (w.fn != 4 || (w.b == 0 && w.sb == 0))
  | .vshift w =>
    w.only [.d, .a, .b, .fn, .fmt, .sa, .sb, .msel, .ms] && w.fnLe 2 && w.fmt == 1 && noNeg w.sa && noNeg w.sb
  | .viminmax w =>
    w.only [.d, .a, .b, .fn, .fmt, .sa, .sb, .msel, .ms] && w.fnLe 3 && w.fmt == 1
  | .vcmp w =>
    w.only [.d, .a, .b, .c, .fn, .fmt, .sa, .sb, .msel, .ms] && vcmpFnOk w && low8 w.d && low8 w.c && (w.d != w.c || w.d == 7)
  | .vsel w =>
    w.only [.d, .a, .b, .c, .fmt, .sa, .sb, .msel, .ms] && fmtLane w.fmt && low8 w.c && (fmtFp w.fmt || (noNeg w.sa && noNeg w.sb))
  | .vcvt w =>
    w.only [.d, .a, .c, .fn, .fmt, .sa, .msel, .ms, .imm] && vcvtOk w
  | .vqnt w =>
    w.only [.d, .a, .c, .fn, .fmt, .sa, .msel, .ms, .imm] && (w.fmt == 0 || w.fmt == 2) && decide (11 ≤ w.fn.toNat) && decide (w.d.toNat ≤ 14) && w.srOk
  | .vsf w =>
    w.only [.d, .a, .fn, .fmt, .sa, .msel, .ms] && w.fnLe 10 && fmtFp w.fmt
  | .vbcr w =>
    w.only [.d, .a, .sa, .msel, .ms, .imm] && noNeg w.sa && w.immLe 15
  | .vbcc w =>
    w.only [.d, .a, .sa, .msel, .ms, .imm] && noNeg w.sa && w.immLe 63
  | .vrotr w =>
    w.only [.d, .a, .sa, .msel, .ms, .imm] && noNeg w.sa && w.immLe 15
  | .vrotc w =>
    w.only [.d, .a, .sa, .msel, .ms, .imm] && noNeg w.sa && w.immLe 63
  | .vperm w =>
    w.only [.d, .a, .b, .fn, .sa, .sb, .msel, .ms] && w.fnLe 1 && noNeg w.sa && noNeg w.sb
  | .vmov w =>
    w.only [.d, .a, .fn, .sa, .msel, .ms] && w.fnLe 3 && noNeg w.sa && (w.fn == 0 || w.fn == 3 || low8 w.d) && (w.fn == 0 || w.fn == 2 || (low8 w.a && w.sa == 0))
  | .vli w =>
    w.only [.d, .fn, .msel, .ms, .imm] && w.fnLe 1
  | .vredr w =>
    w.only [.d, .a, .fn, .fmt, .sa, .msel, .ms] && w.fnLe 5 && fmtLane w.fmt && (decide (w.fn.toNat ≤ 2) || w.fmt == 1) && (fmtFp w.fmt || noNeg w.sa)
  | .vredc w =>
    w.only [.d, .a, .fn, .fmt, .sa, .msel, .ms] && w.fnLe 5 && fmtLane w.fmt && (decide (w.fn.toNat ≤ 2) || w.fmt == 1) && (fmtFp w.fmt || noNeg w.sa)
  | .vsegr w =>
    w.only [.d, .a, .c, .fn, .fmt, .sa, .msel, .ms] && w.fnLe 2 && fmt01 w.fmt && low8 w.c && (fmtFp w.fmt || noNeg w.sa)
  | .vscanr w =>
    w.only [.d, .a, .fn, .fmt, .sa, .msel, .ms] && w.fnLe 3 && fmt01 w.fmt && (fmtFp w.fmt || noNeg w.sa)
  | .vrng w =>
    w.only [.d, .a, .b, .c, .fn, .sb, .msel, .ms, .imm] && w.fnLe 2 && low8 w.a && low8 w.c && noNeg w.sb
  | .upd w =>
    w.only [.d, .a, .b, .c, .fmt, .sa, .sb, .sc, .msel, .ms, .imm] && low4 w.d && (fmt01 w.fmt || (w.fmt == 4 && decide (w.b.toNat ≤ 14))) && noNeg w.sa && noNeg w.sb && noNeg w.sc && w.immLe 31
  | .updf w =>
    w.only [.d, .fn] && w.fn == 1 && low4 w.d
  | .mma w =>
    w.accOk && w.plain && decide (w.ops.toNat < 2 ^ (2 + 2 * (w.acn.toNat + 1)))
  | .mmaD w =>
    mmaDirectOk w
  | .mmas w =>
    w.accOk && w.plain && decide (w.ops.toNat < 16)
  | .mzero w =>
    w.accOk && w.plain && w.ks == 0 && w.ops == 0
  | .maccr w =>
    w.plain && w.acn == 0 && w.ks == 0 && decide (w.ops.toNat ≤ 12)
  | .maccw w =>
    w.plain && w.acn == 0 && w.ks == 0 && decide (w.ops.toNat ≤ 12)
  | .mscale w =>
    w.accOk && w.plain && w.ks == 0 && decide (w.ops.toNat < 16)
  | .mwait w =>
    w.accOk && w.plain && w.ks == 0 && decide (w.ops.toNat < 2 ^ 35)
  | .copy w =>
    w.cmd [.d, .s, .h]
  | .xpose w =>
    w.cmd [.d, .s, .h, .x, .sfmt, .dfmt] && w.sfmt == w.dfmt && decide (w.sfmt.toNat ≤ 10)
  | .conv w =>
    w.cmd [.d, .s, .h, .sfmt, .dfmt, .fn] && w.fnLe 1 && decide (w.sfmt.toNat ≤ 10)
  | .convZp w =>
    w.cmd [.d, .s, .h, .sfmt, .dfmt, .fn] && w.fn == 2 && w.sfmt == w.dfmt && decide (w.dfmt.toNat ≤ 10)
  | .convFib w =>
    w.cmd [.d, .s, .h, .sfmt, .dfmt, .fn] && w.fn == 4 && w.sfmt == w.dfmt && fibreFmtOk w.dfmt.toNat
  | .decomp w =>
    w.cmd [.d, .s, .h, .sfmt, .dfmt] && w.sfmt == w.dfmt && decide (w.sfmt.toNat ≤ 10)
  | .req w =>
    w.cmd [.d, .s, .h, .sfmt, .dfmt] && decide (11 ≤ w.sfmt.toNat) && decide (11 ≤ w.dfmt.toNat)
  | .gather w =>
    w.cmd [.d, .s, .h, .x]
  | .scatter w =>
    w.cmd [.d, .s, .h, .x]
  | .iread w =>
    w.cmd [.d, .s, .h, .x]
  | .mcast w =>
    w.cmd [.s, .h, .x, .imm16] && decide (1 ≤ w.imm16.toNat) && decide (w.imm16.toNat ≤ 64)
  | .reduce w =>
    w.cmd [.d, .h, .x, .imm16, .fn] && w.fnLe 7 && decide (1 ≤ w.imm16.toNat) && decide (w.imm16.toNat ≤ 16)
  | .accw w =>
    w.cmd [.d, .s, .h, .fn] && w.fnLe 7
  | .atom w =>
    w.cmd [.d, .s, .x, .h, .fn] && atomOk w
  | .signal w =>
    w.cmd [.d, .imm16]
  | .semwt w =>
    w.cmd [.d, .fn, .imm64] && w.fnLe 1 && w.imm64.toNat % 2 ^ 32 < 2 ^ 16
  | .rfill w =>
    w.cmd [.s, .h, .x, .imm64] && w.imm64.toNat % 2 ^ 32 == 0
  | .rdrain w =>
    w.cmd [.d, .h, .x, .imm64] && w.imm64.toNat % 2 ^ 32 == 0
  | .tagset w =>
    w.only [] && w.te && w.ordOk
  | .trel w =>
    w.only [] && w.noTag && w.ord == 0
  | .tacq w =>
    w.only [] && w.noTag && w.ord == 0
  | .tfence w =>
    w.only [] && w.noTag && w.ord == 0
  | .follow w =>
    w.only [.s] && w.tagOk && w.noOrd
  | .pref w =>
    w.only [.s, .h, .fn] && w.tagOk && w.noOrd && w.fnLe 1
  | .migh w =>
    w.only [.s, .h, .fn] && w.tagOk && w.noOrd && w.fnLe 2
  | .udrain w =>
    w.cmd [.d]
  | .urgn w =>
    w.only [.d, .s] && w.tagOk && w.noOrd
  | .coll w =>
    w.cmd [.d, .s, .h, .x, .fn] && collOk w
  | .tbr64 w =>
    w.ctl [.fn, .imm16] && w.fnLe 2
  | .tbr128 w =>
    w.ctl [.fn, .imm64] && w.fnLe 2
  | .tloop64 w =>
    w.ctl [.d, .imm16] && low8 w.d
  | .tloop128 w =>
    w.ctl [.d, .imm64] && low8 w.d
  | .tli64 w =>
    w.ctl [.d, .imm16]
  | .tli128 w =>
    w.ctl [.d, .imm64]
  | .tcmp w =>
    w.ctl [.s, .x, .fn] && w.fnLe 5
  | .tldr w =>
    w.ctl [.d, .s, .imm16]
  | .tstr w =>
    w.ctl [.d, .s, .imm16]
  | .tadd64 w =>
    tarith64 w
  | .tadd128 w =>
    tarith128 w
  | .tsub64 w =>
    tarith64 w
  | .tsub128 w =>
    tarith128 w
  | .tmul64 w =>
    tarith64 w
  | .tmul128 w =>
    tarith128 w
  | .tand64 w =>
    tarith64 w
  | .tand128 w =>
    tarith128 w
  | .tor64 w =>
    tarith64 w
  | .tor128 w =>
    tarith128 w
  | .tshl64 w =>
    tarith64 w
  | .tshl128 w =>
    tarith128 w
  | .tshr64 w =>
    tarith64 w
  | .tshr128 w =>
    tarith128 w
  | .tend => true
  | .ldsComplete => true
  | .fencescComplete => true
  | .taskRetirement => true
  | .blockingConditionMet => true
  | .waitTimeout => true
  | .trapDelivery => true
  | .ringExtensionLink => true
  | .matrixWordStart => true
  | .tileStepStart => true
  | .matrixWordComplete => true
  | .matrixEngineIdle => true
  | .admissionGrant => true
  | .contextWaitSatisfied => true
  | .followAccept => true
  | .collExchange => true
  | .invocationStart => true
  | .transferCommandComplete => true
  | .pageWalkComplete => true
  | .voteDissent => true
  | .lockCycleTick => true
  | .selection => true
  | .bindDispatch => true
  | .fastPathBind => true
  | .overflowPromotion => true
  | .renamedSetCopy => true
  | .preemptionEvaluation => true
  | .preemption => true
  | .swapOut => true
  | .coreFailed => true
  | .readUncorrectable => true
  | .eccCorrected => true
  | .eccThreshold => true
  | .drainUnitTake => true
  | .basinAccept => true
  | .spillExtensionLink => true
  | .granuleSweep => true
  | .basinChosenApply => true
  | .epochDecision => true
  | .prefRequestServe => true
  | .tugMoveCommit => true
  | .anchorExpiry => true
  | .invalidationComplete => true
  | .queueDoorbell => true
  | .queueErrRead => true
  | .nopPacket => true
  | .enqueue => true
  | .fencePacket => true
  | .fencePoll => true
  | .write => true
  | .invalidate => true
  | .resume => true
  | .priority => true
  | .revoke => true
  | .pin => true
  | .unpin => true
  | .unmap => true
  | .remap => true
  | .partcfg => true
  | .slotTableSwitch => true
  | .resetCoreWarm => true
  | .resetPartitionWarm => true
  | .resetDeviceWarm => true
  | .resetCold => true
  | .resetComplete => true
  | .checkpointFull => true
  | .checkpointIncremental => true
  | .restore => true
  | .retire => true
  | .remove => true
  | .routingTableLoad => true
  | .flitReceive => true
  | .linkRetrain => true
  | .linkLost => true
  | .coldReset => true
  | .bringupStepTimeout => true
  | .coreGroupRelease => true
  | .throttleEvaluation => true
  | .thermalTrip => true
  | .coldrst => true
  | .tripClear => true
  | .pcapWrite => true
  | .thrcntRead => true
  | .registerWrite => true
  | .launchResult => true
  | .suspensionEndedAsFault => true
  | .linkRetrained => true
  | .freeFrameSupply => true
  | .dynamicCapacityChange => true
  | .asidRootTableLoad => true
  | .pkgnumLoad => true

end Sys2Proof
end

