-- ==== Sys2Proof/Decode.lean ====
section
/-!
DEFINITION. Decode.lean: from bits to steps and back (R35-R59). A word is first split into the fields of its family's
layout (SWord, R39-R40; vector words, R44; matrix words, R50; transfer words, R56); the fields then name a row, whose
operand limits `Instr.wf` checks. The encoder goes the other way.
-/

namespace Sys2Proof

/-- Why bits are no instruction (R37, R42, R49, R59). -/
inductive DecodeErr where
  /-- fewer bytes than the word has -/
  | truncated
  /-- LEN names a length the stream does not accept (R35) -/
  | badLength
  /-- an OP, FN, field or reserved bit that no row admits -/
  | badWord
deriving DecidableEq, Repr

/-! ## Scalar words -/

/-- The fields of a scalar word (R39, R40); those above the word's length are zero. -/
structure SWord where
  len : BitVec 2
  op : BitVec 6
  g : Guard
  d : SReg
  a : SReg
  b : SReg
  fn : BitVec 5
  i16 : BitVec 16
  c : BitVec 5
  opt : BitVec 3
  wl : Byte
  lit : W32
deriving DecidableEq, Repr

/-- Bits `lo ..` of a word, as many as the field has. -/
def bitsAt (w lo n : Nat) : BitVec n := BitVec.ofNat n (w >>> lo)

/-- The guard in bits [11:8] (R39, R44, R50). -/
def guardAt (w : Nat) : Guard := ⟨bitsAt w 11 1 == 1, bitsAt w 8 3⟩

/-- A guard as bits [11:8]. -/
def Guard.bits (g : Guard) : Nat := (cond g.neg 8 0 + g.pred.toNat) * 2 ^ 8

/-- Split a scalar word (R39, R40). -/
def SWord.ofNat (w : Nat) : SWord where
  len := bitsAt w 0 2
  op := bitsAt w 2 6
  g := guardAt w
  d := bitsAt w 12 5
  a := bitsAt w 17 5
  b := bitsAt w 22 5
  fn := bitsAt w 27 5
  i16 := bitsAt w 32 16
  c := bitsAt w 48 5
  opt := bitsAt w 53 3
  wl := bitsAt w 56 8
  lit := bitsAt w 64 32

/-- Lay a scalar word's fields out (R39, R40). -/
def SWord.toNat (f : SWord) : Nat :=
  f.len.toNat + f.op.toNat * 2 ^ 2 + f.g.bits + f.d.toNat * 2 ^ 12 + f.a.toNat * 2 ^ 17 + f.b.toNat * 2 ^ 22 +
    f.fn.toNat * 2 ^ 27 + f.i16.toNat * 2 ^ 32 + f.c.toNat * 2 ^ 48 + f.opt.toNat * 2 ^ 53 + f.wl.toNat * 2 ^ 56 +
    f.lit.toNat * 2 ^ 64

/-- A 32-bit scalar word. -/
def SWord.w32 (op : BitVec 6) (g : Guard) (fn d a b : BitVec 5) : SWord :=
  ⟨0, op, g, d, a, b, fn, 0, 0, 0, 0, 0⟩

/-- A 32-bit scalar word in the short-immediate form: I10 lies over FN and B (R39). -/
def SWord.w32i (op : BitVec 6) (g : Guard) (i10 : BitVec 10) : SWord :=
  ⟨0, op, g, 0, 0, i10.extractLsb' 0 5, i10.extractLsb' 5 5, 0, 0, 0, 0, 0⟩

/-- A 64-bit scalar word. -/
def SWord.w64 (op : BitVec 6) (g : Guard) (fn d a b : BitVec 5) (i16 : BitVec 16) (c : BitVec 5) (opt : BitVec 3)
    (wl : Byte) : SWord :=
  ⟨1, op, g, d, a, b, fn, i16, c, opt, wl, 0⟩

/-- A 96-bit scalar word. -/
def SWord.w96 (op : BitVec 6) (g : Guard) (fn d a b : BitVec 5) (i16 : BitVec 16) (opt : BitVec 3) (lit : W32) : SWord :=
  ⟨2, op, g, d, a, b, fn, i16, 0, opt, 0, lit⟩

/-- I10 of a short-immediate word (R39). -/
def SWord.i10 (f : SWord) : BitVec 10 := f.fn ++ f.b

/-- C, OPT and WL are zero. -/
def SWord.tail0 (f : SWord) : Bool := f.c == 0 && f.opt == 0 && f.wl == 0

/-- A condition on the fields guards a row. -/
def rowIf (p : Bool) (i : Instr) : Option Instr := if p then some i else none

/-- A 5-bit field holding a predicate number: the two top bits are zero (R41). -/
def pfield (r : BitVec 5) : Bool := decide (r.toNat < 8)

/-- The predicate number in such a field. -/
def pnum (r : BitVec 5) : PReg := r.extractLsb' 0 3

/-- A predicate number as a 5-bit field. -/
def pwide (p : PReg) : BitVec 5 := p.setWidth 5

/-- OP 0x00: the register ALU forms (R152). -/
def sAlu (f : SWord) : Option Instr :=
  match f.fn.toNat with
  | 0 => some (.add f.g f.d f.a f.b)
  | 1 => some (.sub f.g f.d f.a f.b)
  | 2 => some (.andR f.g f.d f.a f.b)
  | 3 => some (.orR f.g f.d f.a f.b)
  | 4 => some (.xorR f.g f.d f.a f.b)
  | 5 => some (.andn f.g f.d f.a f.b)
  | 6 => some (.sll f.g f.d f.a f.b)
  | 7 => some (.srl f.g f.d f.a f.b)
  | 8 => some (.sra f.g f.d f.a f.b)
  | 9 => some (.minS f.g f.d f.a f.b)
  | 10 => some (.maxS f.g f.d f.a f.b)
  | 11 => some (.minU f.g f.d f.a f.b)
  | 12 => some (.maxU f.g f.d f.a f.b)
  | 13 => rowIf (f.b == 0) (.clz f.g f.d f.a)
  | 14 => rowIf (f.b == 0) (.ctz f.g f.d f.a)
  | 15 => rowIf (f.b == 0) (.popc f.g f.d f.a)
  | _ => none

/-- OP 0x01, 64 bits: the immediate ALU forms (R152). -/
def sAluImm64 (f : SWord) : Option Instr :=
  if f.b == 0 && f.tail0 then
    match f.fn.toNat with
    | 0 => some (.addImm64 f.g f.d f.a f.i16)
    | 1 => some (.subImm64 f.g f.d f.a f.i16)
    | 2 => some (.andImm64 f.g f.d f.a f.i16)
    | 3 => some (.orImm64 f.g f.d f.a f.i16)
    | 4 => some (.xorImm64 f.g f.d f.a f.i16)
    | 5 => some (.andnImm64 f.g f.d f.a f.i16)
    | 6 => some (.sllImm64 f.g f.d f.a f.i16)
    | 7 => some (.srlImm64 f.g f.d f.a f.i16)
    | 8 => some (.sraImm64 f.g f.d f.a f.i16)
    | 9 => some (.minImm64 f.g f.d f.a f.i16)
    | 10 => some (.maxImm64 f.g f.d f.a f.i16)
    | 11 => some (.minuImm64 f.g f.d f.a f.i16)
    | 12 => some (.maxuImm64 f.g f.d f.a f.i16)
    | _ => none
  else none

/-- OP 0x01, 96 bits (R152). -/
def sAluImm96 (f : SWord) : Option Instr :=
  if f.b == 0 && f.i16 == 0 && f.tail0 then
    match f.fn.toNat with
    | 0 => some (.addImm96 f.g f.d f.a f.lit)
    | 1 => some (.subImm96 f.g f.d f.a f.lit)
    | 2 => some (.andImm96 f.g f.d f.a f.lit)
    | 3 => some (.orImm96 f.g f.d f.a f.lit)
    | 4 => some (.xorImm96 f.g f.d f.a f.lit)
    | 5 => some (.andnImm96 f.g f.d f.a f.lit)
    | 6 => some (.sllImm96 f.g f.d f.a f.lit)
    | 7 => some (.srlImm96 f.g f.d f.a f.lit)
    | 8 => some (.sraImm96 f.g f.d f.a f.lit)
    | 9 => some (.minImm96 f.g f.d f.a f.lit)
    | 10 => some (.maxImm96 f.g f.d f.a f.lit)
    | 11 => some (.minuImm96 f.g f.d f.a f.lit)
    | 12 => some (.maxuImm96 f.g f.d f.a f.lit)
    | _ => none
  else none

/-- OP 0x02: multiply and divide (R154). -/
def sMul (f : SWord) : Option Instr :=
  match f.fn.toNat with
  | 0 => some (.mul f.g f.d f.a f.b)
  | 1 => some (.mulh f.g f.d f.a f.b)
  | 2 => some (.mulhu f.g f.d f.a f.b)
  | 3 => some (.div f.g f.d f.a f.b)
  | 4 => some (.divu f.g f.d f.a f.b)
  | 5 => some (.rem f.g f.d f.a f.b)
  | 6 => some (.remu f.g f.d f.a f.b)
  | _ => none

/-- OP 0x03: bit fields (R155). -/
def sBits (f : SWord) : Option Instr :=
  let lsb := f.i16.extractLsb' 0 6
  let width := f.i16.extractLsb' 6 7
  if f.b == 0 && f.tail0 && decide (f.i16.toNat < 2 ^ 13) then
    match f.fn.toNat with
    | 0 => some (.bfx f.g f.d f.a lsb width)
    | 1 => some (.bfxs f.g f.d f.a lsb width)
    | 2 => some (.bfi f.g f.d f.a lsb width)
    | _ => none
  else none

/-- OP 0x07: predicate logic (R160). -/
def sPlog (f : SWord) : Option Instr :=
  let pd := pnum f.d
  let pa := pnum f.a
  let pb := pnum f.b
  if pfield f.d && pfield f.a && pfield f.b then
    match f.fn.toNat with
    | 0 => some (.plogAnd f.g pd pa pb)
    | 1 => some (.plogOr f.g pd pa pb)
    | 2 => some (.plogXor f.g pd pa pb)
    | 3 => some (.plogAndn f.g pd pa pb)
    | 4 => some (.plogNand f.g pd pa pb)
    | 5 => some (.plogNor f.g pd pa pb)
    | 6 => some (.plogXnor f.g pd pa pb)
    | 7 => rowIf (f.b == 0) (.plogMov f.g pd pa)
    | _ => none
  else none

/-- OP 0x0C: FCVT, the kind in B (R166). -/
def sFcvt (f : SWord) : Option Instr :=
  let dst := f.fn.extractLsb' 0 2
  let src := f.fn.extractLsb' 2 2
  if f.fn.toNat < 16 then
    match f.b.toNat with
    | 0 => some (.fcvtFpFp f.g dst src f.d f.a)
    | 1 => rowIf (dst == 0) (.fcvtFpI64 f.g src f.d f.a)
    | 2 => rowIf (dst == 0) (.fcvtFpU64 f.g src f.d f.a)
    | 3 => rowIf (src == 0) (.fcvtI64Fp f.g dst f.d f.a)
    | 4 => rowIf (src == 0) (.fcvtU64Fp f.g dst f.d f.a)
    | _ => none
  else none

/-- OP 0x24: FENCE, scope and kind in FN (R185). -/
def sFence (f : SWord) : Option Instr :=
  let scope := f.fn.extractLsb' 0 2
  if f.d == 0 && f.a == 0 && f.b == 0 then
    match f.fn.toNat / 4 with
    | 0 => some (.fenceFull f.g scope)
    | 1 => some (.fenceRelease f.g scope)
    | 2 => some (.fenceAcquire f.g scope)
    | _ => none
  else none

/-- The rows of the 32-bit form (R41). -/
def sRow32 (f : SWord) : Option Instr :=
  let bare := f.d == 0 && f.a == 0 && f.b == 0 && f.fn == 0
  match f.op.toNat with
  | 0x00 => sAlu f
  | 0x02 => sMul f
  | 0x07 => sPlog f
  | 0x08 =>
    if f.fn.toNat < 4 then some (.fadd f.g (f.fn.extractLsb' 0 2) f.d f.a f.b)
    else rowIf (decide (f.fn.toNat < 8)) (.fsub f.g (f.fn.extractLsb' 0 2) f.d f.a f.b)
  | 0x09 => rowIf (decide (f.fn.toNat < 4)) (.fmul f.g (f.fn.extractLsb' 0 2) f.d f.a f.b)
  | 0x0B =>
    if f.fn.toNat < 4 then some (.fmin f.g (f.fn.extractLsb' 0 2) f.d f.a f.b)
    else rowIf (decide (f.fn.toNat < 8)) (.fmax f.g (f.fn.extractLsb' 0 2) f.d f.a f.b)
  | 0x0C => sFcvt f
  | 0x10 => rowIf (f.d == 0 && f.a == 0) (.br32 f.g f.i10)
  | 0x11 => rowIf (f.d == 0 && f.b == 0 && f.fn == 0) (.jmpr f.g f.a)
  | 0x12 => rowIf (f.d == 0 && f.a == 0) (.call32 f.g f.i10)
  | 0x13 => rowIf bare (.ret f.g)
  | 0x14 => rowIf bare (.nop32 f.g)
  | 0x21 => rowIf (f.b == 0 && decide (f.fn.toNat ≤ 1)) (.tagff f.g f.d f.a (f.fn == 1))
  | 0x24 => sFence f
  | 0x25 => rowIf bare (.fencesc f.g)
  | 0x29 => rowIf bare (.done f.g)
  | 0x2A => rowIf bare (.yield f.g)
  | 0x30 => rowIf (f.d == 0 && f.a == 0 && decide (f.i10.toNat < 256)) (.trap f.g (f.i10.extractLsb' 0 8))
  | 0x31 => rowIf bare (.tret f.g)
  | 0x34 =>
    if f.fn == 0 then rowIf (f.b == 0) (.apcvtGlob f.g f.d f.a)
    else rowIf (f.fn == 1 && f.b == 0) (.apcvtOwn f.g f.d f.a)
  | 0x35 => rowIf (f.fn == 0 && f.b == 0) (.aptst f.g f.d f.a)
  | _ => none

/-- The rows of the 64-bit form (R41). -/
def sRow64 (f : SWord) : Option Instr :=
  let noRegs := f.d == 0 && f.a == 0 && f.b == 0 && f.fn == 0
  match f.op.toNat with
  | 0x01 => sAluImm64 f
  | 0x03 => sBits f
  | 0x04 => rowIf (f.fn == 0 && f.a == 0 && f.b == 0 && f.tail0) (.li64 f.g f.d f.i16)
  | 0x05 =>
    rowIf (pfield f.d && pfield f.c && decide (f.opt.toNat ≤ 1) && f.wl == 0)
      (.cmp f.g (f.fn.extractLsb' 0 3) (f.fn.extractLsb' 3 2) (pnum f.d) (pnum f.c) f.a f.b (f.opt == 1) f.i16)
  | 0x06 =>
    rowIf (pfield f.d && pfield f.c && decide (f.opt.toNat ≤ 3) && f.wl == 0 && f.i16 == 0)
      (.fcmp f.g (f.fn.extractLsb' 0 3) (f.fn.extractLsb' 3 2) (f.opt.extractLsb' 0 2) (pnum f.d) (pnum f.c) f.a f.b)
  | 0x0A =>
    rowIf (decide (f.fn.toNat < 16) && f.i16 == 0 && f.opt == 0 && f.wl == 0)
      (.ffma f.g (f.fn.getLsbD 2) (f.fn.getLsbD 3) (f.fn.extractLsb' 0 2) f.d f.a f.b f.c)
  | 0x10 => rowIf (noRegs && f.tail0) (.br64 f.g f.i16)
  | 0x12 => rowIf (noRegs && f.tail0) (.call64 f.g f.i16)
  | 0x14 => rowIf (noRegs && f.tail0 && f.i16 == 0) (.nop64 f.g)
  | 0x18 =>
    rowIf (decide (f.fn.toNat < 8) && f.b == 0 && f.tail0)
      (.lds f.g f.d f.a (f.fn.extractLsb' 0 2) (f.fn.getLsbD 2) f.i16)
  | 0x19 => rowIf (decide (f.fn.toNat < 4) && f.d == 0 && f.tail0) (.sts f.g f.a f.b (f.fn.extractLsb' 0 2) f.i16)
  | 0x1A =>
    rowIf (noRegs && f.c == 0 && decide (f.i16.toNat < 256)) (.waitlc64 f.g (f.i16.extractLsb' 0 8) f.opt f.wl)
  | 0x1C => rowIf (f.d == 0 && f.fn == 0 && f.tail0) (.semadd f.g f.a f.b f.i16)
  | 0x1D =>
    rowIf (f.d == 0 && f.c == 0 && decide (f.fn.toNat ≤ 1)) (.semwait64 f.g f.a f.b f.i16 (f.fn == 1) f.opt f.wl)
  | 0x20 =>
    rowIf (f.b == 0 && f.c == 0 && f.i16 == 0 && decide (f.fn.toNat < 4))
      (.tagwait64 f.g f.d f.a (f.fn.getLsbD 0) (f.fn.getLsbD 1) f.opt f.wl)
  | 0x22 =>
    rowIf (f.d == 0 && f.b == 0 && f.c == 0 && f.i16 == 0 && decide (f.fn.toNat < 8))
      (.qput64 f.g (f.fn.extractLsb' 0 3) f.a f.opt f.wl)
  | 0x23 =>
    rowIf (f.a == 0 && f.b == 0 && f.c == 0 && f.i16 == 0 && decide (f.fn.toNat < 8))
      (.qget64 f.g (f.fn.extractLsb' 0 3) f.d f.opt f.wl)
  | 0x28 => rowIf (f.fn == 0 && f.b == 0 && f.c == 0 && f.i16 == 0 && f.wl == 0) (.launch f.g f.d f.a f.opt)
  | 0x2C =>
    rowIf (f.fn == 0 && f.a == 0 && f.b == 0 && f.tail0 && decide (f.i16.toNat < 2 ^ 12))
      (.csrr f.g f.d (f.i16.extractLsb' 0 12))
  | 0x2D =>
    if f.b == 0 && f.tail0 && decide (f.i16.toNat < 2 ^ 12) then
      match f.fn.toNat with
      | 0 => some (.csrw f.g f.d f.a (f.i16.extractLsb' 0 12))
      | 1 => some (.csrwSet f.g f.d f.a (f.i16.extractLsb' 0 12))
      | 2 => some (.csrwClr f.g f.d f.a (f.i16.extractLsb' 0 12))
      | _ => none
    else none
  | 0x38 =>
    rowIf (f.fn == 0 && f.d == 0 && f.b == 0 && f.c == 0 && decide (f.i16.toNat < 2 ^ 13))
      (.txgo64 f.g f.a (f.i16.extractLsb' 0 13) f.opt f.wl)
  | _ => none

/-- The rows of the 96-bit form (R41); WL and C are zero in all of them (R40). -/
def sRow96 (f : SWord) : Option Instr :=
  let noRegs := f.d == 0 && f.a == 0 && f.b == 0 && f.fn == 0
  if f.c == 0 && f.wl == 0 then
    match f.op.toNat with
    | 0x01 => sAluImm96 f
    | 0x04 =>
      if f.a == 0 && f.b == 0 && f.i16 == 0 && f.opt == 0 then
        match f.fn.toNat with
        | 0 => some (.li96 f.g f.d f.lit)
        | 1 => some (.lih f.g f.d f.lit)
        | _ => none
      else none
    | 0x10 => rowIf (noRegs && f.i16 == 0 && f.opt == 0) (.br96 f.g f.lit)
    | 0x12 => rowIf (noRegs && f.i16 == 0 && f.opt == 0) (.call96 f.g f.lit)
    | 0x14 => rowIf (noRegs && f.i16 == 0 && f.opt == 0 && f.lit == 0) (.nop96 f.g)
    | 0x1A => rowIf (noRegs && decide (f.i16.toNat < 256)) (.waitlc96 f.g (f.i16.extractLsb' 0 8) f.opt f.lit)
    | 0x1D => rowIf (f.d == 0 && decide (f.fn.toNat ≤ 1)) (.semwait96 f.g f.a f.b f.i16 (f.fn == 1) f.opt f.lit)
    | 0x20 =>
      rowIf (f.b == 0 && f.i16 == 0 && decide (f.fn.toNat < 4))
        (.tagwait96 f.g f.d f.a (f.fn.getLsbD 0) (f.fn.getLsbD 1) f.opt f.lit)
    | 0x22 =>
      rowIf (f.d == 0 && f.b == 0 && f.i16 == 0 && decide (f.fn.toNat < 8))
        (.qput96 f.g (f.fn.extractLsb' 0 3) f.a f.opt f.lit)
    | 0x23 =>
      rowIf (f.a == 0 && f.b == 0 && f.i16 == 0 && decide (f.fn.toNat < 8))
        (.qget96 f.g (f.fn.extractLsb' 0 3) f.d f.opt f.lit)
    | 0x38 =>
      rowIf (f.fn == 0 && f.d == 0 && f.b == 0 && decide (f.i16.toNat < 2 ^ 13))
        (.txgo96 f.g f.a (f.i16.extractLsb' 0 13) f.opt f.lit)
    | _ => none
  else none

/-- The row whose fields these are, before its operand limits. -/
def sRow (f : SWord) : Option Instr :=
  match f.len.toNat with
  | 0 => sRow32 f
  | 1 => sRow64 f
  | 2 => sRow96 f
  | _ => none

/-- A scalar word of X (R41, R42). -/
def decodeS (w : Nat) : Option Instr := (sRow (SWord.ofNat w)).filter Instr.wf

/-! ## Vector words -/

/-- The OP of a vector or matrix word. -/
def opAt (w : Nat) : Nat := (w >>> 2) % 64

/-- Split a vector word (R44). -/
def VArgs.ofNat (w : Nat) : VArgs where
  g := guardAt w
  d := bitsAt w 12 4
  a := bitsAt w 16 4
  b := bitsAt w 20 4
  c := bitsAt w 24 4
  fn := bitsAt w 28 4
  fmt := bitsAt w 32 4
  msel := bitsAt w 36 3
  ms := bitsAt w 39 1 == 1
  sa := bitsAt w 40 8
  sb := bitsAt w 48 8
  sc := bitsAt w 56 8
  imm := bitsAt w 64 32

/-- Lay a vector word out (R44); LEN is 0b10. -/
def VArgs.toNat (w : VArgs) (op : Nat) : Nat :=
  2 + op * 2 ^ 2 + w.g.bits + w.d.toNat * 2 ^ 12 + w.a.toNat * 2 ^ 16 + w.b.toNat * 2 ^ 20 + w.c.toNat * 2 ^ 24 +
    w.fn.toNat * 2 ^ 28 + w.fmt.toNat * 2 ^ 32 + w.msel.toNat * 2 ^ 36 + cond w.ms 1 0 * 2 ^ 39 + w.sa.toNat * 2 ^ 40 +
    w.sb.toNat * 2 ^ 48 + w.sc.toNat * 2 ^ 56 + w.imm.toNat * 2 ^ 64

/-- The row of a vector OP and FN (R48). -/
def vRow (op : Nat) (w : VArgs) : Option Instr :=
  match op with
  | 0x00 => if w.fn == 1 then some (.gopenX w) else some (.gopen w)
  | 0x01 => some (.gclose w)
  | 0x02 => if w.fn == 0 then some (.gld w) else if w.fn == 1 then some (.gldOa w) else some (.gldOb w)
  | 0x03 => if w.fn == 0 then some (.gst w) else some (.gstAccumulator w)
  | 0x04 => some (.gldm w)
  | 0x05 => some (.gstz w)
  | 0x06 => some (.gadv w)
  | 0x07 => some (.gend w)
  | 0x08 => some (.gldr w)
  | 0x09 => some (.shfence w)
  | 0x0A => some (.fopen w)
  | 0x0B => some (.fadv w)
  | 0x0C => some (.fend w)
  | 0x0D => some (.fclose w)
  | 0x0E => some (.fisect w)
  | 0x0F => if w.fn == 0 then some (.fldv w) else some (.fldvCrd w)
  | 0x10 => some (.rwaitf w)
  | 0x11 => some (.rwaite w)
  | 0x12 => some (.rclaim w)
  | 0x13 => some (.rpub w)
  | 0x14 => some (.rrel w)
  | 0x15 => some (.vpm w)
  | 0x16 => some (.qputVw w)
  | 0x17 => some (.qgetVw w)
  | 0x18 => some (.semaddVw w)
  | 0x19 => some (.semwaitVw w)
  | 0x1A => some (.kli w)
  | 0x1B => some (.kadd w)
  | 0x20 => some (.vadd w)
  | 0x21 => some (.vsub w)
  | 0x22 => some (.vmul w)
  | 0x23 => some (.vfma w)
  | 0x24 => some (.vminmax w)
  | 0x25 => some (.vsgn w)
  | 0x26 => some (.viadd w)
  | 0x27 => some (.visub w)
  | 0x28 => some (.vimul w)
  | 0x29 => some (.vlogic w)
  | 0x2A => some (.vshift w)
  | 0x2B => some (.viminmax w)
  | 0x2C => some (.vcmp w)
  | 0x2D => some (.vsel w)
  | 0x2E => some (.vcvt w)
  | 0x2F => some (.vqnt w)
  | 0x30 => some (.vsf w)
  | 0x31 => some (.vbcr w)
  | 0x32 => some (.vbcc w)
  | 0x33 => some (.vrotr w)
  | 0x34 => some (.vrotc w)
  | 0x35 => some (.vredr w)
  | 0x36 => some (.vredc w)
  | 0x37 => some (.vsegr w)
  | 0x38 => some (.vscanr w)
  | 0x39 => some (.vperm w)
  | 0x3A => some (.vmov w)
  | 0x3B => some (.vli w)
  | 0x3C => some (.vrng w)
  | 0x3D => some (.vclamp w)
  | 0x3E => if w.fn == 0 then some (.upd w) else some (.updf w)
  | 0x3F => some (.loopn w)
  | _ => none

/-- The streams that issue a vector OP (R48). -/
def vStreamOk (q : VSeq) (op : Nat) : Bool :=
  let ls := [0x00, 0x01, 0x06, 0x07, 0x09, 0x10, 0x11, 0x12, 0x13, 0x14]
  let lOnly := [0x02, 0x04, 0x08, 0x0A, 0x0B, 0x0C, 0x0D, 0x0E, 0x0F]
  let sOnly := [0x03, 0x05]
  let all := [0x16, 0x17, 0x18, 0x19, 0x1A, 0x1B, 0x3F]
  match q with
  | .l => ls.contains op || lOnly.contains op || all.contains op
  | .s => ls.contains op || sOnly.contains op || all.contains op
  | .c => !(ls.contains op || lOnly.contains op || sOnly.contains op)

/-- The queue directions of R15 and R226, for the two words that name a queue. -/
def vQueueOk (q : VSeq) (op n : Nat) : Bool :=
  let puts := match q with
    | .l => [3, 7]
    | .c => [4, 6]
    | .s => [5]
  let gets := match q with
    | .l => [0]
    | .c => [1, 3]
    | .s => [2, 4]
  if op == 0x16 then puts.contains n else if op == 0x17 then gets.contains n else true

/-- A vector word of L, C or S (R48, R49). -/
def decodeV (q : VSeq) (w : Nat) : Option Instr :=
  let a := VArgs.ofNat w
  if vStreamOk q (opAt w) && vQueueOk q (opAt w) a.fn.toNat then (vRow (opAt w) a).filter Instr.wf else none

/-! ## Matrix words -/

/-- Split a matrix word (R50). -/
def MArgs.ofNat (w : Nat) : MArgs where
  g := guardAt w
  acc := bitsAt w 12 2
  acn := bitsAt w 14 2
  mode := bitsAt w 16 2
  fmta := bitsAt w 18 4
  fmtb := bitsAt w 22 4
  ks := bitsAt w 26 6
  ops := bitsAt w 32 160

/-- Lay a matrix word out (R50); LEN is 0b11. -/
def MArgs.toNat (w : MArgs) (op : Nat) : Nat :=
  3 + op * 2 ^ 2 + w.g.bits + w.acc.toNat * 2 ^ 12 + w.acn.toNat * 2 ^ 14 + w.mode.toNat * 2 ^ 16 +
    w.fmta.toNat * 2 ^ 18 + w.fmtb.toNat * 2 ^ 22 + w.ks.toNat * 2 ^ 26 + w.ops.toNat * 2 ^ 32

/-- The row of a matrix OP (R54). -/
def mRow (op : Nat) (w : MArgs) : Option Instr :=
  match op with
  | 0x00 => if w.mode == 1 then some (.mmaD w) else some (.mma w)
  | 0x01 => some (.mmas w)
  | 0x02 => some (.mzero w)
  | 0x03 => some (.maccr w)
  | 0x04 => some (.maccw w)
  | 0x05 => some (.mscale w)
  | 0x06 => some (.mwait w)
  | _ => none

/-- A matrix word of C (R50-R54). -/
def decodeM (w : Nat) : Option Instr := (mRow (opAt w) (MArgs.ofNat w)).filter Instr.wf

/-- A matrix word may arrive through the follow-on port (R55). -/
def followWordOk (w : Nat) : Bool :=
  w % 4 == 3 && guardAt w == Guard.always &&
    match decodeM w with
    | some (.mmaD _) => true
    | some (.mzero _) => true
    | some (.mscale _) => true
    | _ => false

/-! ## Transfer words -/

/-- Split a transfer word (R56). -/
def TArgs.ofNat (w : Nat) : TArgs where
  d := bitsAt w 7 4
  s := bitsAt w 11 4
  h := bitsAt w 15 4
  x := bitsAt w 19 4
  tag := bitsAt w 23 6
  te := bitsAt w 29 1 == 1
  ord := bitsAt w 30 2
  sfmt := bitsAt w 32 4
  dfmt := bitsAt w 36 4
  fn := bitsAt w 40 6
  scope := bitsAt w 46 2
  imm16 := bitsAt w 48 16
  imm64 := bitsAt w 64 64

/-- The transfer word whose fields are all zero. -/
def TArgs.zero : TArgs := ⟨0, 0, 0, 0, 0, false, 0, 0, 0, 0, 0, 0, 0⟩

/-- Lay a transfer word out (R56); `long` is LEN. -/
def TArgs.toNat (w : TArgs) (long : Bool) (op : Nat) : Nat :=
  cond long 1 0 + op * 2 + w.d.toNat * 2 ^ 7 + w.s.toNat * 2 ^ 11 + w.h.toNat * 2 ^ 15 + w.x.toNat * 2 ^ 19 +
    w.tag.toNat * 2 ^ 23 + cond w.te 1 0 * 2 ^ 29 + w.ord.toNat * 2 ^ 30 + w.sfmt.toNat * 2 ^ 32 +
    w.dfmt.toNat * 2 ^ 36 + w.fn.toNat * 2 ^ 40 + w.scope.toNat * 2 ^ 46 + w.imm16.toNat * 2 ^ 48 +
    w.imm64.toNat * 2 ^ 64

/-- The rows of the 64-bit form (R58). -/
def tRow64 (op : Nat) (w : TArgs) : Option Instr :=
  match op with
  | 0x00 => some (.copy w)
  | 0x01 => some (.xpose w)
  | 0x02 => if w.fn == 2 then some (.convZp w) else if w.fn == 4 then some (.convFib w) else some (.conv w)
  | 0x03 => some (.decomp w)
  | 0x04 => some (.gather w)
  | 0x05 => some (.scatter w)
  | 0x06 => some (.iread w)
  | 0x07 => some (.mcast w)
  | 0x08 => some (.reduce w)
  | 0x09 => some (.accw w)
  | 0x0A => some (.atom w)
  | 0x0B => some (.signal w)
  | 0x0F => some (.tagset w)
  | 0x10 => some (.follow w)
  | 0x11 => some (.pref w)
  | 0x12 => some (.udrain w)
  | 0x13 => some (.coll w)
  | 0x14 => some (.req w)
  | 0x15 => some (.urgn w)
  | 0x16 => some (.migh w)
  | 0x18 => some (.trel w)
  | 0x19 => some (.tacq w)
  | 0x1A => some (.tfence w)
  | 0x20 => some (.tbr64 w)
  | 0x21 => some (.tloop64 w)
  | 0x22 => some (.tli64 w)
  | 0x23 => some (.tcmp w)
  | 0x24 => rowIf (w.ctl []) .tend
  | 0x25 => some (.tldr w)
  | 0x26 => some (.tstr w)
  | 0x28 => some (.tadd64 w)
  | 0x29 => some (.tsub64 w)
  | 0x2A => some (.tmul64 w)
  | 0x2B => some (.tand64 w)
  | 0x2C => some (.tor64 w)
  | 0x2D => some (.tshl64 w)
  | 0x2E => some (.tshr64 w)
  | _ => none

/-- The rows of the 128-bit form (R58). -/
def tRow128 (op : Nat) (w : TArgs) : Option Instr :=
  match op with
  | 0x0C => some (.semwt w)
  | 0x0D => some (.rfill w)
  | 0x0E => some (.rdrain w)
  | 0x20 => some (.tbr128 w)
  | 0x21 => some (.tloop128 w)
  | 0x22 => some (.tli128 w)
  | 0x28 => some (.tadd128 w)
  | 0x29 => some (.tsub128 w)
  | 0x2A => some (.tmul128 w)
  | 0x2B => some (.tand128 w)
  | 0x2C => some (.tor128 w)
  | 0x2D => some (.tshl128 w)
  | 0x2E => some (.tshr128 w)
  | _ => none

/-- The OP of a transfer word (R56). -/
def tOpAt (w : Nat) : Nat := (w >>> 1) % 64

/-- A 64-bit transfer word (R56-R59). -/
def decodeT64 (w : Nat) : Option Instr := (tRow64 (tOpAt w) (TArgs.ofNat (w % 2 ^ 64))).filter Instr.wf

/-- A 128-bit transfer word (R56-R59). -/
def decodeT128 (w : Nat) : Option Instr := (tRow128 (tOpAt w) (TArgs.ofNat (w % 2 ^ 128))).filter Instr.wf

/-! ## Bytes -/

/-- The value of bytes in ascending address order (R3: little-endian). -/
def leNat : List Byte → Nat
  | [] => 0
  | b :: bs => b.toNat + 256 * leNat bs

/-- The low `n` bytes of a value, in ascending address order (R3). -/
def leBytes : Nat → Nat → List Byte
  | 0, _ => []
  | n + 1, v => BitVec.ofNat 8 v :: leBytes n (v / 256)

/-- Bytes of a compute-core word whose first byte is `b` (R35). -/
def wordLen (b : Byte) : Nat :=
  match b.toNat % 4 with
  | 0 => 4
  | 1 => 8
  | 2 => 12
  | _ => 24

/-- The word of a sequencer whose bits are `w` and whose LEN was accepted. -/
def decodeWord (q : SeqName) (w : Nat) : Except DecodeErr Instr :=
  let check (o : Option Instr) : Except DecodeErr Instr := match o with
    | some i => .ok i
    | none => .error .badWord
  match q, w % 4 with
  | .x, 0 => check (decodeS (w % 2 ^ 32))
  | .x, 1 => check (decodeS (w % 2 ^ 64))
  | .x, 2 => check (decodeS (w % 2 ^ 96))
  | .l, 2 => check (decodeV .l (w % 2 ^ 96))
  | .s, 2 => check (decodeV .s (w % 2 ^ 96))
  | .c, 2 => check (decodeV .c (w % 2 ^ 96))
  | .c, 3 => check (decodeM (w % 2 ^ 192))
  | _, _ => .error .badLength

/-- Decode the first word of a sequencer's bytes, and give the bytes after it (R35, R37). -/
def decodeSeq (q : SeqName) (bytes : List Byte) : Except DecodeErr (Instr × List Byte) :=
  match bytes with
  | [] => .error .truncated
  | b :: _ =>
    if bytes.length < wordLen b then .error .truncated
    else match decodeWord q (leNat (bytes.take (wordLen b))) with
      | .ok i => .ok (i, bytes.drop (wordLen b))
      | .error e => .error e

/-- Bytes of a transfer word whose first byte is `b` (R56). -/
def tWordLen (b : Byte) : Nat := if b.toNat % 2 == 0 then 8 else 16

/-- Decode the first transfer word, and give the bytes after it (R56-R59). -/
def decodeXfer (bytes : List Byte) : Except DecodeErr (Instr × List Byte) :=
  match bytes with
  | [] => .error .truncated
  | b :: _ =>
    if bytes.length < tWordLen b then .error .truncated
    else
      let w := leNat (bytes.take (tWordLen b))
      match (if w % 2 == 0 then decodeT64 w else decodeT128 w) with
      | some i => .ok (i, bytes.drop (tWordLen b))
      | none => .error .badWord

/-- What a 24-byte store gives the decoder for the word `w` of `nbits` bits: the bits above are zero. -/
def tableBytes (nbits w : Nat) : List Byte := leBytes 24 (w % 2 ^ nbits)

/-- The step the decoder reads from an instruction with the bits `w`, numbered as the opcode table numbers them. A
word of at most 96 bits is X's if X accepts it, else one of L, C and S, else a transfer word; 128 bits are a transfer
word's, and more are a matrix word's. -/
def decodeTableWord (nbits w : Nat) : Option Instr :=
  let bytes := tableBytes nbits w
  let tries := [decodeSeq .x bytes, decodeSeq .l bytes, decodeSeq .c bytes, decodeSeq .s bytes, decodeXfer bytes]
  tries.findSome? fun r => match r with
    | .ok (i, _) => some i
    | .error _ => none

/-! ## The encoder -/

/-- A blocking scalar word's two forms. -/
def SWord.block64 (op : BitVec 6) (g : Guard) (fn d a b : BitVec 5) (i16 : BitVec 16) (rp : PReg) (lim : Byte) : SWord :=
  .w64 op g fn d a b i16 0 rp lim

/-- The fields of a step that is a scalar word (R39-R41). -/
def encodeS : Instr → Option SWord
  | .add g d a b => some (.w32 0x00 g 0 d a b)
  | .sub g d a b => some (.w32 0x00 g 1 d a b)
  | .andR g d a b => some (.w32 0x00 g 2 d a b)
  | .orR g d a b => some (.w32 0x00 g 3 d a b)
  | .xorR g d a b => some (.w32 0x00 g 4 d a b)
  | .andn g d a b => some (.w32 0x00 g 5 d a b)
  | .sll g d a b => some (.w32 0x00 g 6 d a b)
  | .srl g d a b => some (.w32 0x00 g 7 d a b)
  | .sra g d a b => some (.w32 0x00 g 8 d a b)
  | .minS g d a b => some (.w32 0x00 g 9 d a b)
  | .maxS g d a b => some (.w32 0x00 g 10 d a b)
  | .minU g d a b => some (.w32 0x00 g 11 d a b)
  | .maxU g d a b => some (.w32 0x00 g 12 d a b)
  | .clz g d a => some (.w32 0x00 g 13 d a 0)
  | .ctz g d a => some (.w32 0x00 g 14 d a 0)
  | .popc g d a => some (.w32 0x00 g 15 d a 0)
  | .addImm64 g d a i => some (.w64 0x01 g 0 d a 0 i 0 0 0)
  | .addImm96 g d a i => some (.w96 0x01 g 0 d a 0 0 0 i)
  | .subImm64 g d a i => some (.w64 0x01 g 1 d a 0 i 0 0 0)
  | .subImm96 g d a i => some (.w96 0x01 g 1 d a 0 0 0 i)
  | .andImm64 g d a i => some (.w64 0x01 g 2 d a 0 i 0 0 0)
  | .andImm96 g d a i => some (.w96 0x01 g 2 d a 0 0 0 i)
  | .orImm64 g d a i => some (.w64 0x01 g 3 d a 0 i 0 0 0)
  | .orImm96 g d a i => some (.w96 0x01 g 3 d a 0 0 0 i)
  | .xorImm64 g d a i => some (.w64 0x01 g 4 d a 0 i 0 0 0)
  | .xorImm96 g d a i => some (.w96 0x01 g 4 d a 0 0 0 i)
  | .andnImm64 g d a i => some (.w64 0x01 g 5 d a 0 i 0 0 0)
  | .andnImm96 g d a i => some (.w96 0x01 g 5 d a 0 0 0 i)
  | .sllImm64 g d a i => some (.w64 0x01 g 6 d a 0 i 0 0 0)
  | .sllImm96 g d a i => some (.w96 0x01 g 6 d a 0 0 0 i)
  | .srlImm64 g d a i => some (.w64 0x01 g 7 d a 0 i 0 0 0)
  | .srlImm96 g d a i => some (.w96 0x01 g 7 d a 0 0 0 i)
  | .sraImm64 g d a i => some (.w64 0x01 g 8 d a 0 i 0 0 0)
  | .sraImm96 g d a i => some (.w96 0x01 g 8 d a 0 0 0 i)
  | .minImm64 g d a i => some (.w64 0x01 g 9 d a 0 i 0 0 0)
  | .minImm96 g d a i => some (.w96 0x01 g 9 d a 0 0 0 i)
  | .maxImm64 g d a i => some (.w64 0x01 g 10 d a 0 i 0 0 0)
  | .maxImm96 g d a i => some (.w96 0x01 g 10 d a 0 0 0 i)
  | .minuImm64 g d a i => some (.w64 0x01 g 11 d a 0 i 0 0 0)
  | .minuImm96 g d a i => some (.w96 0x01 g 11 d a 0 0 0 i)
  | .maxuImm64 g d a i => some (.w64 0x01 g 12 d a 0 i 0 0 0)
  | .maxuImm96 g d a i => some (.w96 0x01 g 12 d a 0 0 0 i)
  | .mul g d a b => some (.w32 0x02 g 0 d a b)
  | .mulh g d a b => some (.w32 0x02 g 1 d a b)
  | .mulhu g d a b => some (.w32 0x02 g 2 d a b)
  | .div g d a b => some (.w32 0x02 g 3 d a b)
  | .divu g d a b => some (.w32 0x02 g 4 d a b)
  | .rem g d a b => some (.w32 0x02 g 5 d a b)
  | .remu g d a b => some (.w32 0x02 g 6 d a b)
  | .bfx g d a l n => some (.w64 0x03 g 0 d a 0 ((n ++ l).setWidth 16) 0 0 0)
  | .bfxs g d a l n => some (.w64 0x03 g 1 d a 0 ((n ++ l).setWidth 16) 0 0 0)
  | .bfi g d a l n => some (.w64 0x03 g 2 d a 0 ((n ++ l).setWidth 16) 0 0 0)
  | .li64 g d i => some (.w64 0x04 g 0 d 0 0 i 0 0 0)
  | .li96 g d i => some (.w96 0x04 g 0 d 0 0 0 0 i)
  | .lih g d i => some (.w96 0x04 g 1 d 0 0 0 0 i)
  | .cmp g cd cb pd pe a b im i => some (.w64 0x05 g (cb ++ cd) (pwide pd) a b i (pwide pe) (cond im 1 0) 0)
  | .fcmp g cd cb pr pd pe a b => some (.w64 0x06 g (cb ++ cd) (pwide pd) a b 0 (pwide pe) (pr.setWidth 3) 0)
  | .plogAnd g pd pa pb => some (.w32 0x07 g 0 (pwide pd) (pwide pa) (pwide pb))
  | .plogOr g pd pa pb => some (.w32 0x07 g 1 (pwide pd) (pwide pa) (pwide pb))
  | .plogXor g pd pa pb => some (.w32 0x07 g 2 (pwide pd) (pwide pa) (pwide pb))
  | .plogAndn g pd pa pb => some (.w32 0x07 g 3 (pwide pd) (pwide pa) (pwide pb))
  | .plogNand g pd pa pb => some (.w32 0x07 g 4 (pwide pd) (pwide pa) (pwide pb))
  | .plogNor g pd pa pb => some (.w32 0x07 g 5 (pwide pd) (pwide pa) (pwide pb))
  | .plogXnor g pd pa pb => some (.w32 0x07 g 6 (pwide pd) (pwide pa) (pwide pb))
  | .plogMov g pd pa => some (.w32 0x07 g 7 (pwide pd) (pwide pa) 0)
  | .fadd g p d a b => some (.w32 0x08 g (p.setWidth 5) d a b)
  | .fsub g p d a b => some (.w32 0x08 g ((1 : BitVec 3) ++ p) d a b)
  | .fmul g p d a b => some (.w32 0x09 g (p.setWidth 5) d a b)
  | .ffma g np na p d a b c =>
    some (.w64 0x0A g ((0 : BitVec 1) ++ BitVec.ofBool na ++ BitVec.ofBool np ++ p) d a b 0 c 0 0)
  | .fmin g p d a b => some (.w32 0x0B g (p.setWidth 5) d a b)
  | .fmax g p d a b => some (.w32 0x0B g ((1 : BitVec 3) ++ p) d a b)
  | .fcvtFpFp g dst src d a => some (.w32 0x0C g ((0 : BitVec 1) ++ src ++ dst) d a 0)
  | .fcvtFpI64 g src d a => some (.w32 0x0C g ((0 : BitVec 1) ++ src ++ (0 : BitVec 2)) d a 1)
  | .fcvtFpU64 g src d a => some (.w32 0x0C g ((0 : BitVec 1) ++ src ++ (0 : BitVec 2)) d a 2)
  | .fcvtI64Fp g dst d a => some (.w32 0x0C g (dst.setWidth 5) d a 3)
  | .fcvtU64Fp g dst d a => some (.w32 0x0C g (dst.setWidth 5) d a 4)
  | .br32 g o => some (.w32i 0x10 g o)
  | .br64 g o => some (.w64 0x10 g 0 0 0 0 o 0 0 0)
  | .br96 g o => some (.w96 0x10 g 0 0 0 0 0 0 o)
  | .call32 g o => some (.w32i 0x12 g o)
  | .call64 g o => some (.w64 0x12 g 0 0 0 0 o 0 0 0)
  | .call96 g o => some (.w96 0x12 g 0 0 0 0 0 0 o)
  | .jmpr g a => some (.w32 0x11 g 0 0 a 0)
  | .ret g => some (.w32 0x13 g 0 0 0 0)
  | .nop32 g => some (.w32 0x14 g 0 0 0 0)
  | .nop64 g => some (.w64 0x14 g 0 0 0 0 0 0 0 0)
  | .nop96 g => some (.w96 0x14 g 0 0 0 0 0 0 0)
  | .lds g d a size sx off => some (.w64 0x18 g ((0 : BitVec 2) ++ BitVec.ofBool sx ++ size) d a 0 off 0 0 0)
  | .sts g a b size off => some (.w64 0x19 g (size.setWidth 5) 0 a b off 0 0 0)
  | .waitlc64 g n rp l => some (.block64 0x1A g 0 0 0 0 (n.setWidth 16) rp l)
  | .waitlc96 g n rp l => some (.w96 0x1A g 0 0 0 0 (n.setWidth 16) rp l)
  | .semadd g a b off => some (.w64 0x1C g 0 0 a b off 0 0 0)
  | .semwait64 g a b off t rp l => some (.block64 0x1D g (cond t 1 0) 0 a b off rp l)
  | .semwait96 g a b off t rp l => some (.w96 0x1D g (cond t 1 0) 0 a b off rp l)
  | .tagwait64 g d a al cl rp l => some (.block64 0x20 g ((0 : BitVec 3) ++ BitVec.ofBool cl ++ BitVec.ofBool al) d a 0 0 rp l)
  | .tagwait96 g d a al cl rp l => some (.w96 0x20 g ((0 : BitVec 3) ++ BitVec.ofBool cl ++ BitVec.ofBool al) d a 0 0 rp l)
  | .tagff g d a cl => some (.w32 0x21 g (cond cl 1 0) d a 0)
  | .qput64 g q a rp l => some (.block64 0x22 g (q.setWidth 5) 0 a 0 0 rp l)
  | .qput96 g q a rp l => some (.w96 0x22 g (q.setWidth 5) 0 a 0 0 rp l)
  | .qget64 g q d rp l => some (.block64 0x23 g (q.setWidth 5) d 0 0 0 rp l)
  | .qget96 g q d rp l => some (.w96 0x23 g (q.setWidth 5) d 0 0 0 rp l)
  | .fenceFull g sc => some (.w32 0x24 g (sc.setWidth 5) 0 0 0)
  | .fenceRelease g sc => some (.w32 0x24 g ((1 : BitVec 3) ++ sc) 0 0 0)
  | .fenceAcquire g sc => some (.w32 0x24 g ((2 : BitVec 3) ++ sc) 0 0 0)
  | .fencesc g => some (.w32 0x25 g 0 0 0 0)
  | .launch g d a rp => some (.w64 0x28 g 0 d a 0 0 0 rp 0)
  | .done g => some (.w32 0x29 g 0 0 0 0)
  | .yield g => some (.w32 0x2A g 0 0 0 0)
  | .csrr g d n => some (.w64 0x2C g 0 d 0 0 (n.setWidth 16) 0 0 0)
  | .csrw g d a n => some (.w64 0x2D g 0 d a 0 (n.setWidth 16) 0 0 0)
  | .csrwSet g d a n => some (.w64 0x2D g 1 d a 0 (n.setWidth 16) 0 0 0)
  | .csrwClr g d a n => some (.w64 0x2D g 2 d a 0 (n.setWidth 16) 0 0 0)
  | .trap g code => some (.w32i 0x30 g (code.setWidth 10))
  | .tret g => some (.w32 0x31 g 0 0 0 0)
  | .apcvtGlob g d a => some (.w32 0x34 g 0 d a 0)
  | .apcvtOwn g d a => some (.w32 0x34 g 1 d a 0)
  | .aptst g d a => some (.w32 0x35 g 0 d a 0)
  | .txgo64 g a e rp l => some (.block64 0x38 g 0 0 a 0 (e.setWidth 16) rp l)
  | .txgo96 g a e rp l => some (.w96 0x38 g 0 0 a 0 (e.setWidth 16) rp l)
  | _ => none

/-- The OP and the fields of a step that is a vector word (R48). -/
def encodeV : Instr → Option (Nat × VArgs)
  | .gopenX w => some (0x00, w)
  | .gopen w => some (0x00, w)
  | .gclose w => some (0x01, w)
  | .gld w => some (0x02, w)
  | .gldOa w => some (0x02, w)
  | .gldOb w => some (0x02, w)
  | .gst w => some (0x03, w)
  | .gstAccumulator w => some (0x03, w)
  | .gldm w => some (0x04, w)
  | .gstz w => some (0x05, w)
  | .gadv w => some (0x06, w)
  | .gend w => some (0x07, w)
  | .gldr w => some (0x08, w)
  | .shfence w => some (0x09, w)
  | .fopen w => some (0x0A, w)
  | .fadv w => some (0x0B, w)
  | .fend w => some (0x0C, w)
  | .fclose w => some (0x0D, w)
  | .fisect w => some (0x0E, w)
  | .fldv w => some (0x0F, w)
  | .fldvCrd w => some (0x0F, w)
  | .rwaitf w => some (0x10, w)
  | .rwaite w => some (0x11, w)
  | .rclaim w => some (0x12, w)
  | .rpub w => some (0x13, w)
  | .rrel w => some (0x14, w)
  | .vpm w => some (0x15, w)
  | .qputVw w => some (0x16, w)
  | .qgetVw w => some (0x17, w)
  | .semaddVw w => some (0x18, w)
  | .semwaitVw w => some (0x19, w)
  | .kli w => some (0x1A, w)
  | .kadd w => some (0x1B, w)
  | .vadd w => some (0x20, w)
  | .vsub w => some (0x21, w)
  | .vmul w => some (0x22, w)
  | .vfma w => some (0x23, w)
  | .vminmax w => some (0x24, w)
  | .vsgn w => some (0x25, w)
  | .viadd w => some (0x26, w)
  | .visub w => some (0x27, w)
  | .vimul w => some (0x28, w)
  | .vlogic w => some (0x29, w)
  | .vshift w => some (0x2A, w)
  | .viminmax w => some (0x2B, w)
  | .vcmp w => some (0x2C, w)
  | .vsel w => some (0x2D, w)
  | .vcvt w => some (0x2E, w)
  | .vqnt w => some (0x2F, w)
  | .vsf w => some (0x30, w)
  | .vbcr w => some (0x31, w)
  | .vbcc w => some (0x32, w)
  | .vrotr w => some (0x33, w)
  | .vrotc w => some (0x34, w)
  | .vredr w => some (0x35, w)
  | .vredc w => some (0x36, w)
  | .vsegr w => some (0x37, w)
  | .vscanr w => some (0x38, w)
  | .vperm w => some (0x39, w)
  | .vmov w => some (0x3A, w)
  | .vli w => some (0x3B, w)
  | .vrng w => some (0x3C, w)
  | .vclamp w => some (0x3D, w)
  | .upd w => some (0x3E, w)
  | .updf w => some (0x3E, w)
  | .loopn w => some (0x3F, w)
  | _ => none

/-- The OP and the fields of a step that is a matrix word (R54). -/
def encodeM : Instr → Option (Nat × MArgs)
  | .mmaD w => some (0x00, w)
  | .mma w => some (0x00, w)
  | .mmas w => some (0x01, w)
  | .mzero w => some (0x02, w)
  | .maccr w => some (0x03, w)
  | .maccw w => some (0x04, w)
  | .mscale w => some (0x05, w)
  | .mwait w => some (0x06, w)
  | _ => none

/-- LEN, the OP and the fields of a step that is a transfer word (R58). -/
def encodeT : Instr → Option (Bool × Nat × TArgs)
  | .copy w => some (false, 0x00, w)
  | .xpose w => some (false, 0x01, w)
  | .convZp w => some (false, 0x02, w)
  | .convFib w => some (false, 0x02, w)
  | .conv w => some (false, 0x02, w)
  | .decomp w => some (false, 0x03, w)
  | .gather w => some (false, 0x04, w)
  | .scatter w => some (false, 0x05, w)
  | .iread w => some (false, 0x06, w)
  | .mcast w => some (false, 0x07, w)
  | .reduce w => some (false, 0x08, w)
  | .accw w => some (false, 0x09, w)
  | .atom w => some (false, 0x0A, w)
  | .signal w => some (false, 0x0B, w)
  | .tagset w => some (false, 0x0F, w)
  | .follow w => some (false, 0x10, w)
  | .pref w => some (false, 0x11, w)
  | .udrain w => some (false, 0x12, w)
  | .coll w => some (false, 0x13, w)
  | .req w => some (false, 0x14, w)
  | .urgn w => some (false, 0x15, w)
  | .migh w => some (false, 0x16, w)
  | .trel w => some (false, 0x18, w)
  | .tacq w => some (false, 0x19, w)
  | .tfence w => some (false, 0x1A, w)
  | .tbr64 w => some (false, 0x20, w)
  | .tloop64 w => some (false, 0x21, w)
  | .tli64 w => some (false, 0x22, w)
  | .tcmp w => some (false, 0x23, w)
  | .tend => some (false, 0x24, TArgs.zero)
  | .tldr w => some (false, 0x25, w)
  | .tstr w => some (false, 0x26, w)
  | .tadd64 w => some (false, 0x28, w)
  | .tsub64 w => some (false, 0x29, w)
  | .tmul64 w => some (false, 0x2A, w)
  | .tand64 w => some (false, 0x2B, w)
  | .tor64 w => some (false, 0x2C, w)
  | .tshl64 w => some (false, 0x2D, w)
  | .tshr64 w => some (false, 0x2E, w)
  | .semwt w => some (true, 0x0C, w)
  | .rfill w => some (true, 0x0D, w)
  | .rdrain w => some (true, 0x0E, w)
  | .tbr128 w => some (true, 0x20, w)
  | .tloop128 w => some (true, 0x21, w)
  | .tli128 w => some (true, 0x22, w)
  | .tadd128 w => some (true, 0x28, w)
  | .tsub128 w => some (true, 0x29, w)
  | .tmul128 w => some (true, 0x2A, w)
  | .tand128 w => some (true, 0x2B, w)
  | .tor128 w => some (true, 0x2C, w)
  | .tshl128 w => some (true, 0x2D, w)
  | .tshr128 w => some (true, 0x2E, w)
  | _ => none

/-- The length in bits and the word of a step that is fetched; none for an event. -/
def encode (i : Instr) : Option (Nat × Nat) :=
  match encodeS i with
  | some f => some (32 * (f.len.toNat + 1), f.toNat)
  | none =>
    match encodeV i with
    | some (op, w) => some (96, w.toNat op)
    | none =>
      match encodeM i with
      | some (op, w) => some (192, w.toNat op)
      | none =>
        match encodeT i with
        | some (long, op, w) => some (cond long 128 64, w.toNat long op)
        | none => none

/-- Bytes the word of a fetched step takes in its store; 0 for an event. -/
def Instr.bytes (i : Instr) : Nat :=
  match encode i with
  | some (n, _) => n / 8
  | none => 0

end Sys2Proof
end

