-- ==== Sys2Proof/Machine/Records.lean ====
section
/-!
DEFINITION. Machine/Records.lean: the records that software lays out in memory, as the machine holds them once it has
read them: shape records (R91), fibre descriptors (R90), task descriptors and extension blocks (R128-R131),
segment-table entries (R259) and partition configurations (R385).
-/

namespace Sys2Proof.Machine

/-- Bytes by address, in canonical form (`Cells.wf`, Machine/Ops.lean). -/
abbrev Cells := List Host.Cell

/-- A shape record (R91). `rsv` says that every reserved bit of the 192 bytes is zero. -/
structure Shape where
  base : W64
  fmtByte : Byte
  rank : Nat
  flags : BitVec 16
  fill : W32
  bounds : List Nat
  strides : List Int
  bgeo : W64
  scBase : W64
  scStride : Int
  bandBase : W64
  ragged : W64
  srKey : W64
  srStream : W32
  srBase : W64
  rsv : Bool
deriving DecidableEq, Repr, Inhabited

/-- A fibre descriptor (R90), 32 bytes. -/
structure FibDesc where
  offs : Nat
  crds : Nat
  vals : Nat
  row : Nat
  clim : Nat
  fmt : Nat
  rsv : Bool
deriving DecidableEq, Repr, Inhabited

/-- A task descriptor (R128). -/
structure Desc where
  codeBase : W64
  codeLen : Nat
  moveOff : Nat
  entX : Nat
  entL : Nat
  entC : Nat
  entS : Nat
  entM : Nat
  handler : Nat
  prio : Byte
  segCnt : Nat
  affinity : BitVec 16
  segTab : W64
  ext : W64
  doneSem : W64
  part : Byte
  asid : BitVec 16
  args : List W64
  rsv : Bool
deriving DecidableEq, Repr, Inhabited

/-- A read or write declaration (R130). -/
structure Decl where
  base : W64
  rowBytes : Nat
  rows : Nat
  stride : Nat
  nren : Nat
  rens : List W64
  rsv : Bool
deriving DecidableEq, Repr, Inhabited

/-- A preload (R131). -/
structure Preload where
  src : W64
  spOff : Nat
  len : Nat
deriving DecidableEq, Repr, Inhabited

/-- A discardable region (R131). -/
structure Discard where
  spOff : Nat
  len : Nat
  fill : W32
  rsv : Bool
deriving DecidableEq, Repr, Inhabited

/-- An extension block (R129): the counts, and the entries within the counts. -/
structure Ext where
  nrd : Nat
  nwr : Nat
  npre : Nat
  ndisc : Nat
  rds : List Decl
  wrs : List Decl
  pres : List Preload
  discs : List Discard
  rsv : Bool
deriving DecidableEq, Repr, Inhabited

/-- A segment-table entry (R259). -/
structure Seg where
  vbase : Nat
  vlen : Nat
  phys : W64
  rights : Byte
  cls : Byte
  uop : Byte
  rsv : Bool
deriving DecidableEq, Repr, Inhabited

/-- An admission-table entry (R293). -/
structure AdmEntry where
  lo : Nat
  hi : Nat
  nsrc : Nat
  part : Nat
  srcs : List (Nat × Nat)
deriving DecidableEq, Repr, Inhabited

/-- A slot table of one instance of a shared resource (R416): the resource's number, the instance, 64 entries. -/
structure SlotTable where
  resource : Nat
  index : Nat
  entries : List Byte
deriving DecidableEq, Repr, Inhabited

/-- A partition's configuration (R385). -/
structure PartConf where
  cores : Nat
  moorQ : Nat
  swapT : Nat
  ovCount : Nat
  ovBase : Nat
  frameBase : Nat
  frameCnt : Nat
  otSrc : Nat
  otBase : Nat
  otLen : Nat
  rsvBase : Nat
  rsvLen : Nat
  rsv : Bool
deriving DecidableEq, Repr, Inhabited

end Sys2Proof.Machine
end

