-- ==== Sys2Proof/Machine/CoreState.lean ====
section
/-!
DEFINITION. Machine/CoreState.lean: everything one logical core holds (R14-R16, R143-R148, R198, R203, R215, R231, R325-R334,
R349): its four sequencers, queues, tiles, accumulators, operand buffers, streams, fibres, matrix engine, emit pool
state, trap registers, scratchpad and instruction store.
-/

namespace Sys2Proof.Machine

/-- A tile register: 1,024 lanes of 32 bits, lane 64 × row + column (R231). -/
abbrev Tile := Vector W32 1024

/-- An accumulator: 64 × 64 elements of 32 bits, element 64 × i + j (R325). -/
abbrev Acc := Vector W32 4096

/-- A mask: bit 64 × row + column (R231). -/
abbrev Mask := BitVec 1024

/-- A blocking word that waits (R43), or a word that waits without a limit (`limit` none: FENCE, FENCESC, LAUNCH,
DONE, and the timing stalls R274 counts). -/
structure Wait where
  word : Instr
  issued : Nat
  limit : Option Nat
deriving DecidableEq, Repr

/-- What a queue carries (R15, R76): an entry with the clock that wrote it and the emit-pool entries C had written
before it (R185), or a register write that travels in order and occupies no entry. -/
inductive QItem where
  | entry (v : W64) (clock : Nat) (emitted : Nat)
  | fcr (v : W64)
  | srkey (v : W64)
  | sridxLo (v : W64)
  | sridxHi (v : W32)
deriving DecidableEq, Repr

/-- One scratchpad access of X that is not finished (R173-R176, R180), in program order. A served load holds its value
and the clock from which it may complete. -/
inductive Posted where
  | load (d : SReg) (addr size : Nat) (sx : Bool) (res : Option (W64 × Nat))
  | skip (d : SReg) (issued : Nat)
  | store (addr size : Nat) (v : W64)
  | semadd (index : Nat) (v : W64)
deriving DecidableEq, Repr

/-- A LAUNCH whose checks are done and whose result is not yet written (R189). -/
structure LaunchRes where
  d : SReg
  rp : PReg
  value : W64
deriving DecidableEq, Repr, Inhabited

/-- The control sequencer X (R143-R145). `ready` is the first clock at which its next word may issue (R151, R172). `fsrNew` are
flags that hardware raised in this clock (R149); `fsc` is the clock in which the last access that FENCESC awaits was performed,
`fscWait` the commands it awaits, each by its engine, context and number (R115, R186); `descGot` is the descriptor that the LAUNCH it
waits in has read from a scratchpad (R27, R187). -/
structure XState where
  pc : W32
  s : Vector W64 32
  p : BitVec 8
  fcr : W64
  fsr : W64
  pend : List Posted
  lastDone : Nat
  wait : Option Wait
  launch : Option LaunchRes
  fsc : Option Nat
  ready : Nat
  fsrNew : W64
  fscWait : List (Nat × Nat × Nat)
  descGot : Option Nat
deriving DecidableEq, Repr

/-- The replay state of LOOPN (R229): the body's first byte, the byte after it, the level bounds and counters. -/
structure Loop where
  start : W32
  stop : W32
  bounds : List Nat
  count : List Nat
deriving DecidableEq, Repr, Inhabited

/-- A load that reads scratchpad in wheel positions (R27, R205): its word, and the 64-byte units that it has read. -/
structure LoadRun where
  word : Instr
  got : List (Nat × List Byte)
deriving DecidableEq, Repr

/-- A write of `width` bits from bit `sh` of the `len` bytes at an offset. -/
structure BitWrite where
  addr : Nat
  len : Nat
  sh : Nat
  width : Nat
  val : Nat
deriving DecidableEq, Repr, Inhabited

/-- A stream store that has issued (R27, R205): what each of its wheel positions still has to write, and the flags that it raises
when it completes (R149). -/
structure StoreRun where
  chunks : List (List BitWrite)
  flags : BitVec 6
deriving DecidableEq, Repr, Inhabited

/-- What L, C and S have in common (R198, R232). `fsrNew` are flags raised in this clock (R149); `acc` is the load in progress,
`store` the store; `ext` is the clock at which a wait reached its limit on a ring whose extension is to be linked (R224). -/
structure VState where
  pc : W32
  k : Vector W64 8
  p : BitVec 8
  fcr : W64
  fsr : W64
  wait : Option Wait
  loop : Option Loop
  ready : Nat
  fsrNew : W64
  acc : Option LoadRun
  store : Option StoreRun
  ext : Option Nat
deriving DecidableEq, Repr

/-- The bounds and rights of a stream opened by GOPEN.x (R96, R203). -/
structure ObjBind where
  index : Nat
  lo : Nat
  hi : Nat
  rd : Bool
  wr : Bool
deriving DecidableEq, Repr, Inhabited

/-- An open stream (R203). `offset` is the record's scratchpad offset. -/
structure Stream where
  recd : Shape
  offset : Nat
  obj : Option ObjBind
  cur : List Nat
  ended : Bool
  line : Nat
  elt : Nat
  zpos : Nat
deriving DecidableEq, Repr, Inhabited

/-- A fibre's contents (R215): a row of a descriptor from position p to stop q with its order flag, or the
intersection of two fibres (R219) with the number of matches already passed. -/
inductive Fibre where
  | row (d : FibDesc) (s e p q : Nat) (bad : Option Nat)
  | meet (a b : Fibre) (passed : Nat)
deriving DecidableEq, Repr

/-- An operand buffer (R326): raw element bytes, raw scale bytes, format and FULL. -/
structure OpBuf where
  data : List Byte
  scales : List Byte
  fmt : BitVec 4
  full : Bool
deriving DecidableEq, Repr, Inhabited

/-- A matrix word in the C queue or the follow-on port (R328, R331): A's format and each accumulator's B format, its clock of
arrival, and what it read when it issued: tile lanes (R339, R340), or the fibres' descriptors and the rows' coordinates with
their positions (R337, R338). -/
structure MEntry where
  word : MWord
  fmtA : BitVec 4
  fmtBs : List (BitVec 4)
  port : Bool
  arrived : Nat
  cap : List W32
  fibA : FibDesc
  fibB : FibDesc
  rowsA : List (List (Nat × Nat))
  rowsB : List (List (Nat × Nat))
deriving DecidableEq, Repr, Inhabited

/-- The running matrix word: the tile steps done, the accumulators as they stand before they are written (R331), the
flags raised, the clock at which its next tile step began to wait, the A operand taken for this K step, the 64-byte units of
scratchpad that the word has read (R329), and the accumulators whose last tile step has run, each with its clock (R331). -/
structure MRun where
  entry : MEntry
  step : Nat
  work : List (Nat × List W32)
  flags : BitVec 6
  since : Nat
  latchA : Option OpBuf
  taken : List (Nat × OpBuf)
  units : List (List Byte)
  ends : List (Nat × Nat)
deriving DecidableEq, Repr, Inhabited

/-- The matrix engine (R326, R331, R333). -/
structure MatEng where
  queue : List MEntry
  port : List MEntry
  run : Option MRun
  owned : BitVec 4
  idle : Bool
  lastBusy : Nat
deriving DecidableEq, Repr, Inhabited

/-- The emit pool's port state (R349): the oldest index, the count, each port's unaccepted entries, how many
entries C has ever written and basins have ever freed (R185), and the entries of an UPD still to be written, each with its port
(R353). -/
structure EmitState where
  oldest : Nat
  count : Nat
  ports : Vector Nat 4
  written : Nat
  freed : Nat
  todo : List (Nat × Nat)
deriving DecidableEq, Repr

/-- An entry of the record cache (R95), most recently used first in its list. -/
structure CacheEntry where
  offset : Nat
  recd : Shape
deriving DecidableEq, Repr, Inhabited

/-- The trap CSRs (R138). -/
structure TrapRegs where
  tcause : Byte
  tsrc : BitVec 3
  tepc : W32
  tinfo0 : W64
  tinfo1 : W64
  hm : Bool
deriving DecidableEq, Repr, Inhabited

/-- A trap to be taken (R135): code, source, address and information. -/
structure Trap where
  code : Byte
  src : BitVec 3
  pc : W32
  info0 : W64
  info1 : W64
deriving DecidableEq, Repr, Inhabited

/-- A trap that has been raised and not yet taken, since words that have issued are still to complete (R136, R151); `ends` says that it
terminates the task (R139). -/
structure Stopping where
  trap : Trap
  ends : Bool
deriving DecidableEq, Repr, Inhabited

/-- The task a core runs (R133, R146, R396). `tick0` is the tick at which dispatch took its bind record (R140). -/
structure Bound where
  tid : Nat
  desc : Desc
  ext : Ext
  part : BitVec 6
  asid : BitVec 9
  depth : BitVec 5
  priv : Bool
  vers : List Nat
  tick0 : Nat
  running : Bool
  vstop : Bool
  doneIssued : Bool
  replayable : Bool
  stop : Option Stopping
deriving DecidableEq, Repr

/-- What a warm core remembers of its last bound task (R398). -/
structure WarmKey where
  codeBase : W64
  codeLen : Nat
  moveOff : Nat
  segTab : W64
  segCnt : Nat
  asid : BitVec 9
deriving DecidableEq, Repr, Inhabited

/-- One logical core. `coreNo` is the CSR `core` (R146), which bind writes; `tagNew` are tags set in this clock (R149, R182);
`lastSem` is how many pool entries C had written when X last found a semaphore's count (R117, R121). `pos` is one more than the
clock of the latest wheel position that served an access of this scratchpad, and who it served: 0 the core itself, else one more
than the place of a transfer engine (R26, R27). `xret` is where X stopped when a trap of L, C or S was taken (R136, R138).
`phys` is the physical core that its logical number names (R11, R13); none when it is unavailable. -/
structure Core where
  phys : Option Nat
  released : Bool
  task : Option Bound
  warm : Option WarmKey
  x : XState
  l : VState
  c : VState
  s : VState
  srkey : W64
  sridx : BitVec 96
  csrFcrL : W64
  csrFcrC : W64
  csrFcrS : W64
  csrSrkey : W64
  csrSridx : BitVec 96
  q : Vector (List QItem) 8
  lastQ6 : Nat
  gl : Vector (Option Stream) 8
  gs : Vector (Option Stream) 8
  f : Vector (Option Fibre) 4
  cache : List CacheEntry
  v : Vector Tile 16
  m : Vector Mask 7
  z : Vector Acc 4
  oa : Vector OpBuf 4
  ob : Vector OpBuf 4
  mat : MatEng
  emit : EmitState
  emitTab : List (Nat × Nat × Nat)
  tagr : W64
  trap : TrapRegs
  xret : W32
  otbase : BitVec 22
  otlen : BitVec 16
  sp : Cells
  istore : Cells
  pos : Nat × Nat
  coreNo : BitVec 9
  tagNew : W64
  lastSem : Nat
deriving DecidableEq, Repr

/-! ## Reset -/

/-- X with every register at zero (R133 step 6, R146: `pr` resets to 0x80). -/
def XState.init : XState where
  pc := 0
  s := tab 32 fun _ => 0
  p := 0x80
  fcr := 0
  fsr := 0
  pend := []
  lastDone := 0
  wait := none
  launch := none
  fsc := none
  ready := 0
  fsrNew := 0
  fscWait := []
  descGot := none

/-- L, C or S with every register at zero (R133 step 6). -/
def VState.init : VState where
  pc := 0
  k := tab 8 fun _ => 0
  p := 0x80
  fcr := 0
  fsr := 0
  wait := none
  loop := none
  ready := 0
  fsrNew := 0
  acc := none
  store := none
  ext := none

/-- An operand buffer of zeros (R133 step 6; R326: FMT 0 and FULL clear at reset). -/
def OpBuf.init : OpBuf := ⟨[], [], 0, false⟩

/-- An idle matrix engine (R331: bind leaves it idle). -/
def MatEng.init : MatEng := ⟨[], [], none, 0, true, 0⟩

/-- An empty emit pool. -/
def EmitState.init : EmitState := ⟨0, 0, tab 4 fun _ => 0, 0, 0, []⟩

/-- The trap CSRs at reset (R138). -/
def TrapRegs.init : TrapRegs := ⟨0, 0, 0, 0, 0, false⟩

/-- A core after a cold reset (R146, R424), with logical number `n` on the physical core of the same number within its
die: no die is retired and the first 40 physical cores work (log entry 3). -/
def Core.init (n : Nat) : Core where
  phys := some (n % 40)
  released := false
  task := none
  warm := none
  x := XState.init
  l := VState.init
  c := VState.init
  s := VState.init
  srkey := 0
  sridx := 0
  csrFcrL := 0
  csrFcrC := 0
  csrFcrS := 0
  csrSrkey := 0
  csrSridx := 0
  q := tab 8 fun _ => []
  lastQ6 := 0
  gl := tab 8 fun _ => none
  gs := tab 8 fun _ => none
  f := tab 4 fun _ => none
  cache := []
  v := tab 16 fun _ => tab 1024 fun _ => 0
  m := tab 7 fun _ => 0
  z := tab 4 fun _ => tab 4096 fun _ => 0
  oa := tab 4 fun _ => OpBuf.init
  ob := tab 4 fun _ => OpBuf.init
  mat := MatEng.init
  emit := EmitState.init
  emitTab := []
  tagr := 0
  trap := TrapRegs.init
  xret := 0
  otbase := 0
  otlen := 0
  sp := []
  istore := []
  pos := (0, 0)
  coreNo := 0
  tagNew := 0
  lastSem := 0

end Sys2Proof.Machine
end

