-- ==== Sys2Proof/Machine/XferState.lean ====
section
/-!
DEFINITION. Machine/XferState.lean: what a transfer engine holds (R255-R257, R265, R271, R355): four contexts with the
command in progress, the invocation queue, the program store, the segment cache, the first-level TLB, the parameter
area and the drain unit.
-/

namespace Sys2Proof.Machine

/-- STATUS.STATE of a context (R256). -/
inductive CState where
  | free | running | waiting | suspended | stopped
deriving DecidableEq, Repr, Inhabited

/-- A suspension record (R271). -/
structure Susp where
  cause : Byte
  sub : Byte
  level : Nat
  kind : Nat
  cmd : W32
  ep : W64
  va : W64
  aux : W64
deriving DecidableEq, Repr, Inhabited

/-- Why a command in progress is not performing elements. -/
inductive Hold where
  /-- nothing holds it -/
  | none
  /-- a page walk for this virtual address (R265); `kind` is KIND of R271 -/
  | walk (va : Nat) (kind : Nat)
  /-- a test of SEMWT, RFILL or RDRAIN, since this clock (R298, R300) -/
  | test (since : Nat)
  /-- the extension of a ring that RFILL found full at its limit, at this clock (R224, R300) -/
  | extend (at0 : Nat)
  /-- admission to an ordered element (R294) -/
  | admission
  /-- the other participants of a collective (R307) -/
  | coll
  /-- the follow-on port (R303) -/
  | port
deriving DecidableEq, Repr

/-- A command in progress: its word, its offset, the registers it read when it issued (R279), the records it read when
it started, the number of its elements, the flags its elements have raised, and values it has read. -/
structure Cmd where
  word : Instr
  /-- the number of the command among those its engine has started, and the virtual channel of its writes (R124) -/
  id : Nat
  vc : Nat
  off : W32
  a : Vector W64 16
  started : Bool
  recd : Shape
  rec2 : Shape
  total : Nat
  flags : BitVec 6
  vals : List Nat
deriving DecidableEq, Repr

/-- A data command whose elements have all been issued and which is not yet complete (R257, R279): its number, the scope at
which its accesses must be performed (R116), its tag, its flags, its register result. -/
structure Flight where
  id : Nat
  scope : Nat
  tag : Option (BitVec 6)
  flags : BitVec 6
  result : Option (Reg4 × W64)
deriving DecidableEq, Repr

/-- A transfer fault or decode stop to be delivered to the task (R136, R269, R270). -/
structure PendFault where
  code : Byte
  info0 : W64
  info1 : W64
deriving DecidableEq, Repr, Inhabited

/-- A write that a context has issued and that has not been performed at its home (R102, R104): the context, its command, the
virtual channel (R124), the generic address, the places of its bytes, which are written together (R103), and the bits of them that
are written. `upd` is how many entries of the core's emit pool come before it, `ep` which element it belongs to, `done` how many had been written when its command
completed (R111, R122); `told` says that a release of a narrower scope has come after its command (R110), `born` is the clock at which
it was issued. -/
structure Post where
  ctx : Nat
  id : Nat
  vc : Nat
  addr : Int
  parts : List (Nat × Nat)
  sh : Nat
  width : Nat
  val : Nat
  upd : Nat
  ep : Nat
  done : Option Nat
  told : Bool
  born : Nat
deriving DecidableEq, Repr, Inhabited

/-- A context (R256). `ending` says that TEND has executed (R311), `rung` that a resume doorbell has named the address of
the walk in flight (R272), `doneNo` is one more than the number, in the engine's order of commands that performed their last
element, of the context's latest one (R120); 0 before any. `got` are the values that its element has read so far, each in a position
of its own (R27), `again` those of them that the element is still to take in its next turn. `upd` is how many entries of the core's
emit pool come before its commands (R121, R122), `since` the clock at which its element began. -/
structure Ctx where
  a : Vector W64 16
  c : Vector W32 8
  tpc : W32
  ep : W64
  flag : Bool
  code : Byte
  st : CState
  susp : Susp
  cmd : Option Cmd
  hold : Hold
  flight : List Flight
  fault : Option PendFault
  ending : Bool
  rung : Bool
  doneNo : Nat
  got : List Nat
  again : List Nat
  upd : Nat
  since : Nat
deriving DecidableEq, Repr

/-- A first- or second-level TLB entry: a leaf (R263, R265). -/
structure TlbEntry where
  asid : Nat
  va : Nat
  size : Nat
  pa : Nat
deriving DecidableEq, Repr, Inhabited

/-- A triple the drain unit has sent (R355): its oldest pool index, its pool entries, its port, its target; whether its basin has
accepted it; the region for whose space its basin refused it, with the count of that region's retry events then (R359). -/
structure Triple where
  index : Nat
  entries : Nat
  port : Nat
  pa : Nat
  ord : W32
  val : W64
  wide : Bool
  accepted : Bool
  refused : Option (Nat × Nat)
deriving DecidableEq, Repr, Inhabited

/-- The drain unit of a core transfer engine (R355, R359). `caps` are the pool indices of triples that have been refused, each with the
place of the region whose CAPWAIT the refusal set; `half` is the WIDE entry at the end of the pool area that it has read, whose
continuation lies at the start. -/
structure Drain where
  flight : List Triple
  susp : Option Susp
  caps : List (Nat × Nat)
  half : Option Nat
deriving DecidableEq, Repr, Inhabited

/-- A transfer engine (R255). `plen` is the length of the move program. `posts` are the writes that are on their way to their
homes, in the order in which they were issued; `nextId` numbers the commands, `doneSeq` those that have performed their
last element; `posAt` is one more than the clock of the latest wheel position that an element used (R27). -/
structure Engine where
  ctxs : Vector Ctx 4
  invq : List (BitVec 13 × W64)
  pstore : Cells
  plen : Nat
  segs : List Seg
  asid : Nat
  tlb : List TlbEntry
  param : Cells
  lastCtx : Nat
  posts : List Post
  nextId : Nat
  doneSeq : Nat
  posAt : Nat
  drain : Drain
deriving DecidableEq, Repr

/-- STATE of STATUS as R256 numbers it. -/
def CState.code : CState → Nat
  | .free => 0
  | .running => 1
  | .waiting => 2
  | .suspended => 3
  | .stopped => 4

/-- INFL of STATUS (R256): the data commands that are started and not complete. -/
def Ctx.inFlight (x : Ctx) : Nat := x.flight.length + cond x.cmd.isSome 1 0

/-- STATUS (R256). -/
def Ctx.status (x : Ctx) : Nat := x.st.code + (cond x.flag 1 0) * 2 ^ 3 + x.inFlight % 16 * 2 ^ 12 + x.code.toNat * 2 ^ 16

/-- No suspension (R271: CAUSE 0). -/
def Susp.none : Susp := ⟨0, 0, 0, 0, 0, 0, 0, 0⟩

/-- A free context with every register at zero (R197, R256). -/
def Ctx.init : Ctx where
  a := tab 16 fun _ => 0
  c := tab 8 fun _ => 0
  tpc := 0
  ep := 0
  flag := false
  code := 0
  st := .free
  susp := Susp.none
  cmd := none
  hold := .none
  flight := []
  fault := none
  ending := false
  rung := false
  doneNo := 0
  got := []
  again := []
  upd := 0
  since := 0

/-- A drain unit with nothing sent. -/
def Drain.init : Drain := ⟨[], none, [], none⟩

/-- An engine with nothing loaded (R424 step 4: every store word is zero). -/
def Engine.init : Engine where
  ctxs := tab 4 fun _ => Ctx.init
  invq := []
  pstore := []
  plen := 0
  segs := []
  asid := 0
  tlb := []
  param := []
  lastCtx := 3
  posts := []
  nextId := 0
  doneSeq := 0
  posAt := 0
  drain := Drain.init

/-- The core that a core transfer engine serves (R17). -/
def engineCore : EngineId → Option (Fin 320)
  | .core n => some n
  | _ => none

/-- The place of an engine among the 416 (R17). -/
def engineIndex : EngineId → Nat
  | .core n => n.val
  | .die nd k => 320 + 8 * nd.val + k.val
  | .far fd k => 384 + 16 * fd.val + k.val

/-- The die that holds an engine: 0-7 the ND, 8 and 9 the FD (R9, R293). -/
def engineDie : EngineId → Nat
  | .core n => n.val / 40
  | .die nd _ => nd.val
  | .far fd _ => 8 + fd.val

/-- The number of an engine within its die (R293: 0-47 on an ND). -/
def engineLocal : EngineId → Nat
  | .core n => n.val % 40
  | .die _ k => 40 + k.val
  | .far _ k => k.val

end Sys2Proof.Machine
end

