-- ==== Sys2Proof/Machine/PackageState.lean ====
section
/-!
DEFINITION. Machine/PackageState.lean: what the package holds outside cores and transfer engines: the update basins
(R345-R365), the tugs (R371-R380), the lock-keeper (R383-R402), the wharf with its queues (R406-R410), the links
(R412-R414), partitions and slot tables (R415, R416), the dry dock (R381, R421), error counters (R420), the power
sequencer and the management controller (R424-R430).
-/

namespace Sys2Proof.Machine

/-! ## Update basins -/

/-- A pending triple as a canonical record (R358). -/
structure UpdRec where
  off : Nat
  ord : W32
  wide : Bool
  val : W64
deriving DecidableEq, Repr, Inhabited

/-- An update region (R345, R363, R365). `descAt` is where its descriptor lies, as a location (Machine/Ops.lean);
`pend` are the triples in bin SRAM in order of acceptance, `runs` the sorted spill runs, `sweep` the granules a first
access has yet to cover (R360), `retries` how many events have let refused triples be retried: applies and a linked extension
(R359). -/
structure Region where
  rid : Nat
  base : Nat
  len : Nat
  op : Nat
  part : Nat
  spill : Nat
  spLen : Nat
  shadow : Nat
  descAt : Nat
  xspill : Nat
  xlen : Nat
  pend : List UpdRec
  runs : List (List UpdRec)
  sweep : List Nat
  retries : Nat
deriving DecidableEq, Repr, Inhabited

/-! ## Tasks and the lock-keeper -/

/-- The state of a task (R386); `lost` tasks keep their dependants blocked (R391). -/
inductive TState where
  | overflow | moored | ready | binding | bound | saved | lost
deriving DecidableEq, Repr, Inhabited

/-- A task the lock-keeper knows. `after` are the tids it is ordered after (R106, R391), `vers` the versions it took
(R392), `ticks` the ticks of its finished binds (R140), `launches` the children its LAUNCHes were given, in order (R402),
`replayAt` how many of them the present attempt has reached. `fast` is the warm core that the fast path has given it at its enqueue,
with the clock (R398); `binds` counts its binds (R383). -/
structure Task where
  tid : Nat
  descAddr : W64
  desc : Desc
  ext : Ext
  prio : Nat
  st : TState
  depth : Nat
  parent : Nat
  priv : Bool
  after : List Nat
  vers : List Nat
  frame : Option Nat
  waitDoorbell : List (Nat × Nat)
  behind : List Nat
  replay : Bool
  ticks : Nat
  launches : List Nat
  replayAt : Nat
  fast : Option (Nat × Nat)
  binds : Nat
deriving DecidableEq, Repr

/-- A renamed set (R392). `holders` pairs a version with the tid that holds it; `maker` made the latest version; the
last three fields name the segment table of the task that made the set, for the copy of its last version. -/
structure RenSet where
  asid : Nat
  decl : Decl
  latest : Nat
  maker : Nat
  holders : List (Nat × Nat)
  copying : Bool
  segTab : W64
  segCnt : Nat
  part : Nat
deriving DecidableEq, Repr, Inhabited

/-- How far a bind has come (R133): the segment-table entries read, the image of the code and of the move program with how many pieces of
64 bytes are copied, whether what precedes the preloads is in place, the preloads that are copied, the pieces of the next one. -/
structure BindRun where
  segs : List Seg
  image : Cells
  pieces : Nat
  laid : Bool
  pres : Nat
  prePieces : Nat
deriving DecidableEq, Repr, Inhabited

/-- A bind record of the slot table (R396); VER is kept as one version per declaration. `run` is how far its bind has come, `failed` the
code and tinfo0 of a fault that is to end the task. `waitVa` is the address whose
page fault suspends the bind (R133), `since` the tick at which dispatch began to carry the record out (R140). -/
structure BindRec where
  tid : Nat
  desc : W64
  frame : Nat
  vers : List Nat
  kind : BitVec 2
  valid : Bool
  waitVa : Option Nat
  since : Option Nat
  run : BindRun
  failed : Option (Byte × W64)
deriving DecidableEq, Repr, Inhabited

/-- A task frame (R141). -/
structure Frame where
  core : Core
  ctxs : Vector Ctx 4
  invq : List (BitVec 13 × W64)
  drain : Drain
deriving DecidableEq, Repr

/-- A partition (R385, R415): its configuration and what PARTCFG gives beside it, its overflow ring's counts, its
telemetry, and whether a reset runs (R419). `confAt` is where its configuration lies; `idle` says that its slot-table entries stay
idle, from a warm reset to the next PARTCFG (R418). -/
structure Partition where
  conf : Option PartConf
  confAt : Nat
  vm : Nat
  asids : List Nat
  admission : List AdmEntry
  policy : W64
  anchored : W32
  ovHead : Nat
  ovTail : Nat
  resetting : Bool
  idle : Bool
deriving DecidableEq, Repr, Inhabited

/-- The `nth` collective of a group, from its exchange on (R123, R307): whether it failed, what the peer packages' participants
brought, which ranks of the package have performed their writes, and whether the peers' have. -/
structure CollRun where
  gid : Nat
  nth : Nat
  failed : Bool
  peers : List CollPeer
  done : List Nat
  peersDone : Bool
deriving DecidableEq, Repr, Inhabited

/-- The status record of a lost task that is still to be written, since its page is being moved (R142, R377). -/
structure Owed where
  part : Nat
  asid : Nat
  tid : Nat
  ext : W64
  regs : TrapRegs
  ticks : Nat
deriving DecidableEq, Repr, Inhabited

/-- The state of the lock-keeper as a journal point holds it (R383): tids, tasks, renamed sets, bind records, pre-emption requests, the
rings' counts by partition, the spill reserve with what asks for it. -/
structure Keeper where
  nextTid : Nat
  tasks : List Task
  sets : List RenSet
  slots : Vector BindRec 320
  preReqs : List Nat
  rings : List (Nat × Nat)
  reserve : List (Nat × Nat × Nat × Nat)
  capAsks : List (Nat × Nat)
deriving DecidableEq, Repr

/-- A copy of a voted machine that has dissented (R19, R267, R383), at a clock: it is being resynchronised from the other two, which hold
the machine's state. -/
structure Dissent where
  machine : Voted
  copy : Fin 3
  since : Nat
deriving DecidableEq, Repr

/-! ## The wharf -/

/-- A host queue's control block (R407). `stopSeen` says that STOPPED has been read; `inval` is the invalidation its
packet waits for, `fenceGot` what the counters read so far in the round of a FENCE gave (R390), `descGot` the descriptor that an ENQUEUE has read from a
scratchpad (R27), `full` how many moorings had been
released when the enqueue at its head was refused (R388). -/
structure HostQ where
  base : W64
  size : Byte
  tail : W32
  head : W32
  err : Byte
  stopped : Bool
  vec : BitVec 6
  part : BitVec 6
  asid : BitVec 9
  stopSeen : Bool
  inval : Option Nat
  fenceOn : Bool
  fenceGot : List Bool
  descGot : Option Nat
  full : Option Nat
deriving DecidableEq, Repr, Inhabited

/-- What a task frame shows of a context (R141, R256): its registers, STATUS as a word, the suspension record as a number. -/
structure CtxView where
  a : List W64
  c : List W32
  tpc : W32
  ep : W64
  flag : Bool
  status : Nat
  susp : Nat
deriving DecidableEq, Repr, Inhabited

/-- What the report of a suspension carries besides (R271): ASID, LEVEL, SUB; zero in every other event. -/
structure EventMore where
  asid : Nat
  level : Nat
  sub : Nat
deriving DecidableEq, Repr, Inhabited

/-- An event record (R410). -/
structure Event where
  code : Byte
  part : Nat
  tid : Nat
  addr : W64
  seqno : Nat
  more : EventMore
deriving DecidableEq, Repr, Inhabited

/-- An MSI-X message sent to the host (R406, R410, R411): the physical function (none) or a VM, the vector, the event
sequence number. -/
structure Msg where
  vm : Option Nat
  vec : Nat
  seqno : Nat
deriving DecidableEq, Repr, Inhabited

/-- An invalidation in progress (R266). -/
structure Inval where
  id : Nat
  asid : Nat
  base : Nat
  len : Nat
deriving DecidableEq, Repr, Inhabited

/-! ## Tier migration -/

/-- What is kept of a TIERED page (R372-R379): where it lies; hint 0 none, 1 near, 2 far; accesses of the epoch by source die; the
ticks of its latest moves, newest first; until which tick it is anchored; the home that a promotion without a free
frame goes to in the next epoch. -/
structure Page where
  asid : Nat
  va : Nat
  size : Nat
  pa : Nat
  hint : Nat
  counts : List (Nat × Nat)
  moves : List Nat
  anchoredUntil : Nat
  due : Option Nat
deriving DecidableEq, Repr, Inhabited

/-- A PREF request (R304, R375): the page and the target home. -/
structure PrefReq where
  asid : Nat
  va : Nat
  target : Nat
deriving DecidableEq, Repr, Inhabited

/-- A move in progress (R377): the page, the homes, the new frame, and the granules written since the background copy
(as they are performed at the old home until step 6, the copy is made at the commit). -/
structure TierMove where
  asid : Nat
  va : Nat
  size : Nat
  src : Nat
  dst : Nat
  inval : Nat
  fd : Nat
deriving DecidableEq, Repr, Inhabited

/-! ## Links, checkpoints, power -/

/-- A Harwald Link port (R412, R413). Receiving: the sequence number it expects, the flits delivered, the negative acknowledgements
sent, the credits it owes each VC. Sending: the next sequence number and the one last acknowledged, the replay buffer, how often in a
row its oldest flit has been replayed, the credits of each VC, the flits that wait for one, the flits sent. `downAt` is the clock
at which a retraining began. -/
structure LinkPort where
  up : Bool
  lost : Bool
  expect : BitVec 16
  rx : List Flit
  naks : Nat
  owed : List Nat
  next : BitVec 16
  acked : BitVec 16
  replay : List Flit
  tries : Nat
  credits : List Nat
  waiting : List Flit
  tx : List Flit
  downAt : Nat
deriving DecidableEq, Repr, Inhabited

/-- A route of the fabric routing table (R414): package, port mask, hops. -/
structure Route where
  pkg : Nat
  ports : BitVec 13
  hops : Nat
deriving DecidableEq, Repr, Inhabited

/-- A region as a checkpoint holds it (R366): the region with all its pending triples merged in canonical order, its
granule table and its STATUS. -/
structure CkptRegion where
  nd : Nat
  region : Region
  granules : List W64
  status : W64
deriving DecidableEq, Repr, Inhabited

/-- A page in a checkpoint (R382, R421): its tag, its hint and its contents; a TIERED page is kept without its home, `pa` 0. -/
structure CkptPage where
  asid : Nat
  va : Nat
  size : Nat
  hint : Nat
  tiered : Bool
  pa : Nat
  bytes : Cells
deriving DecidableEq, Repr, Inhabited

/-- A slot of the dry dock (R421): status 1 complete, 2 abandoned; kind 0 full, 1 incremental; `sizes` are the entries of its
sections of tasks, pages, regions and renamed sets. `near` is the near-tier memory of `ranges`, `no` the number of the checkpoint. -/
structure Ckpt where
  status : Nat
  kind : Nat
  parts : List Nat
  tick : Nat
  sizes : List Nat
  no : Nat
  tasks : List Task
  frames : List (Nat × Frame)
  pages : List CkptPage
  near : Cells
  ranges : List (Nat × Nat)
  regions : List CkptRegion
  sets : List RenSet
deriving DecidableEq, Repr

/-- The non-volatile record (R424, R429): retired dies, retired physical cores, the trip flag; and the fuses: the physical cores that
they rule out, by die (R11). -/
structure NvRecord where
  fuses : List (Nat × Nat)
  dies : List Nat
  cores : List (Nat × Nat)
  trip : Bool
deriving DecidableEq, Repr, Inhabited

/-- A flash slot of a firmware image (R425): whether its Ed25519 and its ML-DSA-65 signature verify against the fused keys, its version,
its SHA-384 digest. -/
structure FlashSlot where
  edOk : Bool
  mlOk : Bool
  version : W32
  digest : Nat
deriving DecidableEq, Repr, Inhabited

/-- The management controller and the power sequencer (R424-R430). `on` says that the rails are up; `bring` is the step of R424 that
is under way, 0 when bring-up is complete; `groups` are the groups of cores that step 7 has released, `relAt` and `throtAt` one more than
the tick of the latest release and of the latest throttle evaluation; `flash` are the two slots of each of the four images, `digests` what
the root of trust has measured of the images it accepted (R425). -/
structure Mgmt where
  on : Bool
  mcid : BitVec 24
  ready : Bool
  recovery : Bool
  svc : Bool
  throt : Bool
  trip : Bool
  step : Byte
  svcReq : Bool
  coldRst : Bool
  pwr : BitVec 16
  tempMax : Byte
  pcap : BitVec 16
  thrCnt : W32
  level : Nat
  fwVer : W64
  groups : Nat
  relAt : Nat
  throtAt : Nat
  nv : NvRecord
  bring : Nat
  flash : Vector FlashSlot 8
  digests : List Nat
deriving DecidableEq, Repr

/-- A host queue with every field at reset (R407). -/
def HostQ.init : HostQ := ⟨0, 0, 0, 0, 0, false, 0, 0, 0, false, none, false, [], none, none⟩

/-- A partition that has had no accepted configuration since the last cold reset (R385); AUTO, SHARE and THRESH at
their reset values (R376). -/
def Partition.init : Partition := ⟨none, 0, 0, [], [], 0x540, 0, 0, 0, false, false⟩

/-- A bind that has not begun. -/
def BindRun.init : BindRun := ⟨[], [], 0, false, 0, 0⟩

/-- A bind record at reset (R396). -/
def BindRec.init : BindRec := ⟨0, 0, 0, [], 0, false, none, none, BindRun.init, none⟩

/-- A valid bind record that dispatch has not begun to carry out (R396). -/
def BindRec.new (tid : Nat) (desc : W64) (frame : Nat) (vers : List Nat) (kind : BitVec 2) : BindRec :=
  ⟨tid, desc, frame, vers, kind, true, none, none, BindRun.init, none⟩

/-- A trained link with nothing in flight (R412, R424 step 5). -/
def LinkPort.init : LinkPort := ⟨true, false, 0, [], 0, [0, 0, 0, 0], 0, 0, [], 0, [0, 0, 0, 0], [], [], 0⟩

/-- The management controller after step 8 of R424 (R430). -/
def Mgmt.init : Mgmt where
  on := true
  mcid := 0x015A08
  ready := true
  recovery := false
  svc := false
  throt := false
  trip := false
  step := 0
  svcReq := false
  coldRst := false
  pwr := 0
  tempMax := 0
  pcap := 4000
  thrCnt := 0
  level := 8
  fwVer := 0
  groups := 5
  relAt := 0
  throtAt := 0
  nv := ⟨[], [], [], false⟩
  bring := 0
  flash := tab 8 fun _ => ⟨true, true, 0, 0⟩
  digests := [0, 0, 0, 0]

end Sys2Proof.Machine
end

