-- ==== Sys2Proof/Machine/State.lean ====
section
/-!
DEFINITION. Machine/State.lean: the whole state of the package (R9), the inputs that decide what moves next, the reasons a
step can stop, and the state right after reset (R6, R146, R424, R430).
-/

namespace Sys2Proof.Machine

/-- No step of the ZX8 stops in a fault: where software breaks an obligation the device's response is stated (R2), so
every stop of a task, a context or a queue is itself a next state. The type is empty. -/
inductive Fault
deriving DecidableEq, Repr

/-- Why a step has no meaning in the model. -/
inductive Refusal where
  /-- raised by an arm of `exec` whose instruction has no meaning yet (safe: the step is not taken) -/
  | notModelled (mnemonic : String)
  /-- raised by `step` when the bytes an agent would fetch or the move it would make names no step of the device: an
  `occur` of a word that only a sequencer or a context fetches (safe: the device makes no such move) -/
  | notAnEvent
deriving DecidableEq, Repr

/-- What the outside world, or the choice of an agent, brings to an event, a packet or a management action: which core,
context, queue, die, region or task it happens to, and the values it carries. -/
structure Occ where
  core : Fin 320 := 0
  seq : SeqName := .x
  eng : EngineId := .core 0
  ctx : Fin 4 := 0
  waiter : Waiter := .seq 0 .x
  queue : QueueId := .mgmt
  part : Fin 64 := 0
  die : Fin 19 := 0
  nd : Fin 8 := 0
  fd : Fin 2 := 0
  port : Fin 13 := 0
  cxlPort : Fin 4 := 0
  home : Fin 10 := 0
  slot : Fin 2 := 0
  voted : Voted := .wharf
  copy : Fin 3 := 0
  site : ReadSite := .seq 0
  reg : RegName := .mgmt 0
  fromPf : Bool := false
  k : Nat := 0
  rid : Nat := 0
  granule : Nat := 0
  asid : Nat := 0
  va : Nat := 0
  len : Nat := 0
  tid : Nat := 0
  addr : Nat := 0
  prio : Byte := 0
  tail : W32 := 0
  word : W64 := 0
  gid : W32 := 0
  peers : List CollPeer := []
  extra : PartExtra := ⟨0, [], [], 0, []⟩
  flit : Flit := ⟨0, 0, 0, 0, 0, [], true, false, 0xFF⟩
  ranges : List (Nat × Nat) := []
  roots : List (Nat × W64) := []
  routes : List Route := []
  acyclic : Bool := true
  frames : List (Nat × Bool) := []
  parts : List (Fin 64) := []
  tids : List Nat := []
  flash : Option (Vector FlashSlot 8) := none
  coolantOk : Bool := true
  stepNo : Nat := 0
  pwr : BitVec 16 := 0
  temp : Byte := 0
  num : Byte := 0
  sameClock : Bool := false
deriving DecidableEq, Repr

/-- What the wharf or the lock-keeper loads into a die or far-tier engine for a program that it issues (R255): the program, the
segment table and the ASID that it runs under, the parameter area, the invocations. -/
structure Program where
  code : List Byte
  segs : List Seg
  asid : BitVec 9
  param : List Byte
  invs : List (BitVec 13 × W64)
deriving DecidableEq, Repr

/-- What moves next: the core clock, a sequencer that may issue its next word, a transfer engine whose context may
issue its next word or one of whose posted writes may be performed, an event, packet or management action, a program for an engine
without a core, or a write of the outside world to memory it can reach. -/
inductive Move where
  | clock
  | issue (core : Fin 320) (q : SeqName)
  | xfer (e : EngineId) (n : Fin 4)
  | land (e : EngineId) (i : Nat)
  | occur (i : Instr) (o : Occ)
  | program (e : EngineId) (p : Program)
  | outside (addr : Nat) (bytes : List Byte)
deriving DecidableEq, Repr, Inhabited

/-- The agent a step acts for, what its occurrence brings, and the clocks (R21, R22): core clocks and lock-cycle ticks
since cold reset. -/
structure Ctl where
  cur : Fin 320
  curV : VSeq
  eng : EngineId
  ctx : Fin 4
  occ : Occ
  cyc : Nat
  tick : Nat
deriving DecidableEq, Repr

/-- The machine itself. -/
structure Mach where
  /-- the 320 logical cores (R11, R14) -/
  cores : Vector Core 320
  /-- the 416 transfer engines (R17), at `engineIndex` -/
  engines : Vector Engine 416
  /-- memory outside scratchpads, by home and address (R262; keys in Machine/Ops.lean) -/
  mem : Cells
  /-- second-level TLBs of ND0-ND7 (R265) -/
  tlb2 : Vector (List TlbEntry) 8
  /-- the ASID root table (R263) -/
  roots : Vector W64 512
  /-- update regions of the eight basins (R345) -/
  basins : Vector (List Region) 8
  /-- matrix engines that left idle in the present lock cycle, by compute die (R34) -/
  starts : Vector (Nat × Nat) 8
  /-- spare physical cores of each compute die (R11, R13) -/
  spares : Vector (List Nat) 8
  /-- logical compute dies that are absent (R12) -/
  absent : List Nat
  /-- the next task ID (R387) -/
  nextTid : Nat
  /-- the tasks the lock-keeper knows (R386), by rising tid -/
  tasks : List Task
  /-- renamed sets (R392) -/
  sets : List RenSet
  /-- the slot table (R396) -/
  slots : Vector BindRec 320
  /-- how many moorings have been released (R388) -/
  unmoored : Nat
  /-- status records of lost tasks that are still to be written (R142, R377) -/
  owed : List Owed
  /-- the lock-keeper's last journal point, committed at the latest tick (R383) -/
  journal : Keeper
  /-- one more than the clock of the latest enqueue, and its place in the order of one clock (R387) -/
  enqAt : Nat × Nat
  /-- the retirement increments that have been applied: tid and bind number (R383) -/
  incTags : List (Nat × Nat)
  /-- cores with a pre-emption request (R400) -/
  preReqs : List Nat
  /-- one more than the tick of the latest pre-emption evaluation and epoch decision of each half; 0 before any -/
  evalAt : Nat
  epochAt : Vector Nat 2
  /-- since when each core has met the conditions of R274 -/
  swapSince : Vector (Option Nat) 320
  /-- the 64 partitions (R385, R415) -/
  parts : Vector Partition 64
  /-- task frames by physical address (R141) -/
  frames : List (Nat × Frame)
  /-- spill-reserve bytes handed out, by partition: the region's place, base, bytes (R359) -/
  reserve : List (Nat × Nat × Nat × Nat)
  /-- regions whose drain units ask for a spill extension, by partition and base, in the order of the suspensions (R359) -/
  capAsks : List (Nat × Nat)
  /-- the core whose drain unit each basin served last of each partition: die, partition, core (R356) -/
  basinTurns : List (Nat × Nat × Nat)
  /-- ordered contributions made to admitted elements: entry's partition, address, source, count (R294) -/
  admitted : List (Nat × Nat × Nat × Nat)
  /-- COLL participations by group: engine, context, how many (R307) -/
  collSeen : List (Nat × Nat × Nat)
  colls : List CollRun
  /-- time-slot tables in force and waiting for the next multiple of 16 ticks (R416) -/
  slotTabs : List SlotTable
  slotNext : Option (List SlotTable)
  /-- host queues: VM v's queue n at 64 v + n, the management queue at 1024 (R407) -/
  queues : Vector HostQ 1025
  /-- the PF event ring and the messages sent (R410), newest last; the next sequence number -/
  events : List Event
  msgs : List Msg
  nextSeq : Nat
  /-- invalidations in progress (R266) and the next one's number -/
  invals : List Inval
  nextInval : Nat
  /-- virtual ranges that system software has pinned (R372): ASID, base, length -/
  pins : List (Nat × Nat × Nat)
  /-- TIERED pages (R373, R374), PREF requests and moves (R375, R377) -/
  pages : List Page
  prefs : Vector (List PrefReq) 2
  moves : List TierMove
  /-- free and freed frames of the ten homes (R377): base, is a 2 MiB frame -/
  free : Vector (List (Nat × Bool)) 10
  freed : Vector (List (Nat × Bool)) 10
  /-- decoded CXL ranges: far-tier die, port, base, length (R380) -/
  cxl : List (Nat × Nat × Nat × Nat)
  /-- the thirteen link ports, the routing table and the package number (R412-R414, R146) -/
  links : Vector LinkPort 13
  routes : List Route
  pkgnum : Option Byte
  /-- the dry dock's ranges: base and length (R381) -/
  dockArea : List (Nat × Nat)
  /-- the dry dock's two slots and the one written next (R381, R421) -/
  dock : Vector (Option Ckpt) 2
  dockNext : Nat
  /-- 64 KiB pages of near-tier memory that have been written, each with the number of checkpoints written before its latest write, and
  that number now (R421) -/
  dirty : List (Nat × Nat)
  ckptNo : Nat
  /-- the checkpoint in progress: its kind and partitions (R421); dies whose retirement is in progress (R423) -/
  ckptRun : Option (Nat × List Nat)
  retiring : List Nat
  /-- voted machines with a dissenting copy (R19, R267, R383) -/
  dissent : List Dissent
  /-- the clocks of each die's corrected errors of the last second, newest first (R420) -/
  ecc : Vector (List Nat) 19
  /-- what the latest register read with a side effect returned (R6, R407, R430) -/
  regData : W64
  /-- the power sequencer and the management controller (R424-R430) -/
  mgmt : Mgmt
deriving DecidableEq, Repr

/-- The state: what will move, how many turns have been taken, whom a step acts for and when, and the machine. -/
structure State where
  agenda : List Move
  turns : Nat
  ctl : Ctl
  mc : Mach
deriving DecidableEq, Repr

/-- The control part at reset: `tick` and `cyc` are 0 (R146). -/
def Ctl.init : Ctl := ⟨0, .l, .core 0, 0, {}, 0, 0⟩

/-- A core that bring-up has released (R426). -/
def Core.released0 (n : Nat) : Core := { Core.init n with released := true }

/-- The lock-keeper with no task known (R383). -/
def Keeper.init : Keeper := ⟨1, [], [], tab 320 fun _ => BindRec.init, [], (List.range 64).map fun _ => (0, 0), [], []⟩

/-- The machine after step 8 of R424: every register at its Reset column, every memory word zero, the PF told of the
reset (event 0xF2). -/
def Mach.init : Mach where
  cores := tab 320 Core.released0
  engines := tab 416 fun _ => Engine.init
  mem := []
  tlb2 := tab 8 fun _ => []
  roots := tab 512 fun _ => 0
  basins := tab 8 fun _ => []
  starts := tab 8 fun _ => (0, 0)
  spares := tab 8 fun _ => [40, 41]
  absent := []
  nextTid := 1
  tasks := []
  sets := []
  slots := tab 320 fun _ => BindRec.init
  unmoored := 0
  owed := []
  journal := Keeper.init
  enqAt := (0, 0)
  incTags := []
  preReqs := []
  evalAt := 0
  epochAt := tab 2 fun _ => 0
  swapSince := tab 320 fun _ => none
  parts := tab 64 fun _ => Partition.init
  frames := []
  reserve := []
  capAsks := []
  basinTurns := []
  admitted := []
  collSeen := []
  colls := []
  slotTabs := []
  slotNext := none
  queues := tab 1025 fun _ => HostQ.init
  events := [⟨0xF2, 0, 0, 0, 0, ⟨0, 0, 0⟩⟩]
  msgs := [⟨none, 0, 0⟩]
  nextSeq := 1
  invals := []
  nextInval := 0
  pins := []
  pages := []
  prefs := tab 2 fun _ => []
  moves := []
  free := tab 10 fun _ => []
  freed := tab 10 fun _ => []
  cxl := []
  links := tab 13 fun _ => LinkPort.init
  routes := []
  pkgnum := none
  dockArea := [(8 * 2 ^ 48 + 1408 * 2 ^ 30, 640 * 2 ^ 30), (9 * 2 ^ 48 + 1408 * 2 ^ 30, 640 * 2 ^ 30)]
  dock := tab 2 fun _ => none
  dockNext := 0
  dirty := []
  ckptNo := 0
  ckptRun := none
  retiring := []
  dissent := []
  ecc := tab 19 fun _ => []
  regData := 0
  mgmt := Mgmt.init

/-- The machine right after reset (R424, R430), with nothing about to move. -/
def State.reset : State := ⟨[], 0, Ctl.init, Mach.init⟩

end Sys2Proof.Machine
end

