-- ==== Sys2Proof/Config.lean ====
section
/-!
DEFINITION. Config.lean: what the spec leaves open and the model leaves free. Nothing can be proved about these values
(notes/assumptions/1.md, 13.md, 14.md, 15.md, 16.md, 29.md).
-/

namespace Sys2Proof.Machine

/-- What moves at the turn `n` when the agenda is empty: the spec fixes no order among agents (log entry 1). -/
opaque Config.schedule : Nat → Move

/-- A special function's result where the model's evaluation reaches no decision: function, format, rounding mode and
operand bits (log entry 13). -/
opaque Config.vsfValue : Nat → Nat → Nat → Nat → W32

/-- The throttle level 1-8 that the controller chooses from PWR, TEMPMAX and PCAP, less one (R428; log entry 16). -/
opaque Config.throttle : BitVec 16 → Byte → BitVec 16 → Fin 8

/-- An ND's low watermark of free frames (R374 rule 4; log entry 15). -/
opaque Config.lowWatermark : Fin 8 → Nat

/-- The triples that a partition asks of an ND's bin SRAM (R357; the configuration of R385 has no field for it; log entry 14); its
share is what the partitions of lower number leave of it (`binShare`). -/
opaque Config.binQuota : Fin 8 → Nat → Nat

/-- The pseudo-channel of its ND's HBM that serves a physical address (R416 names 32; log entry 17). -/
opaque Config.pseudoChannel : Nat → Fin 32

/-- Where in each run of eight lock cycles the first stands in which a throttled matrix engine starts tile steps (R428; log entry 16). -/
opaque Config.throttlePhase : Nat

/-- The device's two identity signatures, 0 Ed25519 and 1 ML-DSA-65, over the digests that an attestation report names (R425; log entry
16). -/
opaque Config.identitySignature : Fin 2 → List Nat → Nat

/-- The bytes of a task frame's header (R141): the spec lists what it holds and states no place in it (log entry 10). -/
opaque Config.frameHeader : Frame → Nat → Byte

/-- The bytes of a context in a task frame (R141), whose places in its 1 KiB the spec does not state (log entry 10). -/
opaque Config.frameContext : CtxView → Nat → Byte

/-- tinfo0 of MM_UNDECLARED at a bind's preload of an address, where R135's command address names no command (R131,
R133; log entry 29). -/
opaque Config.bindUndeclared : W64 → W64

end Sys2Proof.Machine
end

