-- ==== Sys2Proof/Machine/Num.lean ====
section
/-!
DEFINITION. Machine/Num.lean: exact values, element formats and rounding (R66-R79, R161), and the long accumulator
(R83-R86). A finite value is (−1)^neg × m × 2^e; a value cut off below carries a sticky bit that says a nonzero part
less than 2^e was dropped.
-/

namespace Sys2Proof.Machine

/-- IEEE flags and IS in the places of `fsr` (R148): NX 1, UF 2, OF 4, DV 8, NV 16, IS 32. -/
abbrev Flags := BitVec 6

def fNX : Flags := 1
def fUF : Flags := 2
def fOF : Flags := 4
def fDV : Flags := 8
def fNV : Flags := 16
def fIS : Flags := 32

/-- A flag when the condition holds. -/
def fIf (p : Bool) (f : Flags) : Flags := if p then f else 0

/-- The rounding modes (R75). -/
inductive Rm where
  | rne | rtz | rdn | rup | rna
deriving DecidableEq, Repr, Inhabited

/-- The mode of a code (R75); codes 5-7 are never held (R147). -/
def Rm.ofCode (n : Nat) : Rm :=
  match n with
  | 1 => .rtz
  | 2 => .rdn
  | 3 => .rup
  | 4 => .rna
  | _ => .rne

/-- What special encodings a format has (R68). -/
inductive FKind where
  | ieee | e4m3 | finite
deriving DecidableEq, Repr, Inhabited

/-- A floating-point element format (R68). -/
structure Fmt where
  eb : Nat
  mb : Nat
  bias : Int
  kind : FKind
deriving DecidableEq, Repr, Inhabited

def f64 : Fmt := ⟨11, 52, 1023, .ieee⟩
def f32 : Fmt := ⟨8, 23, 127, .ieee⟩
def e8m10 : Fmt := ⟨8, 10, 127, .ieee⟩
def bf16 : Fmt := ⟨8, 7, 127, .ieee⟩
def f16 : Fmt := ⟨5, 10, 15, .ieee⟩
def e4m3 : Fmt := ⟨4, 3, 7, .e4m3⟩
def e5m2 : Fmt := ⟨5, 2, 15, .ieee⟩
def e3m2 : Fmt := ⟨3, 2, 3, .finite⟩
def e2m3 : Fmt := ⟨2, 3, 1, .finite⟩
def e2m1 : Fmt := ⟨2, 1, 1, .finite⟩

/-- The floating-point format of a format code without its scales (R66); F32 for the integer codes. -/
def fmtOf (code : Nat) : Fmt :=
  match code with
  | 1 => e8m10
  | 2 => bf16
  | 3 => f16
  | 4 => e4m3
  | 5 => e5m2
  | 6 => e3m2
  | 7 => e2m3
  | 8 => e2m1
  | 11 => e4m3
  | 12 => e5m2
  | 13 => e3m2
  | 14 => e2m3
  | 15 => e2m1
  | _ => f32

/-- The scalar precisions (R159): F16 0, BF16 1, F32 2, F64 3. -/
def precFmt (p : BitVec 2) : Fmt :=
  match p.toNat with
  | 0 => f16
  | 1 => bf16
  | 2 => f32
  | _ => f64

/-- Bits of an element. -/
def Fmt.width (f : Fmt) : Nat := 1 + f.eb + f.mb

/-- A value of a format: a NaN, signalling or not, an infinity, or a finite value. -/
inductive FVal where
  | nan (sig : Bool)
  | inf (neg : Bool)
  | fin (neg : Bool) (m : Nat) (e : Int)
deriving DecidableEq, Repr, Inhabited

/-- The value of an element's bits (R68, R70). -/
def Fmt.decode (f : Fmt) (b : Nat) : FVal :=
  let s := b.testBit (f.eb + f.mb)
  let m := b % 2 ^ f.mb
  let e := (b >>> f.mb) % 2 ^ f.eb
  let normal := FVal.fin s (2 ^ f.mb + m) (e - f.bias - f.mb)
  if e == 0 then .fin s m (1 - f.bias - f.mb)
  else match f.kind with
    | .ieee =>
      if e + 1 == 2 ^ f.eb then (if m == 0 then .inf s else .nan (decide (m < 2 ^ (f.mb - 1)))) else normal
    | .e4m3 => if e == 15 && m == 7 then .nan false else normal
    | .finite => normal

/-- The canonical quiet NaN (R70, R161). -/
def Fmt.qnan (f : Fmt) : Nat :=
  match f.kind with
  | .ieee => (2 ^ (f.eb + 1) - 1) <<< (f.mb - 1)
  | .e4m3 => 0x7F
  | .finite => 0

/-- The infinity of a sign. -/
def Fmt.infBits (f : Fmt) (neg : Bool) : Nat := (cond neg 1 0) <<< (f.eb + f.mb) ||| (2 ^ f.eb - 1) <<< f.mb

/-- The magnitude bits of the largest finite element (R68). -/
def Fmt.maxBits (f : Fmt) : Nat :=
  match f.kind with
  | .ieee => (2 ^ f.eb - 2) <<< f.mb ||| (2 ^ f.mb - 1)
  | .e4m3 => 0x7E
  | .finite => 2 ^ (f.eb + f.mb) - 1

/-- A magnitude with a sign bit. -/
def Fmt.sign (f : Fmt) (neg : Bool) (mag : Nat) : Nat := (cond neg 1 0) <<< (f.eb + f.mb) ||| mag

/-- The largest finite magnitude as m × 2^e. -/
def Fmt.maxVal (f : Fmt) : Nat × Int :=
  match f.decode f.maxBits with
  | .fin _ m e => (m, e)
  | _ => (0, 0)

/-- Bits that a number needs. -/
def bitLen (n : Nat) : Nat := if n == 0 then 0 else n.log2 + 1

/-- m × 2^e shifted to the quantum 2^q: the whole part, and what was dropped as (half or more, exactly half, nonzero). -/
def toQuantum (m : Nat) (e q : Int) (sticky : Bool) : Nat × Bool × Bool × Bool :=
  if q ≤ e then (m <<< (e - q).toNat, false, false, sticky)
  else
    let n := (q - e).toNat
    let w := m >>> n
    let r := m % 2 ^ n
    let h := 2 ^ (n - 1)
    (w, decide (h ≤ r), r == h && !sticky, sticky || r != 0)

/-- The rounding decision: the whole part w of a magnitude, and what was dropped (R75). -/
def roundUp (rm : Rm) (neg : Bool) (w : Nat) (half tie inexact : Bool) : Bool :=
  match rm with
  | .rne => half && (!tie || w % 2 == 1)
  | .rtz => false
  | .rdn => neg && inexact
  | .rup => !neg && inexact
  | .rna => half

/-- m × 2^e (m nonzero) rounded to a format's precision with unbounded exponent above and its subnormals below: the
new m, its exponent, and whether the rounding is inexact. -/
def Fmt.roundMag (f : Fmt) (rm : Rm) (neg : Bool) (m : Nat) (e : Int) (sticky : Bool) : Nat × Int × Bool :=
  let q := max (e + bitLen m - 1 - f.mb) (1 - f.bias - f.mb)
  let (w, half, tie, inexact) := toQuantum m e q sticky
  (if roundUp rm neg w half tie inexact then w + 1 else w, q, inexact)

/-- m × 2^e exceeds m' × 2^e'. -/
def magGt (m : Nat) (e : Int) (m' : Nat) (e' : Int) : Bool :=
  let q := min e e'
  decide (m' <<< (e' - q).toNat < m <<< (e - q).toNat)

/-- The magnitude bits of an in-range value that has the format's precision. -/
def Fmt.encodeMag (f : Fmt) (m : Nat) (q : Int) : Nat :=
  if m < 2 ^ f.mb then m
  else if m == 2 ^ (f.mb + 1) then ((q + 1 + f.bias + f.mb).toNat) <<< f.mb
  else ((q + f.bias + f.mb).toNat) <<< f.mb ||| (m - 2 ^ f.mb)

/-- The infinity or the largest finite value that an overflow gives by the mode (IEEE 754, R163). -/
def Fmt.overflow (f : Fmt) (rm : Rm) (neg : Bool) : Nat :=
  let toInf := match rm with
    | .rne => true
    | .rna => true
    | .rtz => false
    | .rdn => neg
    | .rup => !neg
  if toInf then f.infBits neg else f.sign neg f.maxBits

/-- A finite value rounded to a format that has infinities (R161): underflow after rounding, flush to zero (R77). -/
def Fmt.roundFin (f : Fmt) (rm : Rm) (fz : Bool) (neg : Bool) (m : Nat) (e : Int) (sticky : Bool) : Nat × Flags :=
  if m == 0 && !sticky then (f.sign neg 0, 0)
  else
    let m1 := if sticky then 2 * m + 1 else m
    let e1 := if sticky then e - 1 else e
    let (w, q, inexact) := f.roundMag rm neg m1 e1 sticky
    let (mm, me) := f.maxVal
    if magGt w q mm me then (f.overflow rm neg, fOF ||| fNX)
    else
      let tiny := decide (w < 2 ^ f.mb)
      if fz && tiny && (w != 0 || inexact) then (f.sign neg 0, fUF ||| fNX)
      else (f.sign neg (f.encodeMag w q), fIf inexact fNX ||| fIf (inexact && tiny) fUF)

/-- A value rounded to a format that has infinities and NaNs. -/
def Fmt.round (f : Fmt) (rm : Rm) (fz : Bool) (v : FVal) : Nat × Flags :=
  match v with
  | .nan _ => (f.qnan, 0)
  | .inf n => (f.infBits n, 0)
  | .fin n m e => f.roundFin rm fz n m e false

/-- DZ: a subnormal operand reads as zero of its sign (R77). -/
def Fmt.daz (f : Fmt) (dz : Bool) (v : FVal) : FVal :=
  match v with
  | .fin n m e => if dz && decide (m < 2 ^ f.mb) && e == 1 - f.bias - f.mb then .fin n 0 e else v
  | _ => v

/-- NV for a signalling NaN. -/
def FVal.sigF : FVal → Flags
  | .nan true => fNV
  | _ => 0

def FVal.isNan : FVal → Bool
  | .nan _ => true
  | _ => false

def FVal.neg : FVal → FVal
  | .nan s => .nan s
  | .inf n => .inf !n
  | .fin n m e => .fin (!n) m e

/-- The sign bit of a value. -/
def FVal.sign : FVal → Bool
  | .nan _ => false
  | .inf n => n
  | .fin n _ _ => n

/-- A finite value as a signed multiple of 2^q, exact when q is at most its exponent. -/
def signedAt (n : Bool) (m : Nat) (e q : Int) : Int :=
  let w : Int := m <<< (e - q).toNat
  if n then -w else w

/-- The exact sum of two finite values; an exact zero takes the sign of R161. -/
def addFin (rm : Rm) (n1 : Bool) (m1 : Nat) (e1 : Int) (n2 : Bool) (m2 : Nat) (e2 : Int) : FVal :=
  let q := min e1 e2
  let s := signedAt n1 m1 e1 q + signedAt n2 m2 e2 q
  if s == 0 then .fin (if m1 == 0 && m2 == 0 && n1 == n2 then n1 else rm == .rdn) 0 q
  else .fin (decide (s < 0)) s.natAbs q

/-- The exact sum of two values, before rounding, with NV as R163 states. -/
def FVal.add (rm : Rm) (a b : FVal) : FVal × Flags :=
  let sg := a.sigF ||| b.sigF
  match a, b with
  | .nan _, _ => (.nan false, sg)
  | _, .nan _ => (.nan false, sg)
  | .inf n, .inf n' => if n == n' then (.inf n, 0) else (.nan false, fNV)
  | .inf n, .fin _ _ _ => (.inf n, 0)
  | .fin _ _ _, .inf n => (.inf n, 0)
  | .fin n1 m1 e1, .fin n2 m2 e2 => (addFin rm n1 m1 e1 n2 m2 e2, 0)

/-- The exact product of two values, with NV as R163 states. -/
def FVal.mul (a b : FVal) : FVal × Flags :=
  let sg := a.sigF ||| b.sigF
  match a, b with
  | .nan _, _ => (.nan false, sg)
  | _, .nan _ => (.nan false, sg)
  | .inf n, .inf n' => (.inf (n != n'), 0)
  | .inf n, .fin n' m _ => if m == 0 then (.nan false, fNV) else (.inf (n != n'), 0)
  | .fin n' m _, .inf n => if m == 0 then (.nan false, fNV) else (.inf (n != n'), 0)
  | .fin n1 m1 e1, .fin n2 m2 e2 => (.fin (n1 != n2) (m1 * m2) (e1 + e2), 0)

/-- The exact a × b + c of a fused multiply-add (R164). -/
def FVal.fma (rm : Rm) (a b c : FVal) (negp nega : Bool) : FVal × Flags :=
  let (p, f) := a.mul b
  let p := if negp then p.neg else p
  let c := if nega then c.neg else c
  let (r, g) := p.add rm c
  (r, f ||| g)

/-- The order of two finite or infinite values: a < b (R159). -/
def FVal.lt (a b : FVal) : Bool :=
  match a, b with
  | .nan _, _ => false
  | _, .nan _ => false
  | .inf n, .inf n' => n && !n'
  | .inf n, .fin _ _ _ => n
  | .fin _ _ _, .inf n => !n
  | .fin n1 m1 e1, .fin n2 m2 e2 =>
    let q := min e1 e2
    decide (signedAt n1 m1 e1 q < signedAt n2 m2 e2 q)

/-- Equality of two values; +0 equals −0 (R159). -/
def FVal.eqv (a b : FVal) : Bool := !a.isNan && !b.isNan && !a.lt b && !b.lt a

/-- The four comparisons of R159 and R241: EQ 0, LT 1, LE 2, UN 3, with NV. -/
def fcmpCond (cond : Nat) (a b : FVal) : Bool × Flags :=
  let anyNan := a.isNan || b.isNan
  let sg := a.sigF ||| b.sigF
  match cond with
  | 0 => (a.eqv b, sg)
  | 1 => (a.lt b, fIf anyNan fNV)
  | 2 => (!anyNan && !b.lt a, fIf anyNan fNV)
  | _ => (anyNan, sg)

/-- a comes before b in the order of R165, where −0 lies below +0. -/
def FVal.ltZ (a b : FVal) : Bool :=
  match a, b with
  | .fin n1 0 _, .fin n2 0 _ => n1 && !n2
  | _, _ => a.lt b

/-- FMIN and FMAX on element bits already read under DZ (R165): the bits of the operand chosen. -/
def fminmax (f : Fmt) (isMax : Bool) (a b : Nat) : Nat × Flags :=
  let va := f.decode a
  let vb := f.decode b
  let fl := va.sigF ||| vb.sigF
  if va.isNan && vb.isNan then (f.qnan, fl)
  else if va.isNan then (b, fl)
  else if vb.isNan then (a, fl)
  else if isMax then (if va.ltZ vb then b else a, fl)
  else (if vb.ltZ va then b else a, fl)

/-- The element bits that an operand reads as under DZ. -/
def Fmt.dazBits (f : Fmt) (dz : Bool) (b : Nat) : Nat :=
  if dz && (b >>> f.mb) % 2 ^ f.eb == 0 then f.sign (b.testBit (f.eb + f.mb)) 0 else b

/-- A finite value rounded to an integer: the integer, and whether the rounding is inexact. -/
def roundInt (rm : Rm) (neg : Bool) (m : Nat) (e : Int) (sticky : Bool) : Int × Bool :=
  let m1 := if sticky then 2 * m + 1 else m
  let e1 := if sticky then e - 1 else e
  let (w, half, tie, inexact) := toQuantum m1 e1 0 sticky
  let w := if roundUp rm neg w half tie inexact then w + 1 else w
  (if neg then -(w : Int) else w, inexact)

/-- Conversion to an integer range (R167): the result and the flags. -/
def toIntRange (rm : Rm) (lo hi : Int) (v : FVal) : Int × Flags :=
  match v with
  | .nan _ => (0, fNV)
  | .inf n => (if n then lo else hi, fNV)
  | .fin n m e =>
    let (i, inexact) := roundInt rm n m e false
    if hi < i then (hi, fNV) else if i < lo then (lo, fNV) else (i, fIf inexact fNX)

/-- An integer as a value. -/
def FVal.ofInt (i : Int) : FVal := .fin (decide (i < 0)) i.natAbs 0

/-- Conversion to the narrow formats 4-10 (R78): element bits and flags. A value that
rounds past the largest one saturates (log entry 20). `sticky`
says that the exact source lies strictly beyond m × 2^e in magnitude, by less than one unit. -/
def narrowFin (code : Nat) (rm : Rm) (neg : Bool) (m : Nat) (e : Int) (sticky : Bool) : Nat × Flags :=
  if code == 9 || code == 10 then
    let hi : Int := if code == 9 then 127 else 7
    let (i, inexact) := roundInt rm neg m e sticky
    let w := if code == 9 then 8 else 4
    if hi < i then ((hi.toNat), fNV)
    else if i < -hi - 1 then ((BitVec.ofInt w (-hi - 1)).toNat, fNV)
    else ((BitVec.ofInt w i).toNat, fIf inexact fNX)
  else
    let f := fmtOf code
    match f.kind with
    | .ieee => f.roundFin rm false neg m e sticky
    | _ =>
      if m == 0 && !sticky then (f.sign neg 0, 0)
      else
        let (w, q, _) := f.roundMag rm neg (if sticky then 2 * m + 1 else m) (if sticky then e - 1 else e) sticky
        let (mm, me) := f.maxVal
        if magGt w q mm me then (f.sign neg f.maxBits, fOF ||| fNX) else f.roundFin rm false neg m e sticky

/-- Conversion of any value to formats 4-10 (R78). -/
def narrow (code : Nat) (rm : Rm) (v : FVal) : Nat × Flags :=
  let f := fmtOf code
  match v with
  | .fin n m e => narrowFin code rm n m e false
  | .inf n =>
    if code == 9 then (if n then 0x80 else 0x7F, fNV)
    else if code == 10 then (if n then 8 else 7, fNV)
    else if f.kind == .ieee then (f.infBits n, 0)
    else (f.sign n f.maxBits, fOF)
  | .nan sig =>
    if code == 9 || code == 10 then (0, fNV)
    else if f.kind == .ieee then (f.qnan, fIf sig fNV)
    else if f.kind == .e4m3 then (f.qnan, fNV)
    else (0, fNV)

/-! ## Stochastic rounding -/

/-- Stochastic rounding of a magnitude to the quantum 2^q with the random word u (R79): the whole part, and whether the
result differs from the source. -/
def srQuantum (m : Nat) (e q : Int) (sticky : Bool) (u : Nat) : Nat × Bool :=
  if q ≤ e then (m <<< (e - q).toNat, false)
  else
    let n := (q - e).toNat
    let w := m >>> n
    let r := m % 2 ^ n
    if r == 0 && !sticky then (w, false)
    else (if u < (r * 2 ^ 32) >>> n then w + 1 else w, true)

/-- Stochastic conversion of a finite value to destinations 1-10 (R79). A value that saturates in I8 or I4 raises NV alone, as R78 has it,
and no NX beside it, which R79's next sentence could be read to ask for (DESIGN CHOICE, notes/assumptions/35.md). -/
def srFin (code : Nat) (u : Nat) (neg : Bool) (m : Nat) (e : Int) (sticky : Bool) : Nat × Flags :=
  if code == 9 || code == 10 then
    let hi : Int := if code == 9 then 127 else 7
    let w := if code == 9 then 8 else 4
    let (a, inexact) := srQuantum m e 0 sticky u
    let i : Int := if neg then -(a : Int) else a
    let x := signedAt false m e (min e 0)
    let lim : Int := (if neg then hi + 1 else hi) * 2 ^ ((0 - min e 0).toNat)
    if lim < x || (lim == x && sticky) then ((BitVec.ofInt w (if neg then -hi - 1 else hi)).toNat, fNV)
    else ((BitVec.ofInt w i).toNat, fIf inexact fNX ||| fIf (inexact && a == 0) fUF)
  else
    let f := fmtOf code
    let (mm, me) := f.maxVal
    let q0 := min e me
    let x := m <<< (e - q0).toNat
    let y := mm <<< (me - q0).toNat
    if decide (y < x) || (sticky && x == y) then
      (if code ≤ 3 then f.infBits neg else f.sign neg f.maxBits, fOF ||| fNX)
    else if m == 0 && !sticky then (f.sign neg 0, 0)
    else
      let q := max (e + bitLen m - 1 - f.mb) (1 - f.bias - f.mb)
      let (w, inexact) := srQuantum m e q sticky u
      (f.sign neg (f.encodeMag w q), fIf inexact fNX ||| fIf (inexact && decide (w < 2 ^ f.mb)) fUF)

/-- Stochastic conversion of any value to destinations 1-10 (R79). -/
def srConv (code : Nat) (u : Nat) (v : FVal) : Nat × Flags :=
  match v with
  | .fin n m e => srFin code u n m e false
  | .inf n => if code ≤ 3 then ((fmtOf code).infBits n, 0) else narrow code .rne v
  | .nan sig => if code ≤ 3 then ((fmtOf code).qnan, fIf sig fNV) else narrow code .rne v

/-! ## Elements and scales -/

/-- The two's-complement value of the low `w` bits. -/
def signedOf (w b : Nat) : Int := (BitVec.ofNat w b).toInt

/-- The exact value of an element's stored bits without scales (R66, R69). F32 and E8M10 come as 32-bit containers. -/
def elemVal (code b : Nat) : FVal :=
  match code with
  | 1 => e8m10.decode (b >>> 13)
  | 9 => .ofInt (signedOf 8 b)
  | 10 => .ofInt (signedOf 4 b)
  | _ => (fmtOf code).decode b

/-- An E8M0 scale (R71): none for NaN, else the exponent. -/
def e8m0 (s : Nat) : Option Int := if s == 255 then none else some (s - 127)

/-- An E3M5 microscale (R72) as m × 2^e. -/
def e3m5 (s : Nat) : Nat × Int :=
  let x := s / 32
  let f := s % 32
  if x == 0 then (f, -8) else (32 + f, (x : Int) - 9)

/-- The exact value of a block-scaled element (R73, R74): code, scale byte, band bits. A NaN scale, and a NaN or
infinite band, make it a NaN. -/
def scaledVal (code b scale band : Nat) : FVal :=
  let v := (fmtOf code).decode b
  if code == 15 then
    match bf16.decode band, v with
    | .fin n m e, .fin n' m' e' =>
      let (sm, se) := e3m5 scale
      .fin (n != n') (m * m' * sm) (e + e' + se)
    | _, _ => .nan false
  else match e8m0 scale, v with
    | none, _ => .nan false
    | some k, .fin n m e => .fin n m (e + k)
    | some _, w => w

/-- An exact value as an F32 pattern with its flags, in a rounding mode (R209). -/
def toF32 (rm : Rm) (v : FVal) : W32 × Flags :=
  let (b, f) := f32.round rm false v
  (BitVec.ofNat 32 b, f)

/-- Clamp to 32 bits; IS on a clamp. -/
def sat32 (i : Int) : W32 × Flags :=
  if 2 ^ 31 - 1 < i then (0x7FFFFFFF, fIS) else if i < -2 ^ 31 then (0x80000000, fIS) else (BitVec.ofInt 32 i, 0)

/-- The exact sum of a set of values with NV (R249): a NaN gives a NaN, with NV when one signals; otherwise IEEE
addition, whose order never matters (log entry 24). -/
def sumSet (rm : Rm) (vs : List FVal) : FVal × Flags :=
  if vs.any FVal.isNan then (.nan false, vs.foldl (fun f v => f ||| v.sigF) 0)
  else match vs with
    | [] => (.fin false 0 0, 0)
    | v :: rest => rest.foldl (fun a x => ((a.1.add rm x).1, a.2 ||| (a.1.add rm x).2)) (v, 0)

/-! ## ZCG-10 (R252) -/

/-- One round of ZCG-10. -/
def zcgRound (k0 k1 : W32) (s : W32 × W32 × W32 × W32) (j ra rb rk rk' : Nat) : W32 × W32 × W32 × W32 :=
  let (x0, x1, x2, x3) := s
  let jj : W32 := BitVec.ofNat 32 (j + 1)
  let a := k0.rotateLeft rk + jj * 0xA4D31C6B
  let b := k1.rotateLeft rk' ^^^ (jj * 0x5E8F2D17)
  let x1 := x1 + (x0 ^^^ a).rotateLeft ra
  let x2 := x2 ^^^ (x1 + x3)
  let x3 := x3 + (x2 ^^^ b).rotateLeft rb
  let x0 := x0 ^^^ (x3 + x1)
  (x0, x1, x2, x3)

/-- The rotation amounts RA, RB and RK of the ten rounds, with RK taken backwards for the second key. -/
def zcgTable : List (Nat × Nat × Nat × Nat × Nat) :=
  [(0, 7, 13, 0, 13), (1, 19, 2, 5, 8), (2, 11, 21, 10, 3), (3, 25, 8, 15, 30), (4, 3, 27, 20, 25),
   (5, 14, 16, 25, 20), (6, 22, 6, 30, 15), (7, 9, 24, 3, 10), (8, 17, 10, 8, 5), (9, 5, 18, 13, 0)]

/-- The block of ZCG-10: its four words for a key, a stream and a 96-bit index (R252). -/
def zcgBlock (key : W64) (stream : W32) (idx : BitVec 96) : W32 × W32 × W32 × W32 :=
  let k0 := key.setWidth 32
  let k1 := (key >>> 32).setWidth 32
  let s0 : W32 × W32 × W32 × W32 :=
    (idx.setWidth 32, (idx >>> 32).setWidth 32, (idx >>> 64).setWidth 32, stream)
  let (x0, x1, x2, x3) := zcgTable.foldl (fun s t => zcgRound k0 k1 s t.1 t.2.1 t.2.2.1 t.2.2.2.1 t.2.2.2.2) s0
  (x0 + x2 + k1, x1 ^^^ k0, x2 + (k0 ^^^ k1).rotateLeft 11, x3 ^^^ 0x71C9E4A3)

/-- Words 0 and 1 of a block, all that instructions use (R254). -/
def zcg (key : W64) (stream : W32) (idx : BitVec 96) : W32 × W32 :=
  let b := zcgBlock key stream idx
  (b.1, b.2.1)

/-! ## The long accumulator (R83-R86) -/

/-- A long accumulator: L and the status bits. -/
structure LongAcc where
  l : BitVec 320
  nan : Bool
  pinf : Bool
  ninf : Bool
  nz : Bool
  ne : Bool
  ovf : Bool
  ovfNeg : Bool
deriving DecidableEq, Repr, Inhabited

/-- The empty accumulator (R83). -/
def LongAcc.empty : LongAcc := ⟨0, false, false, false, true, false, false, false⟩

/-- Add an exact integer to L under the overflow rule (R84). -/
def LongAcc.addInt (a : LongAcc) (i : Int) : LongAcc :=
  let s := a.l.toInt + i
  let out := decide (s < -(2 ^ 319)) || decide (2 ^ 319 ≤ s)
  { a with l := BitVec.ofInt 320 s, ovf := a.ovf || out, ovfNeg := if a.ovf || !out then a.ovfNeg else decide (s < 0) }

/-- Add an F32 pattern (R84). -/
def LongAcc.addF32 (a : LongAcc) (b : W32) : LongAcc :=
  let a := { a with ne := true, nz := a.nz && b == 0x80000000 }
  match f32.decode b.toNat with
  | .nan _ => { a with nan := true }
  | .inf n => if n then { a with ninf := true } else { a with pinf := true }
  | .fin n m e => a.addInt (signedAt n m e (-149))

/-- Add a stored accumulator (R84). -/
def LongAcc.addAcc (a b : LongAcc) : LongAcc :=
  if b.ne then
    let r := ({ a with
      ne := true, nan := a.nan || b.nan, pinf := a.pinf || b.pinf, ninf := a.ninf || b.ninf,
      nz := a.nz && b.nz } : LongAcc).addInt b.l.toInt
    if b.ovf && !r.ovf then { r with ovf := true, ovfNeg := b.ovfNeg } else r
  else a

/-- Read an accumulator out as an F32 pattern (R85). -/
def LongAcc.readout (a : LongAcc) : W32 × Flags :=
  if a.nan || (a.pinf && a.ninf) then (0x7FC00000, fIf (a.pinf && a.ninf) fNV)
  else if a.pinf then (0x7F800000, 0)
  else if a.ninf then (0xFF800000, 0)
  else if a.ovf then (if a.ovfNeg then 0xFF800000 else 0x7F800000, fOF ||| fNX)
  else if a.l == 0 then (if a.ne && a.nz then 0x80000000 else 0, 0)
  else toF32 .rne (.fin (decide (a.l.toInt < 0)) a.l.toInt.natAbs (-149))

/-- The stored form (R86), as a number of 48 bytes. -/
def LongAcc.toNat (a : LongAcc) : Nat :=
  let bit (b : Bool) (n : Nat) : Nat := cond b (2 ^ n) 0
  a.l.toNat + (bit a.nan 0 + bit a.pinf 1 + bit a.ninf 2 + bit a.nz 3 + bit a.ne 4 + bit a.ovf 5 + bit a.ovfNeg 6) * 2 ^ 320

/-- Read the stored form (R86). -/
def LongAcc.ofNat (n : Nat) : LongAcc :=
  let s := n >>> 320
  ⟨BitVec.ofNat 320 n, s.testBit 0, s.testBit 1, s.testBit 2, s.testBit 3, s.testBit 4, s.testBit 5, s.testBit 6⟩

end Sys2Proof.Machine
end

