-- ==== Sys2Proof/Machine/Memory.lean ====
section
/-!
DEFINITION. Machine/Memory.lean: bytes by address, the places of the package's memory, the update regions that an access
applies first (R122, R346, R360-R362), the address windows (R97, R98), the page tables (R263, R264), and the one way an
address becomes a place (R105, R261-R265).
-/

namespace Sys2Proof.Machine

/-! ## Cells -/

/-- The byte at an address; an address that is not listed reads as zero (R424 step 4; log entry 4). -/
def Cells.get : Cells → Nat → Byte
  | [], _ => 0
  | (k, b) :: cs, a => if a == k then b else if a < k then 0 else Cells.get cs a

/-- Write one byte and keep the canonical form. -/
def Cells.set : Cells → Nat → Byte → Cells
  | [], a, v => if v == 0 then [] else [(a, v)]
  | (k, b) :: cs, a, v =>
    if a < k then (if v == 0 then (k, b) :: cs else (a, v) :: (k, b) :: cs)
    else if a == k then (if v == 0 then cs else (a, v) :: cs)
    else (k, b) :: Cells.set cs a v

/-- Addresses rise strictly from `lo` on, and no listed byte is zero. -/
def Cells.wfFrom : Nat → Cells → Bool
  | _, [] => true
  | lo, (k, b) :: cs => decide (lo ≤ k) && b != 0 && Cells.wfFrom (k + 1) cs

/-- The canonical form of memory. -/
def Cells.wf (c : Cells) : Bool := Cells.wfFrom 0 c

/-- `n` bytes from an address as a little-endian number (R3). -/
def Cells.rd (c : Cells) (a : Nat) : Nat → Nat
  | 0 => 0
  | n + 1 => (c.get a).toNat + 256 * Cells.rd c (a + 1) n

/-- Write the low `n` bytes of a number, little-endian (R3). -/
def Cells.wr (c : Cells) (a : Nat) : Nat → Nat → Cells
  | 0, _ => c
  | n + 1, v => (c.set a (BitVec.ofNat 8 v)).wr (a + 1) n (v / 256)

/-- `n` bytes from an address. -/
def Cells.bytes (c : Cells) (a n : Nat) : List Byte := (List.range n).map fun i => c.get (a + i)

/-- Write bytes from an address on. -/
def Cells.put (c : Cells) (a : Nat) : List Byte → Cells
  | [] => c
  | b :: bs => (c.set a b).put (a + 1) bs

/-! ## Places: one number for every byte the package can reach (log entry 5) -/

/-- The place of a scratchpad byte. -/
def spKey (core off : Nat) : Nat := 2 ^ 62 + core * 2 ^ 22 + off

/-- The place of a byte of a peer package's memory (R262). -/
def peerKey (pkg pa : Nat) : Nat := (1 + pkg) * 2 ^ 52 + pa

/-- The place of a byte of a peer package's scratchpads (R98): PKG, DIE, CORE and OFFSET as the address holds them. -/
def peerSpKey (addr : Nat) : Nat := 2 ^ 61 + addr % 2 ^ 40

/-- A place in one of the package's own scratchpads. -/
def isSp (key : Nat) : Bool := decide (2 ^ 62 ≤ key)

/-- The core of a scratchpad place. -/
def spCore (key : Nat) : Nat := (key - 2 ^ 62) / 2 ^ 22

/-- The offset of a scratchpad place. -/
def spOff (key : Nat) : Nat := key % 2 ^ 22

/-- The core with a logical number. -/
def Mach.core (m : Mach) (n : Nat) : Core := vget m.cores n (Core.init 0)

/-- The machine with one core replaced. -/
def Mach.setCore (m : Mach) (n : Nat) (c : Core) : Mach := { m with cores := vset m.cores n c }

/-- The engine of a name. -/
def Mach.engine (m : Mach) (e : EngineId) : Engine := vget m.engines (engineIndex e) Engine.init

/-- The machine with one engine replaced. -/
def Mach.setEngine (m : Mach) (e : EngineId) (g : Engine) : Mach :=
  { m with engines := vset m.engines (engineIndex e) g }

/-- One byte, at its home (R102). -/
def Mach.get (m : Mach) (key : Nat) : Byte :=
  if isSp key then (m.core (spCore key)).sp.get (spOff key) else m.mem.get key

/-- Note the 64 KiB page of a near-tier write (R421). -/
def Mach.noteDirty (m : Mach) (key : Nat) : Mach :=
  let pg := key / 2 ^ 16
  if decide (key < 8 * 2 ^ 48) && !m.dirty.contains (pg, m.ckptNo) then
    { m with dirty := (pg, m.ckptNo) :: m.dirty.filter fun d => d.1 != pg }
  else m

/-- Write one byte at its home. -/
def Mach.set (m : Mach) (key : Nat) (b : Byte) : Mach :=
  if isSp key then
    let c := m.core (spCore key)
    m.setCore (spCore key) { c with sp := c.sp.set (spOff key) b }
  else ({ m with mem := m.mem.set key b }).noteDirty key

/-- `n` bytes from a place on. -/
def Mach.rd (m : Mach) (key : Nat) : Nat → Nat
  | 0 => 0
  | n + 1 => (m.get key).toNat + 256 * m.rd (key + 1) n

/-- Write `n` bytes from a place on. -/
def Mach.wr (m : Mach) (key : Nat) : Nat → Nat → Mach
  | 0, _ => m
  | n + 1, v => (m.set key (BitVec.ofNat 8 v)).wr (key + 1) n (v / 256)

/-! ## Update regions -/

/-- Bytes of an element under an operator (R345). -/
def updBytes (op : Nat) : Nat := if op == 2 || op == 12 then 8 else 4

/-- Shadow bytes of an element (R345). -/
def updShadow (op : Nat) : Nat := if op == 4 then 48 else if op == 13 then 8 else 0

/-- The element types that UPD may carry for an operator (R345): 0 F32, 1 I32, 4 I64. -/
def updFmts (op : Nat) : List Nat :=
  match op with
  | 2 => [4]
  | 3 => [0]
  | 4 => [0]
  | 7 => [0]
  | 8 => [0]
  | 12 => [0, 1, 4]
  | 13 => [0, 1]
  | _ => [1]

/-- The near-tier die of a place that is near-tier memory. -/
def nearDie (key : Nat) : Option Nat := if key < 8 * 2 ^ 48 then some (key / 2 ^ 48) else none

/-- The region that holds a place (R345). -/
def Mach.regionAt (m : Mach) (key : Nat) : Option (Nat × Region) :=
  match nearDie key with
  | none => none
  | some nd =>
    match (vget m.basins nd []).find? fun r => decide (r.base ≤ key) && decide (key < r.base + r.len) with
    | none => none
    | some r => some (nd, r)

/-- The machine with a region replaced. -/
def Mach.setRegion (m : Mach) (nd : Nat) (r : Region) : Mach :=
  { m with basins := vset m.basins nd ((vget m.basins nd []).map fun x => if x.rid == r.rid then r else x) }

/-- Canonical order of records (R358). -/
def UpdRec.le (a b : UpdRec) : Bool :=
  if a.off != b.off then decide (a.off < b.off)
  else if a.ord != b.ord then decide (a.ord.toNat < b.ord.toNat)
  else decide (a.val.toNat ≤ b.val.toNat)

/-- Insert a record in canonical order. -/
def insertRec (x : UpdRec) : List UpdRec → List UpdRec
  | [] => [x]
  | y :: ys => if x.le y then x :: y :: ys else y :: insertRec x ys

/-- Records in canonical order. -/
def sortRecs (l : List UpdRec) : List UpdRec := l.foldr insertRec []

/-- Signed minimum or maximum of 32-bit patterns. -/
def smin32 (isMax : Bool) (a b : W32) : W32 := if isMax then (if a.slt b then b else a) else (if b.slt a then b else a)

/-- The new value of an element without a shadow (R346). -/
def updValue (op : Nat) (z : Nat) (x : W64) : Nat :=
  let z32 : W32 := BitVec.ofNat 32 z
  let x32 : W32 := x.setWidth 32
  match op with
  | 1 => (z32 + x32).toNat
  | 2 => (BitVec.ofNat 64 z + x).toNat
  | 3 => (f32.round .rne false ((f32.decode z32.toNat).add .rne (f32.decode x32.toNat)).1).1
  | 5 => (smin32 false z32 x32).toNat
  | 6 => (smin32 true z32 x32).toNat
  | 7 => (fminmax f32 false z32.toNat x32.toNat).1
  | 8 => (fminmax f32 true z32.toNat x32.toNat).1
  | 9 => (z32 ||| x32).toNat
  | 10 => (z32 &&& x32).toNat
  | 11 => (z32 ^^^ x32).toNat
  | 12 => (BitVec.ofNat 64 z + 1).toNat
  | _ => z

/-- Apply one triple to its element (R346). -/
def Mach.applyRec (m : Mach) (r : Region) (t : UpdRec) : Mach :=
  let n := updBytes r.op
  let key := r.base + t.off
  let sh := r.shadow + t.off / 4 * updShadow r.op
  if r.op == 4 then
    let acc := (LongAcc.ofNat (m.rd sh 48)).addF32 (t.val.setWidth 32)
    (m.wr sh 48 acc.toNat).wr key 4 acc.readout.1.toNat
  else if r.op == 13 then
    let s := m.rd sh 8
    let os := s % 2 ^ 32
    let x := t.val.toNat % 2 ^ 32
    let z := m.rd key 4
    let newer := decide (os < t.ord.toNat) || (os == t.ord.toNat && decide (z < x))
    if !s.testBit 32 || newer then (m.wr key 4 x).wr sh 8 (t.ord.toNat + 2 ^ 32) else m
  else m.wr key n (updValue r.op (m.rd key n) t.val)

/-- OR bits into a region's STATUS at its descriptor (R364). -/
def Mach.orStatus (m : Mach) (r : Region) (bits : Nat) : Mach :=
  let key := r.descAt + 0x38
  m.wr key 8 (m.rd key 8 ||| bits)

/-- The record belongs to a granule. -/
def UpdRec.inGranule (g : Nat) (t : UpdRec) : Bool := t.off / 4096 == g

/-- A region without the pending records of a granule; a run that is left empty is freed. -/
def Region.dropGranule (r : Region) (g : Nat) : Region :=
  { r with
    pend := r.pend.filter fun t => !t.inGranule g
    runs := (r.runs.map fun run => run.filter fun t => !t.inGranule g).filter fun run => !run.isEmpty
    sweep := r.sweep.filter fun x => x != g }

/-- The pending records of a granule, from SRAM and runs (R361). -/
def Region.granuleRecs (r : Region) (g : Nat) : List UpdRec :=
  (r.pend ++ r.runs.flatten).filter fun t => t.inGranule g

/-- Bytes of the granule table, rounded up to 64 KiB (R357). -/
def Region.tableBytes (r : Region) : Nat := (r.len / 4096 * 8 + 0xFFFF) / 0x10000 * 0x10000

/-- Bytes in use by runs (R357). -/
def Region.spillUsed (r : Region) : Nat := (r.runs.map fun run => 64 + 24 * run.length).sum

/-- A record in its stored form (R358). -/
def UpdRec.stored (t : UpdRec) : Nat := t.off + t.ord.toNat * 2 ^ 64 + (cond t.wide 1 0) * 2 ^ 96 + t.val.toNat * 2 ^ 128

/-- Byte `i` of a region's spill space: the spill area after its table, then the extension (R359). -/
def Region.spillKey (r : Region) (i : Nat) : Nat :=
  let own := r.spLen - r.tableBytes
  if i < own then r.spill + r.tableBytes + i else r.xspill + (i - own)

/-- Write `n` words of 8 bytes from byte `i` of a region's spill space on, which may go on in the extension (R359). -/
def Mach.wrSpill (m : Mach) (r : Region) (i v : Nat) : Nat → Mach
  | 0 => m
  | n + 1 => (m.wr (r.spillKey i) 8 (v % 2 ^ 64)).wrSpill r (i + 8) (v / 2 ^ 64) n

/-- Write records one after the other. -/
def Mach.wrRecs (m : Mach) (r : Region) (i : Nat) : List UpdRec → Mach
  | [] => m
  | t :: ts => (m.wrSpill r i t.stored 3).wrRecs r (i + 24) ts

/-- Lay the runs out one after the other (R357, R358; log entry 14). -/
def Mach.layRuns (m : Mach) (r : Region) : Nat → List (List UpdRec) → Mach
  | _, [] => m
  | at0, run :: runs =>
    ((m.wrSpill r at0 run.length 8).wrRecs r (at0 + 64) run).layRuns r (at0 + 64 + 24 * run.length) runs

/-- Apply a granule (R361): ADD.F32O in canonical order, normal triples before late ones; the watermark; LATE. -/
def Mach.applyGranule (m : Mach) (nd : Nat) (r : Region) (g : Nat) : Mach :=
  let snap := sortRecs (r.granuleRecs g)
  let at0 := r.spill + 8 * g
  let e := m.rd at0 8
  let w := e % 2 ^ 32
  let late := if r.op == 3 && e.testBit 32 then snap.filter fun t => decide (t.ord.toNat ≤ w) else []
  let nrm := if r.op == 3 && e.testBit 32 then snap.filter fun t => decide (w < t.ord.toNat) else snap
  let m := (nrm ++ late).foldl (fun m t => m.applyRec r t) m
  let w' := snap.foldl (fun a t => max a t.ord.toNat) w
  let m := m.wr at0 8 (w' + 2 ^ 32)
  let m := if late.isEmpty then m else m.orStatus r 1
  let r' := { r.dropGranule g with retries := r.retries + (cond snap.isEmpty 0 1) }
  let m := m.setRegion nd r'
  if r.runs == r'.runs then m else m.layRuns r' 0 r'.runs

/-- Granules of a region that have pending triples, in ascending address. -/
def Region.pendingGranules (r : Region) : List Nat :=
  (List.range (r.len / 4096)).filter fun g => (r.pend ++ r.runs.flatten).any fun t => t.inGranule g

/-- An access reaches the granule of a place: its pending triples are applied first, and the first such access starts the
sweep of the region's other granules (R360). -/
def Mach.touch (m : Mach) (key : Nat) : Mach :=
  match m.regionAt key with
  | none => m
  | some (nd, r) =>
    let m := m.applyGranule nd r ((key - r.base) / 4096)
    match m.regionAt key with
    | none => m
    | some (nd, r) => if r.sweep.isEmpty then m.setRegion nd { r with sweep := r.pendingGranules } else m

/-- A write to an element of a region with a shadow resets the shadow (R362). -/
def Mach.resetShadow (m : Mach) (key : Nat) : Mach :=
  match m.regionAt key with
  | none => m
  | some (_, r) =>
    let i := (key - r.base) / 4
    let sh := r.shadow + i * updShadow r.op
    if r.op == 4 then m.wr sh 48 (LongAcc.empty.addF32 (BitVec.ofNat 32 (m.rd (r.base + 4 * i) 4))).toNat
    else if r.op == 13 then m.wr sh 8 (m.rd sh 4)
    else m

/-- Touch the granules of the first and the last byte of an access. -/
def Mach.touchAll (m : Mach) (key n : Nat) : Mach :=
  if n == 0 then m
  else if key / 4096 == (key + n - 1) / 4096 then m.touch key else (m.touch key).touch (key + n - 1)

/-- Reset the shadow of every element that `n` bytes from a place on touch. -/
def Mach.resetShadows (m : Mach) (key n : Nat) : Mach :=
  (List.range ((key + n + 3) / 4 - key / 4)).foldl (fun m i => m.resetShadow (key / 4 * 4 + 4 * i)) m

/-- Bytes that an access covers, in pieces that lie together: place and length. -/
abbrev Parts := List (Nat × Nat)

/-- Read an access's bytes at its home, pending triples applied first (R122). -/
def Mach.readParts (m : Mach) : Parts → Mach × Nat
  | [] => (m, 0)
  | (k, n) :: ps =>
    let m := m.touchAll k n
    let (m', hi) := m.readParts ps
    (m', m.rd k n + 2 ^ (8 * n) * hi)

/-- Write an access's bytes at its home (R362). -/
def Mach.writeParts (m : Mach) (v : Nat) : Parts → Mach
  | [] => m
  | (k, n) :: ps => ((((m.touchAll k n).wr k n v).resetShadows k n)).writeParts (v / 2 ^ (8 * n)) ps

/-! ## Windows (R97, R98) -/

/-- The window code of an address (R97). The fields of window 2 must be valid as far as R98's reserved bits go. -/
def windowCode (a : W64) : Nat :=
  if a.toNat < 2 ^ 47 then 0
  else if a.toNat / 2 ^ 22 == 0xFF * 2 ^ 34 then 1
  else if a.toNat / 2 ^ 56 == 0xFE then 2
  else 3

/-- PKG of a global-scratchpad address. -/
def gPkg (a : W64) : Nat := a.toNat / 2 ^ 32 % 256

/-- DIE of a global-scratchpad address. -/
def gDie (a : W64) : Nat := a.toNat / 2 ^ 28 % 16

/-- CORE of a global-scratchpad address. -/
def gCore (a : W64) : Nat := a.toNat / 2 ^ 22 % 64

/-- OFFSET of a global-scratchpad address. -/
def gOff (a : W64) : Nat := a.toNat % 2 ^ 22

/-- The package's own fabric number as PKG fields name it (R98). -/
def Mach.ownPkg (m : Mach) : Nat := (m.pkgnum.getD 0).toNat

/-- PKG names the issuing package. -/
def Mach.pkgIsOwn (m : Mach) (p : Nat) : Bool := p == 0xFF || p == m.ownPkg

/-- A peer package is reached only through links that are lost (R413). -/
def Mach.pkgLost (m : Mach) (p : Nat) : Bool :=
  m.routes.any fun r => r.pkg == p && r.ports != 0 &&
    (List.range 13).all fun i => !r.ports.getLsbD i || (vget m.links i LinkPort.init).lost

/-- The checks of R98 that raise APERTURE. -/
def Mach.globalOk (m : Mach) (a : W64) : Bool :=
  let n := 40 * gDie a + gCore a
  a.toNat / 2 ^ 40 % 2 ^ 16 == 0 && decide (gDie a < 8) && decide (gCore a < 40) &&
    (m.pkgIsOwn (gPkg a) || m.routes.any fun r => r.pkg == gPkg a) &&
    (!m.pkgIsOwn (gPkg a) || (!m.absent.contains (gDie a) && (m.core n).phys.isSome))

/-- The window an address falls in, for APTST (R97, R100): an address with 0xFE whose fields R98 calls invalid is in no
window. -/
def Mach.window (m : Mach) (a : W64) : Nat :=
  if windowCode a == 2 && !m.globalOk a then 3 else windowCode a

/-- The partition owns a logical core (R385). -/
def Mach.partOwns (m : Mach) (part core : Nat) : Bool :=
  match (vget m.parts part Partition.init).conf with
  | some c => c.cores.testBit core
  | none => false

/-! ## Page tables (R263, R264) -/

/-- What a walk finds. -/
inductive WalkRes where
  | leaf (va size pa : Nat)
  | notPresent (level : Nat)
  | badFormat (level : Nat)
deriving DecidableEq, Repr

/-- The address an entry holds. -/
def pteAddr (e : Nat) : Nat := e / 2 ^ 8 % 2 ^ 44 * 2 ^ 8

/-- P of an entry. -/
def pteP (e : Nat) : Bool := e.testBit 0

/-- LEAF of an entry. -/
def pteLeaf (e : Nat) : Bool := e.testBit 1

/-- A reserved bit of an entry is set. -/
def pteRsv (e : Nat) : Bool := e / 2 ^ 52 != 0 || e / 4 % 64 != 0

/-- The home kinds that a class admits (R264); `none` stands for an access without a segment (R432). -/
def homeOk (cls : Option Nat) (home : Nat) : Bool :=
  match cls with
  | none => decide (home ≤ 11)
  | some 0 => decide (home ≤ 7)
  | some 1 => home == 8 || home == 9
  | some 2 => decide (home ≤ 9)
  | some 3 => home == 10 || home == 11
  | some _ => false

/-- A present non-leaf entry whose table is aligned to `align` bytes. -/
def tableOk (e align : Nat) : Bool :=
  !pteRsv e && !pteLeaf e && pteAddr e % align == 0 && decide (pteAddr e / 2 ^ 48 ≤ 9)

/-- A present leaf entry whose page has `size` bytes. -/
def leafOk (cls : Option Nat) (e size : Nat) : Bool :=
  !pteRsv e && pteAddr e % size == 0 && homeOk cls (pteAddr e / 2 ^ 48)

/-- The entry of a table. -/
def Mach.pte (m : Mach) (table i : Nat) : Nat := m.rd (table + 8 * i) 8

/-- A walk from the ASID's root (R263, R264). -/
def Mach.walk (m : Mach) (asid va : Nat) (cls : Option Nat) : WalkRes :=
  let r := (vget m.roots asid 0).toNat
  if !pteP r then .notPresent 4 else if !tableOk r 2048 then .badFormat 4
  else
    let e4 := m.pte (pteAddr r) (va / 2 ^ 39 % 256)
    if !pteP e4 then .notPresent 4 else if !tableOk e4 4096 then .badFormat 4
    else
      let e3 := m.pte (pteAddr e4) (va / 2 ^ 30 % 512)
      if !pteP e3 then .notPresent 3 else if !tableOk e3 4096 then .badFormat 3
      else
        let e2 := m.pte (pteAddr e3) (va / 2 ^ 21 % 512)
        if !pteP e2 then .notPresent 2
        else if pteLeaf e2 then
          if leafOk cls e2 (2 ^ 21) then .leaf (va / 2 ^ 21 * 2 ^ 21) (2 ^ 21) (pteAddr e2) else .badFormat 2
        else if !tableOk e2 256 then .badFormat 2
        else
          let e1 := m.pte (pteAddr e2) (va / 2 ^ 16 % 32)
          if !pteP e1 then .notPresent 1
          else if leafOk cls e1 (2 ^ 16) then .leaf (va / 2 ^ 16 * 2 ^ 16) (2 ^ 16) (pteAddr e1)
          else .badFormat 1

/-! ## TLBs (R265; log entry 12) -/

/-- An entry maps an address of an ASID. -/
def TlbEntry.maps (t : TlbEntry) (asid va : Nat) : Bool :=
  t.asid == asid && decide (t.va ≤ va) && decide (va < t.va + t.size)

/-- Put an entry first, as the most recently used, in a TLB of `n` entries. -/
def tlbInstall (n : Nat) (t : TlbEntry) (l : List TlbEntry) : List TlbEntry :=
  (t :: l.filter fun x => !(x.asid == t.asid && x.va == t.va && x.size == t.size)).take n

/-- The set of the second-level TLB that holds an entry (R265; which pages share a set is log entry 12). -/
def TlbEntry.set2 (t : TlbEntry) : Nat := t.va / max t.size 1 % 2048

/-- Install an entry in a second-level TLB: 8 ways of 2,048 sets, the least recently used of a full set replaced (R265). -/
def tlb2Install (t : TlbEntry) (l : List TlbEntry) : List TlbEntry :=
  let others := l.filter fun x => !(x.asid == t.asid && x.va == t.va && x.size == t.size)
  let mine := (others.filter fun x => x.set2 == t.set2).take 7
  t :: (mine ++ others.filter fun x => x.set2 != t.set2)

/-- Install an entry in an engine's first-level TLB. -/
def Mach.tlbPut (m : Mach) (e : EngineId) (t : TlbEntry) : Mach :=
  let g := m.engine e
  m.setEngine e { g with tlb := tlbInstall 128 t g.tlb }

/-- The engines of one die, as places among the 416 (R17). -/
def dieEngines (die : Nat) : List Nat :=
  if die < 8 then (List.range 40).map (fun i => 40 * die + i) ++ (List.range 8).map fun i => 320 + 8 * die + i
  else (List.range 16).map fun i => 384 + 16 * (die - 8) + i

/-- The other engines of an engine's die in the order in which its probe ring passes them (R265; log entry 12). -/
def probeRing (e : EngineId) : List Nat :=
  let l := dieEngines (engineDie e)
  let i := engineLocal e
  l.drop (i + 1) ++ l.take i

/-- An entry for an address that a first-level TLB holds. -/
def Mach.tlbAt (m : Mach) (i asid va : Nat) : Option TlbEntry := (vget m.engines i Engine.init).tlb.find? (·.maps asid va)

/-- The translation the TLBs hold: the engine's own, then those of the die's other engines, then the second level
(R265). -/
def Mach.tlbFind (m : Mach) (e : EngineId) (asid va : Nat) : Option TlbEntry :=
  match m.tlbAt (engineIndex e) asid va with
  | some t => some t
  | none =>
    match (probeRing e).findSome? fun i => m.tlbAt i asid va with
    | some t => some t
    | none => if engineDie e < 8 then (vget m.tlb2 (engineDie e) []).find? (·.maps asid va) else none

/-- The engines that a result of the probe ring passes: those before the one that holds the entry, and that one. -/
def Mach.probePassed (m : Mach) (e : EngineId) (asid va : Nat) : List Nat :=
  let l := probeRing e
  match l.findIdx? fun i => (m.tlbAt i asid va).isSome with
  | some j => l.take (j + 1)
  | none => []

/-- Put an entry first in the first-level TLB of engine `i`. -/
def Mach.tlbFirst (m : Mach) (t : TlbEntry) (i : Nat) : Mach :=
  let g := vget m.engines i Engine.init
  { m with engines := vset m.engines i { g with tlb := tlbInstall 128 t g.tlb } }

/-- A lookup that finds an entry makes it the most recently used of the engine's own TLB and of the TLBs that the result
passes (R265). -/
def Mach.tlbUse (m : Mach) (e : EngineId) (asid va : Nat) : Mach :=
  match m.tlbFind e asid va with
  | none => m
  | some t =>
    if (m.tlbAt (engineIndex e) asid va).isSome then m.tlbPut e t
    else
      match m.probePassed e asid va with
      | [] =>
        let m := m.tlbPut e t
        { m with tlb2 := vset m.tlb2 (engineDie e) (tlb2Install t (vget m.tlb2 (engineDie e) [])) }
      | l => (l.foldl (fun m i => m.tlbFirst t i) m).tlbPut e t

/-! ## From an address to places -/

/-- Who accesses memory and under what (R98, R105, R261, R432). `eng` is the engine whose TLB serves it; without one the
page tables are read at once and a page fault is final. -/
structure Access where
  eng : Option EngineId
  asid : Nat
  segs : List Seg
  part : Nat
  own : Option Nat
  anyPart : Bool
  bound : Option Bound
  sys : Bool
  /-- the context and the command that make the access, and the virtual channel of its writes (R124) -/
  who : Nat := 0
  id : Nat := 0
  vc : Nat := 0
  /-- the clock (R26, R27) -/
  now : Nat := 0
  /-- the entries of the core's emit pool that come before the access (R122) -/
  upd : Nat := 0
  /-- the element, and the clock at which it began -/
  ep : Nat := 0
  since : Nat := 0
  /-- the context whose element keeps what it reads, when it is another one than makes the access (R308) -/
  keep : Option (EngineId × Nat) := none
deriving DecidableEq, Repr

/-- The kind of an access (R261). `rmw hostOk` says whether HOST memory takes it (R101, R118). -/
inductive AccKind where
  | read | write | rmw (hostOk : Bool) | exec
deriving DecidableEq, Repr

/-- Where an access ends: its places, a fault's trap code, a translation that the TLBs do not hold, or a page fault with
its level and SUB (R271). -/
inductive Xl where
  | ok (ps : Parts)
  | fault (code : Byte)
  | miss (va : Nat)
  | page (level sub : Nat)
deriving DecidableEq, Repr

def trAccess : Byte := 0x81
def trAperture : Byte := 0x82
def trUndeclared : Byte := 0x60
def trUpdateOnly : Byte := 0x61
def trRmwClass : Byte := 0x62
def trNotPresent : Byte := 0x80

/-- Memory class of a segment (R101). -/
def Seg.cl (s : Seg) : Nat := s.cls.toNat % 8

/-- SYNC of a segment (R259). -/
def Seg.sync (s : Seg) : Bool := s.cls.getLsbD 3

/-- PAGEABLE of a segment (R259). -/
def Seg.pageable (s : Seg) : Bool := s.cls.getLsbD 4

/-- The segment that holds an address (R261). -/
def segAt (segs : List Seg) (va : Nat) : Option Seg :=
  segs.find? fun s => decide (s.vbase ≤ va) && decide (va < s.vbase + s.vlen)

/-- The rights an access lacks, as its trap code (R261). -/
def rightsFault (s : Seg) (k : AccKind) : Option Byte :=
  let r := s.rights.getLsbD 0
  let w := s.rights.getLsbD 1
  let x := s.rights.getLsbD 2
  let u := s.rights.getLsbD 3
  match k with
  | .read => if r then none else some trAccess
  | .exec => if x then none else some trAccess
  | .write => if w then none else if u then some trUpdateOnly else some trAccess
  | .rmw _ => if u && !w then some trUpdateOnly else if r && w then none else some trAccess

/-- A byte lies in a declared set (R130). -/
def Decl.hasByte (d : Decl) (a : Nat) : Bool :=
  let b := a - d.base.toNat
  decide (d.base.toNat ≤ a) &&
    (if d.rows ≤ 1 then decide (b < d.rowBytes)
     else decide (b / d.stride < d.rows) && decide (b % d.stride < d.rowBytes))

/-- Every byte of an access lies in a declared set. -/
def Decl.covers (d : Decl) (a n : Nat) : Bool := (List.range n).all fun i => d.hasByte (a + i)

/-- The base of a version of a declared set (R130, R392): version 0 is BASE, version v is REN(v−1) of the write
declaration that names the set. -/
def Mach.versionBase (m : Mach) (asid : Nat) (d : Decl) (v : Nat) : Nat :=
  if v == 0 then d.base.toNat
  else
    match m.sets.find? fun s =>
        s.asid == asid && s.decl.base == d.base && s.decl.rowBytes == d.rowBytes && s.decl.rows == d.rows &&
          s.decl.stride == d.stride with
    | some s => ((s.decl.rens[v - 1]?).getD d.base).toNat
    | none => ((d.rens[v - 1]?).getD d.base).toNat

/-- A task's declarations that bear on an access, with their versions, read declarations first (R105). -/
def Bound.decls (b : Bound) (k : AccKind) : List (Decl × Nat) :=
  let wr := b.ext.wrs.zip ((b.vers.drop 8).take 8 ++ List.replicate 8 0)
  match k with
  | .write => wr
  | .rmw _ => wr
  | _ => b.ext.rds.zip (b.vers.take 8 ++ List.replicate 8 0) ++ wr

/-- The address after renaming (R130), or none outside the declared sets (R105). -/
def Mach.declared (m : Mach) (b : Bound) (k : AccKind) (va n : Nat) : Option Nat :=
  let ds := (b.decls k).filter fun p => p.1.covers va n
  match ds.find? (fun p => p.2 != 0) with
  | some (d, v) => some (va - d.base.toNat + m.versionBase b.asid.toNat d v)
  | none => if ds.isEmpty then none else some va

/-- The bytes of a home (R20): 128 GiB on each near-tier die, 2,048 GiB on each far-tier die, the bus addresses of
PA[47:0] for the host. -/
def homeBytes (home : Nat) : Nat := if home < 8 then 2 ^ 37 else if home < 10 then 2 ^ 41 else 2 ^ 48

/-- The place of a translated physical address (R262): homes 13-15, bytes past a home's memory (R20; log entry 5) and
undecoded CXL ranges raise ACCESS_RIGHTS (R262, R380). -/
def Mach.physical (m : Mach) (pa n : Nat) : Xl :=
  let home := pa / 2 ^ 48
  if 13 ≤ home || decide (homeBytes home < pa % 2 ^ 48 + n) then .fault trAccess
  else if home == 10 || home == 11 then
    if m.cxl.any fun c => decide (c.2.2.1 ≤ pa) && decide (pa + n ≤ c.2.2.1 + c.2.2.2) then .ok [(pa, n)]
    else .fault trAccess
  else .ok [(pa, n)]

/-- A walk that reaches a leaf in the old range of a page that the tug is moving waits (R377 step 3). -/
def Mach.heldByMove (m : Mach) (pa : Nat) : Bool := m.moves.any fun v => decide (v.src ≤ pa) && decide (pa < v.src + v.size)

/-- Translate a pageable address (R263-R265). An access without an engine walks at once, and waits for a page that is being moved
(R377). -/
def Mach.paged (m : Mach) (A : Access) (va n : Nat) (cls : Option Nat) : Xl :=
  match A.eng with
  | some e =>
    match m.tlbFind e A.asid va with
    | some t => m.physical (t.pa + (va - t.va)) n
    | none => .miss va
  | none =>
    match m.walk A.asid va cls with
    | .leaf v _ p => if m.heldByMove p then .miss va else m.physical (p + (va - v)) n
    | .notPresent l => .page l 1
    | .badFormat l => .page l 2

/-- The place in a peer package of a segment's byte (R262): the same home numbers, a reserved home refused. -/
def Mach.peerPlace (m : Mach) (pkg pa n : Nat) : Xl :=
  if m.pkgLost pkg || decide (13 ≤ pa / 2 ^ 48) || decide (pa / 2 ^ 48 != (pa + n - 1) / 2 ^ 48) then .fault trAccess
  else .ok [(peerKey pkg pa, n)]

/-- Translate within a segment (R262). -/
def Mach.inSegment (m : Mach) (A : Access) (s : Seg) (va n : Nat) : Xl :=
  if s.pageable then m.paged A va n (some s.cl)
  else
    let pa := s.phys.toNat % 2 ^ 52 + (va - s.vbase)
    if s.cl == 5 then m.peerPlace (s.phys.toNat / 2 ^ 52 % 256) pa n else m.physical pa n

/-- Two pieces of one access. -/
def Xl.append (a b : Xl) : Xl :=
  match a, b with
  | .ok p, .ok q => .ok (p ++ q)
  | .ok _, x => x
  | x, _ => x

/-- An access as its pieces within 64 KiB pages, by ascending address. -/
def pagePieces (va n : Nat) : List (Nat × Nat) :=
  if n == 0 then [(va, 0)]
  else (List.range ((va % 2 ^ 16 + n + 0xFFFF) / 2 ^ 16)).map fun i =>
    let lo := max va ((va / 2 ^ 16 + i) * 2 ^ 16)
    (lo, min (va + n) ((va / 2 ^ 16 + i + 1) * 2 ^ 16) - lo)

/-- The segment of each piece. -/
def pieceSegs (segs : List Seg) (ps : List (Nat × Nat)) : List (Option Seg) := ps.map fun p => segAt segs p.1

/-- The segment and rights check of a piece (R261). -/
def segFault (k : AccKind) : Option Seg → Option Byte
  | none => some trAccess
  | some s => rightsFault s k

/-- The class check of a read-modify-write (R101, R118). -/
def classBad (k : AccKind) : Option Seg → Bool
  | some s => match k with
    | .rmw hostOk => s.cl == 4 && !hostOk
    | _ => false
  | none => false

/-- A place in the dry dock, which the lock-keeper and the far-tier engines alone reach (R381): any other agent's access raises
ACCESS_RIGHTS (log entry 30). -/
def Mach.barDock (m : Mach) (A : Access) : Xl → Xl
  | .ok ps =>
    let far := match A.eng with
      | some (.far _ _) => true
      | _ => false
    if !far && ps.any fun p => m.dockArea.any fun d => decide (d.1 < p.1 + p.2) && decide (p.1 < d.1 + d.2) then .fault trAccess
    else .ok ps
  | x => x

/-- Translate each page of an access (R262, R263), in ascending order. -/
def Mach.translate (m : Mach) (A : Access) (va n : Nat) : Xl :=
  (pagePieces va n).foldr (fun p r =>
    (m.barDock A (if A.sys then m.paged A p.1 p.2 none
     else match segAt A.segs p.1 with
      | none => .fault trAccess
      | some s => m.inSegment A s p.1 p.2)).append r) (.ok [])

/-- The bytes of an access that lie in task-scoped segments, from the first to the last: start and length (R105). -/
def scopedRange (ps : List (Nat × Nat)) (ss : List (Option Seg)) : Option (Nat × Nat) :=
  let l := (ps.zip ss).filter fun p => match p.2 with
    | some s => !s.sync
    | none => false
  match l with
  | [] => none
  | p :: _ =>
    let e := l.foldl (fun a q => max a (q.1.1 + q.1.2)) 0
    some (p.1.1, e - p.1.1)

/-- The declaration check of a whole element and its renaming (R105, R130): the address after renaming, none outside the
declared sets. Copies of code at bind need X rights alone (R133, R261; log entry 29). -/
def Mach.scoped (m : Mach) (A : Access) (k : AccKind) (va : Nat) (range : Option (Nat × Nat)) : Option Nat :=
  match A.bound, range with
  | some b, some (lo, n) => if k == AccKind.exec then some va else (m.declared b k lo n).map fun lo' => lo' + va - lo
  | _, _ => some va

/-- A virtual access (R105, R261): for all its bytes the segments and rights, then the declarations, then the class; then
renaming and translation, page by page. -/
def Mach.virtual (m : Mach) (A : Access) (k : AccKind) (va n : Nat) : Xl :=
  if A.sys then m.translate A va n
  else
    let ps := pagePieces va n
    let ss := pieceSegs A.segs ps
    match ss.findSome? (segFault k) with
    | some c => .fault c
    | none =>
      match m.scoped A k va (scopedRange ps ss) with
      | none => .fault trUndeclared
      | some va' => if ss.any (classBad k) then .fault trRmwClass else m.translate A va' n

/-- Writes and read-modify-writes are the accesses that R24 bars from the semaphore area. -/
def AccKind.writes : AccKind → Bool
  | .write => true
  | .rmw _ => true
  | _ => false

/-- The offset range falls in the semaphore area (R24). -/
def inSemArea (off n : Nat) : Bool := decide (off < 0x3E8000) && decide (0x3E0000 < off + n)

/-- From a generic address to places (R97, R98, R105, R278): aperture, the semaphore area, then the virtual checks. An
access whose last bytes have window code 3 raises APERTURE (R97; log entry 30). A task owns no core of another package, so
only the programs of the wharf and the lock-keeper reach a peer's scratchpads (R98, R385). -/
def Mach.resolve (m : Mach) (A : Access) (k : AccKind) (a : W64) (n : Nat) : Xl :=
  match windowCode a with
  | 0 => if 2 ^ 47 < a.toNat + n then .fault trAperture else m.virtual A k a.toNat n
  | 1 =>
    let off := a.toNat % 2 ^ 22
    match A.own with
    | none => .fault trAperture
    | some c =>
      if 2 ^ 22 < off + n then .fault trAperture
      else if k.writes && inSemArea off n then .fault trAccess
      else .ok [(spKey c off, n)]
  | 2 =>
    if !m.globalOk a || decide (2 ^ 22 < gOff a + n) then .fault trAperture
    else
      let c := 40 * gDie a + gCore a
      if m.pkgIsOwn (gPkg a) then
        if !A.anyPart && !m.partOwns A.part c then .fault trAccess
        else if k.writes && inSemArea (gOff a) n then .fault trAccess
        else .ok [(spKey c (gOff a), n)]
      else if !A.anyPart || (k.writes && inSemArea (gOff a) n) || m.pkgLost (gPkg a) then .fault trAccess
      else .ok [(peerSpKey a.toNat, n)]
  | _ => .fault trAperture

/-- The system translation of R432, for an ASID and the partition that holds it. -/
def Access.system (asid part : Nat) : Access where
  eng := none
  asid := asid
  segs := []
  part := part
  own := none
  anyPart := false
  bound := none
  sys := true

/-- The partition an ASID is assigned to (R415). -/
def Mach.partOfAsid (m : Mach) (asid : Nat) : Option Nat :=
  (List.range 64).find? fun p => (vget m.parts p Partition.init).asids.contains asid

/-- The trap code of a failed access (R188: a page not present counts as failed). -/
def Xl.code : Xl → Byte
  | .ok _ => 0
  | .fault c => c
  | .miss _ => trNotPresent
  | .page _ _ => trNotPresent

/-! ## What an access does besides (R265, R374) -/

/-- The virtual addresses that an access looks up, one in each page: after renaming (R130, R265). -/
def Mach.lookedUp (m : Mach) (A : Access) (k : AccKind) (a n : Nat) : List Nat :=
  let ps := pagePieces a n
  let va := if A.sys then a else (m.scoped A k a (scopedRange ps (pieceSegs A.segs ps))).getD a
  (pagePieces va n).map (·.1)

/-- An access of an engine uses the translations of the addresses that it looks up (R265; log entry 12). -/
def Mach.useTlb (m : Mach) (A : Access) (k : AccKind) (a : Int) (n : Nat) : Mach :=
  match A.eng with
  | none => m
  | some e =>
    if windowCode (BitVec.ofInt 64 a) != 0 then m
    else (m.lookedUp A k a.toNat n).foldl (fun m va => m.tlbUse e A.asid va) m

/-- The die that an access comes from (R374): its engine's, that of the core it is made for, else one that is no near-tier die. -/
def Access.die (A : Access) : Nat :=
  match A.eng, A.own with
  | some e, _ => engineDie e
  | none, some n => n / 40
  | none, none => 18

/-- The home of a TIERED page counts an access by the die of its source (R374). -/
def Mach.countAccess (m : Mach) (A : Access) (ps : Parts) : Mach :=
  let die := A.die
  let bump (p : Page) : Page :=
    if ps.any fun x => decide (p.pa ≤ x.1) && decide (x.1 < p.pa + p.size) then
      let n := ((p.counts.find? fun c => c.1 == die).map (·.2)).getD 0
      { p with counts := (die, n + 1) :: p.counts.filter fun c => c.1 != die }
    else p
  if m.pages.isEmpty then m else { m with pages := m.pages.map bump }

/-- A leaf of a TIERED segment is known to the home that holds its page (R373, R374): its hint starts at none. -/
def Mach.notePage (m : Mach) (asid va size pa : Nat) : Mach :=
  if m.pages.any fun p => p.asid == asid && p.va == va then m
  else { m with pages := m.pages ++ [⟨asid, va, size, pa, 0, [], [], 0, none⟩] }

/-- An access without an engine walks the page tables, which makes a TIERED page known to its home. -/
def Mach.noteWalks (m : Mach) (A : Access) (va n : Nat) : Mach :=
  if A.sys || A.eng.isSome then m
  else (pagePieces va n).foldl (fun (m : Mach) p =>
    match segAt A.segs p.1 with
    | some s => if s.cl != 2 then m else match m.walk A.asid p.1 (some 2) with
      | .leaf v size pa => m.notePage A.asid v size pa
      | _ => m
    | none => m) m

/-- An access of an agent without an engine that is performed at some places: it is counted. -/
def Mach.noteAccess (m : Mach) (A : Access) (a : W64) (n : Nat) (ps : Parts) : Mach :=
  (if windowCode a == 0 then m.noteWalks A a.toNat n else m).countAccess A ps

/-- Read at most a page's worth of bytes under an access without an engine: the number, or the trap code. -/
def Mach.readAt (m : Mach) (A : Access) (k : AccKind) (a : W64) (n : Nat) : Mach × Except Xl Nat :=
  match m.resolve A k a n with
  | .ok ps =>
    let (m, v) := (m.noteAccess A a n ps).readParts ps
    (m, .ok v)
  | x => (m, .error x)

/-- Write under an access without an engine. -/
def Mach.writeAt (m : Mach) (A : Access) (a : W64) (n v : Nat) : Mach × Option Xl :=
  match m.resolve A .write a n with
  | .ok ps => ((m.noteAccess A a n ps).writeParts v ps, none)
  | x => (m, some x)

/-- A read that does not wait for a page that is being moved (log entry 15). -/
def Mach.readThrough (m : Mach) (A : Access) (a : W64) (n : Nat) : Except Xl Nat := ({ m with moves := [] }.readAt A .read a n).2

/-- Read a structure piece by piece, 64 bytes at a time. -/
def Mach.readLong (m : Mach) (A : Access) (k : AccKind) (a : W64) : Nat → Mach × Except Xl Nat
  | 0 => (m, .ok 0)
  | n + 1 =>
    match m.readAt A k a 64 with
    | (m, .error x) => (m, .error x)
    | (m, .ok lo) =>
      match m.readLong A k (a + 64) n with
      | (m, .error x) => (m, .error x)
      | (m, .ok hi) => (m, .ok (lo + 2 ^ 512 * hi))

end Sys2Proof.Machine
end

