-- ==== Sys2Proof/Machine/MatEngine.lean ====
section
/-!
DEFINITION. Machine/MatEngine.lean: the matrix engine (R80-R82, R87, R88, R325-R341): the values of operand blocks, a tile
step, and how a word starts, steps and completes.
-/

namespace Sys2Proof.Machine

/-! ## Operands -/

/-- The accumulators a word names: ACC to ACC + ACN (R50). -/
def argAccs (w : MArgs) : List Nat := (List.range (w.acn.toNat + 1)).map (w.acc.toNat + ·)

/-- The word names an accumulator. -/
def argNames (w : MArgs) (a : Nat) : Bool := decide (w.acc.toNat ≤ a) && decide (a ≤ w.acc.toNat + w.acn.toNat)

/-- The wait-limit code of MWAIT (R341). -/
def mwaitLimit (w : MArgs) : Nat := w.opsAt 0 32

/-- The report predicate of MWAIT (R341). -/
def mwaitReport (w : MArgs) : PReg := w.ops.extractLsb' 32 3

/-- Bytes as a little-endian number. -/
def natOfBytes (l : List Byte) : Nat := l.foldr (fun b acc => b.toNat + 256 * acc) 0

/-- The values of line `l` of a block (R87, R88, R335): 96 elements with their scales. -/
def lineVals (fmt data scales l : Nat) : List FVal :=
  let w := fmtWidth fmt
  let row := data >>> (96 * l * w) % 2 ^ (96 * w)
  let at0 (b : Nat) : Nat := scales >>> (8 * b) % 256
  (List.range 96).map fun k =>
    let b := row >>> (k * w) % 2 ^ w
    if fmt == 15 then scaledVal fmt b (at0 (64 + 12 * l + k / 8)) (scales % 2 ^ 16)
    else if fmtScaled fmt then scaledVal fmt b (at0 (2 * l + k / 48)) 0
    else elemVal fmt b

/-- The values of a block: 64 lines of 96. -/
def blockVals (fmt : Nat) (b : OpBuf) : List (List FVal) :=
  let data := natOfBytes b.data
  let scales := natOfBytes b.scales
  (List.range 64).map (lineVals fmt data scales)

/-- The 64-byte unit of a scratchpad with a number (R25). -/
def unitAt (sp : Cells) (u : Nat) : List Byte := sp.bytes (64 * u) 64

/-- The numbers of `n` units from a unit on. -/
def unitsFrom (u n : Nat) : List Nat := (List.range n).map (u + ·)

/-- The units that hold the scales of K step `s` of a direct-mode operand (R88, R329): Q8-E2M1 has its band row in step 0
only. -/
def directScales (fmt scales s : Nat) : List Nat :=
  if fmt == 15 then (if s == 0 then [scales] else []) ++ unitsFrom (scales + 1 + 12 * s) 12
  else if fmtScaled fmt then unitsFrom (scales + 2 * s) 2
  else []

/-- The units that hold K step `s` of a direct-mode operand, its scales first (R329). -/
def directUnits (fmt data scales s : Nat) : List Nat :=
  directScales fmt scales s ++ unitsFrom (data + s * (blockBytes fmt / 64)) (blockBytes fmt / 64)

/-- How many units a K step of an operand takes. -/
def directSpan (fmt s : Nat) : Nat := (directUnits fmt 0 0 s).length

/-- The operand that the units of K step `s` hold (R88), with the band row that step 0 read. -/
def operandOf (fmt s : Nat) (band us : List (List Byte)) : OpBuf :=
  let n := (directScales fmt 0 s).length
  let sc := (us.take n).flatten
  ⟨((us.drop n).take (blockBytes fmt / 64)).flatten, if fmt == 15 && s != 0 then (band.take 1).flatten ++ sc else sc,
    BitVec.ofNat 4 fmt, true⟩

/-- An operand buffer that is filled: bytes beyond the fill stay (R326, R328; log entry 25). -/
def OpBuf.fill (b : OpBuf) (data scales : List Byte) (fmt : Nat) : OpBuf :=
  ⟨data ++ b.data.drop data.length, scales ++ b.scales.drop scales.length, BitVec.ofNat 4 fmt, true⟩

/-! ## One group (R80-R82, R335) -/

/-- The integer an integer element stands for. -/
def FVal.int : FVal → Int
  | .fin n m _ => if n then -(m : Int) else m
  | _ => 0

/-- Add one group of products to an element. -/
def addGroup (int : Bool) (z : W32) (ps : List (FVal × FVal)) : W32 × Flags :=
  if int then sat32 (z.toInt + (ps.map fun p => p.1.int * p.2.int).sum)
  else
    let pr := ps.map fun p => p.1.mul p.2
    let (s, f) := sumSet .rne (pr.map (·.1))
    let (r, g) := (f32.decode z.toNat).add .rne s
    let (b, h) := f32.round .rne false r
    (BitVec.ofNat 32 b, pr.foldl (fun a p => a ||| p.2) (f ||| g ||| h))

/-- Add the two groups of a step to an element, in ascending K. -/
def addStep (int : Bool) (z : W32) (g0 g1 : List (FVal × FVal)) : W32 × Flags :=
  let (z0, f0) := addGroup int z g0
  let (z1, f1) := addGroup int z0 g1
  (z1, f0 ||| f1)

/-- A tile step on a whole accumulator: `pairs i j g` are the products of group `g` at element (i, j). -/
def tileStep (int : Bool) (z : List W32) (pairs : Nat → Nat → Nat → List (FVal × FVal)) : List W32 × Flags :=
  let r := z.zipIdx.map fun x => addStep int x.1 (pairs (x.2 / 64) (x.2 % 64) 0) (pairs (x.2 / 64) (x.2 % 64) 1)
  (r.map (·.1), r.foldl (fun a x => a ||| x.2) 0)

/-- The products of two dense blocks (R336). -/
def densePairs (a b : List (List FVal)) (i j g : Nat) : List (FVal × FVal) :=
  let half (l : List FVal) : List FVal := (l.drop (48 * g)).take 48
  (half ((a[i]?).getD [])).zip (half ((b[j]?).getD []))

/-- The value of a fibre's entry (R90). -/
def FibDesc.entryVal (d : FibDesc) (sp : Cells) (p : Nat) : FVal :=
  let n := fmtWidth d.fmt / 8
  elemVal d.fmt (sp.rd (d.vals + p * n) n)

/-- The products of two sparse rows in group `g` (R337): coordinates present in both. -/
def sparsePairs (sp : Cells) (da db : FibDesc) (ra rb : List (Nat × Nat)) (g : Nat) : List (FVal × FVal) :=
  let inGroup (x : Nat × Nat) : Bool := decide (48 * g ≤ x.1) && decide (x.1 < 48 * g + 48)
  (ra.filter inGroup).filterMap fun x =>
    (rb.find? fun y => y.1 == x.1).map fun y => (da.entryVal sp x.2, db.entryVal sp y.2)

/-! ## The running word -/

/-- The operation codes of matrix words (R54). -/
def mopMma : BitVec 6 := 0
def mopMmas : BitVec 6 := 1
def mopMzero : BitVec 6 := 2
def mopMaccr : BitVec 6 := 3
def mopMaccw : BitVec 6 := 4
def mopMscale : BitVec 6 := 5

/-- The word is an MMA in buffer mode. -/
def MEntry.buffered (e : MEntry) : Bool := e.word.op == mopMma && e.word.args.mode == 0

/-- The tile steps of a word (R331, R336, R337). -/
def MEntry.steps (e : MEntry) : Nat :=
  if e.word.op == mopMma || e.word.op == mopMmas then (e.word.args.ks.toNat + 1) * (e.word.args.acn.toNat + 1) else 0

/-- The word names an accumulator that a later word may not use before it completes. -/
def MEntry.names (e : MEntry) (a : Nat) : Bool := argNames e.word.args a

/-- K step and accumulator of the run's next tile step. -/
def MRun.kStep (r : MRun) : Nat := r.step / (r.entry.word.args.acn.toNat + 1)
def MRun.accStep (r : MRun) : Nat := r.step % (r.entry.word.args.acn.toNat + 1)

/-- The A buffer, and the B buffer of a tile step (R51). -/
def MRun.aBuf (r : MRun) : Nat := r.entry.word.args.opsAt 0 2
def MRun.bBuf (r : MRun) : Nat := r.entry.word.args.opsAt (2 + 2 * r.accStep) 2

/-- The buffers already taken in this K step (R327). -/
def MRun.heldA (r : MRun) : Option OpBuf := if r.accStep == 0 then none else r.latchA
def MRun.heldB (r : MRun) : Option OpBuf :=
  if r.accStep == 0 then none else (r.taken.find? fun x => x.1 == r.bBuf).map (·.2)

/-- The buffer that the run's next tile step waits for (R327): n for oan, 4 + n for obn. -/
def Core.missing (c : Core) (r : MRun) : Option Nat :=
  if !r.entry.buffered || decide (r.entry.steps ≤ r.step) then none
  else if r.heldA.isNone && !(vget c.oa r.aBuf OpBuf.init).full then some r.aBuf
  else if r.heldB.isNone && !(vget c.ob r.bBuf OpBuf.init).full then some (4 + r.bBuf)
  else none

/-- The accumulator as the run has it. -/
def Core.workOf (c : Core) (r : MRun) (a : Nat) : List W32 :=
  match r.work.find? fun x => x.1 == a with
  | some x => x.2
  | none => (vget c.z a (tab 4096 fun _ => 0)).toList

/-- The core with the bits of FULL cleared for the buffers a tile step takes, and the operands it takes (R327, R328). -/
def Core.takeBuffers (c : Core) (r : MRun) : Core × OpBuf × OpBuf :=
  let a := vget c.oa r.aBuf OpBuf.init
  let b := vget c.ob r.bBuf OpBuf.init
  let (c, a) := match r.heldA with
    | some x => (c, x)
    | none => ({ c with oa := vset c.oa r.aBuf { a with full := false } }, a)
  match r.heldB with
  | some x => (c, a, x)
  | none => ({ c with ob := vset c.ob r.bBuf { b with full := false } }, a, b)

/-! ## What a word reads from scratchpad (R329, R338) -/

/-- The rows of the fibres that a tile step of an MMAS names. -/
def rowOf (l : List (List (Nat × Nat))) (n : Nat) : List (Nat × Nat) := (l[n]?).getD []

/-- The units that hold `n` bytes at an offset. -/
def unitsOf (a n : Nat) : List Nat := if n == 0 then [] else unitsFrom (a / 64) ((a + n - 1) / 64 - a / 64 + 1)

/-- The entries of two rows that meet in the groups of K step `s` (R337). -/
def meetings (ra rb : List (Nat × Nat)) (s : Nat) : List (Nat × Nat) :=
  (ra.filter fun x => decide (96 * s ≤ x.1) && decide (x.1 < 96 * s + 96)).filterMap fun x =>
    (rb.find? fun y => y.1 == x.1).map fun y => (x.2, y.2)

/-- The units that a tile step of an MMAS reads values from, each once. -/
def MEntry.valueUnits (e : MEntry) (s i : Nat) : List Nat :=
  let size (d : FibDesc) : Nat := fmtWidth d.fmt / 8
  let pair (p : Nat × Nat) : List Nat :=
    unitsOf (e.fibA.vals + p.1 * size e.fibA) (size e.fibA) ++ unitsOf (e.fibB.vals + p.2 * size e.fibB) (size e.fibB)
  (((List.range 64).map fun x => ((List.range 64).map fun y =>
    ((meetings (rowOf e.rowsA x) (rowOf e.rowsB (64 * i + y)) s).map pair).flatten).flatten).flatten).eraseDups

/-- The word is an MMA in direct mode. -/
def MEntry.direct (e : MEntry) : Bool := e.word.op == mopMma && !e.buffered

/-- What the word reads is read in groups: a K step of a direct-mode MMA, a tile step of an MMAS. -/
def MEntry.groups (e : MEntry) : Nat :=
  if e.direct then e.word.args.ks.toNat + 1 else if e.word.op == mopMmas then e.steps else 0

/-- The units of a group in the order in which they are read: A, then the B of each accumulator (R329). -/
def MEntry.groupUnits (e : MEntry) (g : Nat) : List Nat :=
  let w := e.word.args
  let n := w.acn.toNat + 1
  if e.direct then
    directUnits e.fmtA.toNat (w.opsAt 0 16) (w.opsAt 16 16) g ++ ((List.range n).map fun i =>
      directUnits ((e.fmtBs[i]?).getD 0).toNat (w.opsAt (32 + 32 * i) 16) (w.opsAt (48 + 32 * i) 16) g).flatten
  else e.valueUnits (g / n) (g % n)

/-- The units of the groups before `g`. -/
def MEntry.unitsBefore (e : MEntry) (g : Nat) : List Nat := ((List.range (min g e.groups)).map e.groupUnits).flatten

/-- The group of the run's next tile step. -/
def MRun.group (r : MRun) : Nat := if r.entry.direct then r.kStep else r.step

/-- The units that the run reads now (R329): those of its next tile step's group that it has not read, and once it has them all those of
the group after it. -/
def MRun.wants (r : MRun) : List Nat :=
  match (r.entry.unitsBefore (r.group + 1)).drop r.units.length with
  | [] => (r.entry.unitsBefore (r.group + 2)).drop r.units.length
  | us => us

/-- The next tile step has what it reads. -/
def MRun.fetched (r : MRun) : Bool := decide ((r.entry.unitsBefore (r.group + 1)).length ≤ r.units.length)

/-- The units at the front of a list that one position serves: up to the first whose bank it has used, at most 64 (R329). -/
def positionUnits : Nat → List Nat → List Nat → List Nat
  | 0, _, _ => []
  | _, _, [] => []
  | n + 1, used, u :: us => if used.contains (u % 64) then [] else u :: positionUnits n (u % 64 :: used) us

/-- The engine reads units. -/
def Core.matRead (c : Core) (r : MRun) (us : List Nat) : Core :=
  { c with mat := { c.mat with run := some { r with units := r.units ++ us.map (unitAt c.sp) } } }

/-- A wheel position of the matrix engine (R26, R329): the running word reads the next units of its sequence. -/
def Core.matFetch (c : Core) : Core :=
  match c.mat.run with
  | none => c
  | some r => c.matRead r (positionUnits 64 [] r.wants)

/-- The units that a group of the run has read. -/
def MRun.groupRead (r : MRun) (g : Nat) : List (List Byte) := r.units.drop (r.entry.unitsBefore g).length

/-- A direct-mode operand of K step `s`, whose units stand `at0 t` units into the group of K step `t`. -/
def MRun.operand (r : MRun) (fmt s : Nat) (at0 : Nat → Nat) : OpBuf :=
  operandOf fmt s ((r.groupRead 0).drop (at0 0)) ((r.groupRead s).drop (at0 s))

/-- The A operand of a K step, and the B operand of accumulator `i`. -/
def MRun.directA (r : MRun) (s : Nat) : OpBuf := r.operand r.entry.fmtA.toNat s fun _ => 0
def MRun.directB (r : MRun) (s i : Nat) : OpBuf :=
  let fb := ((r.entry.fmtBs[i]?).getD 0).toNat
  r.operand fb s fun t => directSpan r.entry.fmtA.toNat t + i * directSpan fb t

/-- The scratchpad as the units of an MMAS's tile step show it. -/
def MRun.valueView (r : MRun) (sp : Cells) : Cells :=
  ((r.entry.groupUnits r.step).zip (r.groupRead r.step)).foldl (fun sp u => sp.put (64 * u.1) u.2) sp

/-- Run the next tile step (R336, R337); none when there is none to run, or it waits for a buffer or for its reads. -/
def Core.matStep (c : Core) (cyc : Nat) : Option Core :=
  match c.mat.run with
  | none => none
  | some r =>
    if decide (r.entry.steps ≤ r.step) || (c.missing r).isSome || !r.fetched then none
    else
      let e := r.entry
      let w := e.word.args
      let s := r.kStep
      let i := r.accStep
      let acc := w.acc.toNat + i
      let z := c.workOf r acc
      let fa := e.fmtA.toNat
      let fb := ((e.fmtBs[i]?).getD 0).toNat
      let keep (z' : List W32 × Flags) : MRun := { r with
        step := r.step + 1
        ends := if s == w.ks.toNat then (acc, cyc) :: r.ends else r.ends
        work := (acc, z'.1) :: r.work.filter fun x => x.1 != acc
        flags := r.flags ||| z'.2
        since := cyc }
      if e.word.op == mopMmas then
        let view := r.valueView c.sp
        let z' := tileStep (fmtInt fa) z fun x y g =>
          sparsePairs view e.fibA e.fibB (rowOf e.rowsA x) (rowOf e.rowsB (64 * i + y)) (2 * s + g)
        some { c with mat := { c.mat with run := some (keep z') } }
      else if e.buffered then
        let (c', a, b) := c.takeBuffers r
        let z' := tileStep (fmtInt fa) z (densePairs (blockVals fa a) (blockVals fb b))
        let r' := keep z'
        let taken := (r.bBuf, b) :: (if i == 0 then [] else r.taken)
        some { c' with mat := { c'.mat with run := some { r' with latchA := some a, taken := taken } } }
      else
        let z' := tileStep (fmtInt fa) z (densePairs (blockVals fa (r.directA s)) (blockVals fb (r.directB s i)))
        some { c with mat := { c.mat with run := some (keep z') } }

/-- Row 0 of the tile that MSCALE names (R340). -/
def Core.scaleRow (c : Core) (w : MArgs) : List W32 :=
  ((vget c.v (w.opsAt 0 4) (tab 1024 fun _ => 0)).toList).take 64

/-- The word the engine takes next, of those that arrived before a clock (R331): the earlier of the C queue's head and the port's;
the C word first in one clock. -/
def MatEng.next (g : MatEng) (before : Nat) : Option (MEntry × MatEng) :=
  let pick := match g.queue, g.port with
    | [], [] => none
    | e :: q, [] => some (e, { g with queue := q })
    | [], p :: r => some (p, { g with port := r })
    | e :: q, p :: r => if e.arrived ≤ p.arrived then some (e, { g with queue := q }) else some (p, { g with port := r })
  pick.filter fun x => decide (x.1.arrived < before)

/-- The engine is idle when a word arrives (R331): bind has left it so, or it has held no word for more than 1,024 clocks. -/
def MatEng.isIdle (g : MatEng) (cyc : Nat) : Bool := g.idle || decide (g.lastBusy + 1024 < cyc)

/-- Taking the next word, or going on with one that a restored frame held, the engine leaves idle (R34, R331). -/
def MatEng.leavesIdle (g : MatEng) (before : Nat) : Bool :=
  match g.run, g.next before with
  | some _, _ => g.idle
  | none, some (e, _) => g.isIdle e.arrived
  | none, none => false

/-- Take the next word, of those that arrived before clock `before` (R331, R340). -/
def Core.matStart (c : Core) (cyc before : Nat) : Option Core :=
  if c.mat.run.isSome then none
  else match c.mat.next before with
    | none => none
    | some (e, g) =>
      let e := if e.port && e.word.op == mopMscale then { e with cap := c.scaleRow e.word.args } else e
      some { c with mat := { g with run := some ⟨e, 0, [], 0, cyc, none, [], [], []⟩, idle := false } }

/-- MSCALE of one element (R340). -/
def scaleElem (z t : W32) : W32 × Flags :=
  let (v, f) := (f32.decode z.toNat).mul (f32.decode t.toNat)
  let (b, g) := f32.round .rne false v
  (BitVec.ofNat 32 b, f ||| g)

/-- An accumulator from a list. -/
def accOf (l : List W32) : Acc :=
  let v := l.toArray
  tab 4096 fun n => v.getD n 0

/-- What a word writes when it completes (R331, R336-R340): accumulators, tiles, and the flags it merges. -/
def Core.matWrite (c : Core) (r : MRun) : Core × Flags :=
  let w := r.entry.word.args
  let setAccs (c : Core) (f : Nat → Acc) : Core :=
    { c with z := (argAccs w).foldl (fun z a => vset z a (f a)) c.z }
  match r.entry.word.op.toNat with
  | 2 => (setAccs c fun _ => tab 4096 fun _ => 0, 0)
  | 3 =>
    let z := vget c.z w.acc.toNat (tab 4096 fun _ => 0)
    let t := w.opsAt 0 4
    ({ c with v := (List.range 4).foldl (fun v i => vset v (t + i) (tab 1024 fun n => vget z (1024 * i + n) 0)) c.v }, 0)
  | 4 => (setAccs c fun _ => accOf r.entry.cap, 0)
  | 5 =>
    let el (a n : Nat) : W32 × Flags :=
      scaleElem (vget (vget c.z a (tab 4096 fun _ => 0)) n 0) ((r.entry.cap[n % 64]?).getD 0)
    (setAccs c fun a => tab 4096 fun n => (el a n).1,
      (argAccs w).foldl (fun f a => (List.range 4096).foldl (fun f n => f ||| (el a n).2) f) 0)
  | _ => ({ c with z := r.work.foldl (fun z x => vset z x.1 (accOf x.2)) c.z }, r.flags)

/-- Write the word's results, merge its flags into `fsr.c` and leave the engine free (R332). -/
def Core.matFinish (c : Core) (cyc : Nat) (r : MRun) : Core :=
  let (c, f) := c.matWrite r
  { c with
    mat := { c.mat with run := none, lastBusy := cyc }
    c := { c.c with fsrNew := c.c.fsrNew ||| f.setWidth 64 } }

/-- Clocks from the end of an accumulator's last tile step to its write (R331). -/
def writeDelay : Nat := 6

/-- The accumulators that a clock writes: those whose last tile step lies 6 clocks back (R331). -/
def MRun.ready (r : MRun) (cyc : Nat) : List Nat := (r.ends.filter fun x => decide (x.2 + writeDelay ≤ cyc)).map (·.1)

/-- Write the accumulators whose results are due (R331). -/
def Core.matResults (c : Core) (cyc : Nat) : Core :=
  match c.mat.run with
  | none => c
  | some r =>
    let l := r.ready cyc
    { c with
      z := (r.work.filter fun x => l.contains x.1).foldl (fun z x => vset z x.1 (accOf x.2)) c.z
      mat := { c.mat with run := some { r with
        work := r.work.filter fun x => !l.contains x.1
        ends := r.ends.filter fun x => !l.contains x.1 } } }

/-- Complete the running word once its last tile step has run and its results are written (R331, R332). -/
def Core.matComplete (c : Core) (cyc : Nat) : Option Core :=
  match c.mat.run with
  | none => none
  | some r => if r.entry.steps ≤ r.step && r.ends.isEmpty then some (c.matFinish cyc r) else none

/-- Once DONE has issued, a word that waits for a fill is abandoned (R334). -/
def Core.matAbandon (c : Core) (cyc : Nat) : Option Core :=
  match c.mat.run with
  | none => none
  | some r => if (c.missing r).isSome then some (c.matFinish cyc r) else none

/-- The engine has finished every tile step and every word that needs no fill (R334): it holds none, or its running word waits for a
fill. -/
def Core.matQuiet (c : Core) : Bool :=
  match c.mat.run with
  | some r => (c.missing r).isSome && r.ends.isEmpty
  | none => c.mat.queue.isEmpty && c.mat.port.isEmpty

end Sys2Proof.Machine
end

