-- ==== Sys2Proof/Machine/Posts.lean ====
section
/-!
DEFINITION. Machine/Posts.lean: the writes that transfer contexts have issued and that are on their way to their homes (R102-R104,
R109, R116, R124-R127): how an access is counted, how a write is posted, which one may be performed next, what a scope waits
for.
-/

namespace Sys2Proof.Machine

/-! ## Bits within bytes -/

/-- Put `w` bits at a bit of a number. -/
def putBits (old sh w v : Nat) : Nat := old % 2 ^ sh + v % 2 ^ w * 2 ^ sh + old / 2 ^ (sh + w) * 2 ^ (sh + w)

/-- Take `w` bits at a bit of a number. -/
def getBits (n sh w : Nat) : Nat := n / 2 ^ sh % 2 ^ w

/-! ## What a write does besides (R142) -/

/-- A write whose effect lies outside the core's scratchpad and outside the write declarations ends replayability
(R142). -/
def Mach.noteWrite (m : Mach) (A : Access) (a : Int) (ps : Parts) : Mach :=
  let m := m.countAccess A ps
  match A.own with
  | none => m
  | some n =>
    let own := ps.all fun p => isSp p.1 && spCore p.1 == n
    let declared := windowCode (BitVec.ofInt 64 a) == 0 && (match segAt A.segs a.toNat with
      | some s => !s.sync
      | none => false)
    if own || declared then m
    else
      let c := m.core n
      m.setCore n { c with task := c.task.map fun b => { b with replayable := false } }

/-! ## Orders between the writes of a context (R104, R124-R127) -/

/-- What keeps two accesses of a context in program order: the scratchpad; the home and the memory class; for a peer package the
virtual channel besides; for the host the 64-byte block. -/
def orderKey (vc cls key : Nat) : List Nat :=
  if isSp key then [0, spCore key]
  else if 2 ^ 61 ≤ key then [1, key / 2 ^ 32, vc]
  else if 2 ^ 52 ≤ key then [2, key / 2 ^ 48, cls, vc]
  else if key / 2 ^ 48 == 12 then [3, key / 64]
  else [4, key / 2 ^ 48, cls]

/-- The memory class of an address under a segment table (R101); 8 for a scratchpad. -/
def classAt (segs : List Seg) (a : Int) : Nat :=
  if a < 0 || 2 ^ 47 ≤ a then 8 else ((segAt segs a.toNat).map Seg.cl).getD 8

/-- Two ranges of places share a byte. -/
def meets (a n b k : Nat) : Bool := decide (a < b + k) && decide (b < a + n)

/-- Two accesses share a byte. -/
def partsMeet (ps qs : Parts) : Bool := ps.any fun x => qs.any fun y => meets x.1 x.2 y.1 y.2

/-- A posted write of a context comes before an access of it with virtual channel `vc` and class `cls` to some places: the same order
key (R104, R124-R127). -/
def Post.ordered (p : Post) (segs : List Seg) (vc cls : Nat) (ps : Parts) : Bool :=
  p.parts.any fun x => ps.any fun y => orderKey p.vc (classAt segs p.addr) x.1 == orderKey vc cls y.1

/-- An access of context `who` of an engine to some places must wait for a posted write (R104, R109): one of its own that is ordered
before it, or one of the engine's to the same bytes. -/
def Engine.behind (g : Engine) (who vc : Nat) (cls : Nat) (ps : Parts) : Bool :=
  g.posts.any fun p => partsMeet p.parts ps || (p.ctx == who && p.ordered g.segs vc cls ps)

/-- Pieces of a contiguous access of a scratchpad that take one position each: at most one row of each bank (R25, R27). -/
def rowPieces (key n : Nat) : List (Nat × Nat) :=
  if n == 0 then []
  else
    let u := key / 64 * 64
    (List.range ((key % 64 + n + 4095) / 4096)).map fun i =>
      let lo := max key (u + i * 4096)
      (lo, min (key + n) (u + (i + 1) * 4096) - lo)

/-- What of an access is performed together: a piece that one position serves of a scratchpad, all of it at any other home (R27, R103). -/
def accPieces : Parts → List Parts
  | [(k, n)] => if isSp k then (rowPieces k n).map fun p => [p] else [[(k, n)]]
  | ps => [ps]

/-- The bytes of some places. -/
def Parts.size (ps : Parts) : Nat := (ps.map (·.2)).sum

/-- The writes of `width` bits from bit `sh` of an access's bytes, one for each of its pieces, the first `o` bytes into the access. -/
def postsOf (A : Access) (addr : Int) (sh width v : Nat) : Nat → List Parts → List Post
  | _, [] => []
  | o, ps :: rest =>
    let b := 8 * o
    let lo := max sh b
    let hi := min (sh + width) (b + 8 * ps.size)
    let more := postsOf A addr sh width v (o + ps.size) rest
    if hi ≤ lo then more
    else ⟨A.who, A.id, A.vc, addr + (o : Int), ps, lo - b, hi - lo, v / 2 ^ (lo - sh) % 2 ^ (hi - lo), A.upd, A.ep, none, false, A.now⟩ :: more

/-- Write bits of bytes at their home: whole bytes, or the bits alone by an indivisible access (R103, R122, R362). -/
def Mach.writeAtHome (m : Mach) (ps : Parts) (sh width v : Nat) : Mach :=
  if sh == 0 && width % 8 == 0 then m.writeParts v ps
  else
    let (m, old) := m.readParts ps
    m.writeParts (putBits old sh width v) ps

/-- Write bits of an access's bytes: a transfer context posts the write (R102, R104), an access without an engine performs it. -/
def Mach.writeFor (m : Mach) (A : Access) (addr : Int) (ps : Parts) (sh width v : Nat) : Mach :=
  match A.eng with
  | none => (m.noteWrite A addr ps).writeAtHome ps sh width v
  | some e =>
    let m := m.useTlb A .write addr ps.size
    let g := m.engine e
    m.setEngine e { g with posts := g.posts ++ postsOf A addr sh width v 0 (accPieces ps) }

/-! ## Performing them -/

/-- Who performs a posted write. -/
def Mach.postAccess (m : Mach) (e : EngineId) : Access :=
  let g := m.engine e
  let b := match engineCore e with
    | some n => (m.core n.val).task
    | none => none
  { eng := some e, asid := g.asid, segs := g.segs, part := 0, own := (engineCore e).map (·.val), anyPart := false, bound := b, sys := false }

/-- Perform a posted write at its home. -/
def Mach.landOne (m : Mach) (e : EngineId) (p : Post) : Mach :=
  (m.noteWrite (m.postAccess e) p.addr p.parts).writeAtHome p.parts p.sh p.width p.val

/-- A place that a Harwald Link or the bus of the host reaches. -/
def onLink (key : Nat) : Bool := !isSp key && (decide (2 ^ 52 ≤ key) || key / 2 ^ 48 == 12)

/-- A write on the control/release channel (R124), which is held until every earlier write of its context has been acknowledged, on
any virtual channel (R125, R126). -/
def Post.release (p : Post) : Bool := p.vc == 2 && p.parts.any fun x => onLink x.1

/-- No earlier posted write of the engine must be performed first. -/
def Engine.first (g : Engine) (i : Nat) (p : Post) : Bool :=
  !(g.posts.take i).any fun q =>
    partsMeet q.parts p.parts || (q.ctx == p.ctx && (p.release || q.ordered g.segs p.vc (classAt g.segs p.addr) p.parts))

/-! ## Triples that come before an access (R111, R121, R122) -/

/-- The scratchpad offset of an entry of the emit pool (R349). -/
def poolOff (i : Nat) : Nat := 0x3F0000 + 16 * (i % 2048)

/-- The U segment of the emit check table that holds an address: base, length, operator (R348, R352). -/
def Core.emitSeg (c : Core) (a : Nat) : Option (Nat × Nat × Nat) :=
  if a < 2 ^ 47 then c.emitTab.find? fun s => decide (s.1 ≤ a) && decide (a < s.1 + s.2.1) else none

/-- The physical address of a target (R355). -/
def Engine.emitPa (g : Engine) (a : Nat) : Nat :=
  match segAt g.segs a with
  | some s => s.phys.toNat + (a - s.vbase)
  | none => 0

/-- The 16 bytes of an entry of the emit pool, written or on its way to the pool (R349, R353). -/
def Core.poolBytes (c : Core) (i : Nat) : Nat :=
  match c.emit.todo.find? fun x => x.1 == poolOff i with
  | some x => x.2
  | none => c.sp.rd (poolOff i) 16

/-- The element that the entry at a pool index updates, unless it is a continuation or its triple is accepted: place and length. -/
def Core.owedAt (c : Core) (g : Engine) (i : Nat) : Parts :=
  let e := c.poolBytes i
  let a := e % 2 ^ 48
  if e.testBit 51 || g.drain.flight.any (fun t => t.index == i && t.accepted) then []
  else [(g.emitPa a, updBytes (((c.emitSeg a).map (·.2.2)).getD 0))]

/-- Of the first `upd` entries that the core of an engine has written to its emit pool, one that no basin has accepted updates a byte
of some places. -/
def Mach.owesUpd (m : Mach) (e : EngineId) (upd : Nat) (ps : Parts) : Bool :=
  match engineCore e with
  | none => false
  | some n =>
    let c := m.core n.val
    let g := m.engine e
    (List.range (upd - c.emit.freed)).any fun i => partsMeet (c.owedAt g ((c.emit.oldest + i) % 2048)) ps

/-! ## Time slots (R21, R29-R31, R416) -/

/-- The slot-table entries whose ring clocks begin in a core clock (R21, R416). -/
def ringSlots (cyc : Nat) : List Nat :=
  (List.range ((4 * (cyc + 1) + 2) / 3 - (4 * cyc + 2) / 3)).map fun i => ((4 * cyc + 2) / 3 + i) % 64

/-- The slot table of an instance of a resource, when one is loaded. -/
def Mach.slotTable (m : Mach) (resource index : Nat) : Option SlotTable :=
  m.slotTabs.find? fun t => t.resource == resource && t.index == index

/-- The table of an instance serves a partition in a core clock (R416), unless the partition's entries are idle (R418); an instance
without a table serves every partition (notes/assumptions/17.md). -/
def Mach.slotServes (m : Mach) (resource index part cyc : Nat) : Bool :=
  match m.slotTable resource index with
  | none => true
  | some t => !(vget m.parts part Partition.init).idle && (ringSlots cyc).any fun i => ((t.entries[i]?).getD 0xFF).toNat == part

/-- The ring stop of a die (R29): 0-7 the ND, 8 and 9 the FD, any other KD. -/
def dieStop (die : Nat) : Nat :=
  if die < 4 then 2 * die + 2 else if die < 8 then 2 * die + 3 else if die == 8 then 9 else if die == 9 then 18 else 0

/-- The die at which an access of a place leaves the ring (R10, R29): its home's, the CXL ports' FD, or KD for the host and the links. -/
def placeDie (key : Nat) : Nat :=
  if isSp key then spCore key / 40
  else
    let home := key / 2 ^ 48
    if home < 10 then home else if home < 12 then home - 2 else 10

/-- The injection instance of the requests and posted writes from one stop to another (R29, R30, R416): ring A of the direction with fewer
hops; of each stop rings A0, B0, A1, B1 in this order (log entry 17). -/
def ringInstance (i j : Nat) : Option Nat :=
  if i == j then none else some (if 2 * ((j + 19 - i) % 19) < 19 then 4 * i else 4 * i + 2)

/-- The port that serves a place of memory, as resource and instance (R416): a pseudo-channel of an ND's HBM, or the LPDDR6 or a CXL port
of an FD. -/
def Mach.portOf (m : Mach) (key : Nat) : Option (Nat × Nat) :=
  if isSp key then none
  else
    let home := key / 2 ^ 48
    if home < 8 then some (1, 32 * home + (Config.pseudoChannel key).val)
    else if home < 10 then some (3, 5 * (home - 8))
    else if home < 12 then (m.cxl.find? fun c => decide (c.2.2.1 ≤ key) && decide (key < c.2.2.1 + c.2.2.2)).map fun c => (3, 5 * c.1 + 1 + c.2.1)
    else none

/-- The task that an engine serves, when it serves a core. -/
def Mach.boundOf (m : Mach) (e : EngineId) : Option Bound :=
  match engineCore e with
  | some n => (m.core n.val).task
  | none => none

/-- Some clock since a request was made injected it into its ring (R31, R416): a table repeats every 48 core clocks. -/
def Mach.injected (m : Mach) (e : EngineId) (part since cyc key : Nat) : Bool :=
  match ringInstance (dieStop (engineDie e)) (dieStop (placeDie key)) with
  | none => true
  | some i => (List.range (min 48 (cyc + 1 - since))).any fun d => m.slotServes 0 i part (cyc - d)

/-- The tables let a request of an engine, made at a clock, be served at a place (R416). -/
def Mach.slotOpen (m : Mach) (e : EngineId) (since cyc key : Nat) : Bool :=
  m.slotTabs.isEmpty || (match m.boundOf e with
    | none => true
    | some b =>
      let part := b.part.toNat
      m.injected e part since cyc key && (match m.portOf key with
        | some (r, i) => m.slotServes r i part cyc
        | none => true))

/-- The task with a tid. -/
def Mach.taskOf (m : Mach) (tid : Nat) : Option Task := m.tasks.find? (·.tid == tid)

/-- A task comes before another of its partition (R416): the higher priority, then the lower tid. -/
def Mach.taskBefore (m : Mach) (a b : Bound) : Bool :=
  let prio (x : Bound) : Nat := ((m.taskOf x.tid).map (·.prio)).getD 0
  a.part == b.part && (decide (prio b < prio a) || (prio a == prio b && decide (a.tid < b.tid)))

/-- At a port with a slot table, a write of a task that comes before an engine's waits and could be performed (R416; log entry 17). -/
def Mach.outranked (m : Mach) (e : EngineId) (cyc key : Nat) : Bool :=
  match m.boundOf e, m.portOf key with
  | some b, some port =>
    (m.slotTable port.1 port.2).isSome && (List.finRange 320).any fun n =>
      let f := EngineId.core n
      let g := m.engine f
      (m.boundOf f).any (m.taskBefore · b) && g.posts.zipIdx.any fun p =>
        (p.1.parts.any fun x => m.portOf x.1 == some port) && g.first p.2 p.1 && !m.owesUpd f p.1.upd p.1.parts &&
          p.1.parts.all fun x => m.injected f b.part.toNat p.1.born cyc x.1
  | _, _ => false

/-- The time slots, and the order of the tasks of a partition, let a request of an engine be served in this clock (R416). -/
def Mach.slotted (m : Mach) (e : EngineId) (since cyc : Nat) (ps : Parts) : Bool :=
  ps.all fun p => m.slotOpen e since cyc p.1 && !m.outranked e cyc p.1

/-! ## Positions (R26, R27) -/

/-- The wheel position of the clock may serve a transfer access of a core's scratchpad (R26, R27). -/
def Core.xferFree (c : Core) (cyc : Nat) : Bool := cyc % 4 == 0 && decide (c.pos.1 ≤ cyc)

/-- The place may be reached in this clock: a scratchpad only in a position of its core that is still free. -/
def Mach.placeFree (m : Mach) (cyc key : Nat) : Bool := !isSp key || (m.core (spCore key)).xferFree cyc

/-- The descriptors of the update regions that some places reach: an apply may set bits of STATUS there before the access returns
(R361, R364). -/
def Mach.statusPlaces (m : Mach) (ps : Parts) : Parts :=
  ps.filterMap fun p => (m.regionAt p.1).map fun r => (r.2.descAt + 0x38, 8)

/-- Every place may be reached in this clock, and every descriptor that the access may write. -/
def Mach.placesFree (m : Mach) (cyc : Nat) (ps : Parts) : Bool :=
  (ps ++ m.statusPlaces ps).all fun p => m.placeFree cyc p.1

/-- The position of the clock has served an access of a scratchpad for an engine (R26, R27). -/
def Mach.takePos (m : Mach) (cyc key : Nat) (e : EngineId) : Mach :=
  if isSp key then
    let c := m.core (spCore key)
    let m := m.setCore (spCore key) { c with pos := (cyc + 1, engineIndex e + 1) }
    m.setEngine e { m.engine e with posAt := cyc + 1 }
  else m

/-- The position of the clock serves an access of several places for an engine. -/
def Mach.takeAll (m : Mach) (cyc : Nat) (ps : Parts) (e : EngineId) : Mach := ps.foldl (fun m p => m.takePos cyc p.1 e) m

/-- An access of an engine may be served in this clock (R26, R27): one access in each position, each scratchpad in a position that is
free. -/
def Mach.served (m : Mach) (A : Access) (e : EngineId) (ps : Parts) : Bool :=
  (ps.all fun p => !isSp p.1 || decide ((m.engine e).posAt ≤ A.now)) && m.placesFree A.now ps

/-- A command whose elements have all been issued has had its last write performed: its context takes the next number in the
engine's order of such commands (R120). -/
def Mach.noteDone (m : Mach) (e : EngineId) (ctx id : Nat) : Mach :=
  let g := m.engine e
  let x := vget g.ctxs ctx Ctx.init
  if (x.cmd.any fun c => c.id == id) || g.posts.any fun p => p.ctx == ctx && p.id == id then m
  else m.setEngine e { g with doneSeq := g.doneSeq + 1, ctxs := vset g.ctxs ctx { x with doneNo := g.doneSeq + 1 } }

/-- Perform the `i`-th posted write of an engine, when its turn has come. -/
def Mach.land (m : Mach) (cyc : Nat) (e : EngineId) (i : Nat) : Mach :=
  let g := m.engine e
  match g.posts[i]? with
  | none => m
  | some p =>
    if g.first i p && m.placesFree cyc p.parts && !m.owesUpd e p.upd p.parts && m.slotted e p.born cyc p.parts then
      (((m.setEngine e { g with posts := g.posts.eraseIdx i }).landOne e p).takeAll cyc (p.parts ++ m.statusPlaces p.parts) e).noteDone e p.ctx
        p.id
    else m

/-! ## What a scope waits for (R109, R116) -/

/-- A posted write that must be performed before the writes of an engine are performed at a scope: at core scope those to the
scratchpad of the core it serves; at die scope those to homes of the die; at package scope those to homes of the package; at
fabric scope all. -/
def Post.awaited (e : EngineId) (scope : Nat) (p : Post) : Bool :=
  p.parts.any fun x =>
    match scope with
    | 0 => isSp x.1 && (match engineCore e with
      | some n => spCore x.1 == n.val
      | none => false)
    | 1 => if isSp x.1 then spCore x.1 / 40 == engineDie e else x.1 / 2 ^ 48 == engineDie e
    | 2 => isSp x.1 || decide (x.1 < 12 * 2 ^ 48)
    | _ => true

/-- A command of a context still has writes that a scope waits for. -/
def Engine.cmdOut (g : Engine) (e : EngineId) (scope ctx id : Nat) : Bool :=
  g.posts.any fun p => p.ctx == ctx && p.id == id && p.awaited e scope

/-- A context still has writes that a scope waits for. -/
def Engine.ctxOut (g : Engine) (e : EngineId) (scope ctx : Nat) : Bool := g.posts.any fun p => p.ctx == ctx && p.awaited e scope

/-- A posted write happens before a release (R110, R111, R117): of a context one of its own, and of any agent of the core one whose command
is complete. -/
def Post.beforeRelease (p : Post) (own : Option Nat) : Bool := own == some p.ctx || p.done.isSome

/-- What happens before a release of an engine's context `own`, or of its core's X, has writes that a scope waits for: the engine's own,
and of the other engines those that a release of a narrower scope has already covered (R110). -/
def Mach.releaseOut (m : Mach) (e : EngineId) (own : Option Nat) (scope : Nat) : Bool :=
  ((m.engine e).posts.any fun p => p.beforeRelease own && p.awaited e scope) ||
    m.engines.toList.any fun g => g.posts.any fun p => p.told && p.awaited e scope

/-- A release at a scope beyond the core has come after these writes: whoever acquires it has them before it too (R110). -/
def Mach.tell (m : Mach) (e : EngineId) (own : Option Nat) (scope : Nat) : Mach :=
  if scope == 0 then m
  else
    let g := m.engine e
    m.setEngine e { g with posts := g.posts.map fun p => { p with told := p.told || p.beforeRelease own } }

/-- A command completes (R257): its posted writes happen before what comes after its completion, and before the entries that its core
writes to the emit pool from now on (R111). -/
def Mach.noteComplete (m : Mach) (e : EngineId) (ctx id : Nat) : Mach :=
  let g := m.engine e
  let written := match engineCore e with
    | some n => (m.core n.val).emit.written
    | none => 0
  m.setEngine e { g with posts := g.posts.map fun p => if p.ctx == ctx && p.id == id then { p with done := some written } else p }

end Sys2Proof.Machine
end

