-- ==== Sys2Proof/Machine/Ops.lean ====
section
/-!
DEFINITION. Machine/Ops.lean: the operations every meaning is written with: how a step acts on the machine or on one core,
registers and predicates, semaphores, events, the end of a task (R139, R140), taking a trap (R136-R138) and returning
from one (R138, R194).
-/

namespace Sys2Proof.Machine

abbrev Out := Host.Outcome State Fault Refusal

/-- A step that acts on the machine and on nothing else of the state. -/
def onMach (s : State) (f : Ctl → Mach → Mach) : Out := .next { s with mc := f s.ctl s.mc }

/-- A step that acts on the core it runs on. -/
def onCore (s : State) (f : Ctl → Core → Core) : Out :=
  onMach s fun c m => m.setCore c.cur.val (f c (m.core c.cur.val))

/-! ## Registers -/

/-- A scalar register; s0 reads as zero (R143). -/
def XState.getS (x : XState) (r : SReg) : W64 := if r == 0 then 0 else vget x.s r.toNat 0

/-- Write a scalar register; a write to s0 is discarded (R143). -/
def XState.setS (x : XState) (r : SReg) (v : W64) : XState := if r == 0 then x else { x with s := vset x.s r.toNat v }

/-- A predicate of a bank of eight; p7 reads as 1 (R144, R198). -/
def getPred (p : BitVec 8) (r : PReg) : Bool := r == 7 || p.getLsbD r.toNat

/-- Write a predicate; a write to p7 is discarded (R144, R198). -/
def setPred (p : BitVec 8) (r : PReg) (b : Bool) : BitVec 8 :=
  if r == 7 then p
  else if b then p ||| (1 : BitVec 8) <<< r.toNat else p &&& ~~~((1 : BitVec 8) <<< r.toNat)

/-- A guard under a bank of predicates (R38). -/
def guardHolds (g : Guard) (p : BitVec 8) : Bool := getPred p g.pred != g.neg

/-- A k register; k0 reads as zero (R198). -/
def VState.getK (v : VState) (r : Nat) : W64 := if r == 0 then 0 else vget v.k r 0

/-- Write a k register; a write to k0 is discarded (R198). -/
def VState.setK (v : VState) (r : Nat) (x : W64) : VState := if r == 0 then v else { v with k := vset v.k r x }

/-- The vector sequencer of a name. -/
def Core.vs (c : Core) : VSeq → VState
  | .l => c.l
  | .c => c.c
  | .s => c.s

/-- The core with a vector sequencer replaced. -/
def Core.setVs (c : Core) (q : VSeq) (v : VState) : Core :=
  match q with
  | .l => { c with l := v }
  | .c => { c with c := v }
  | .s => { c with s := v }

/-- A mask register; m7 reads as all ones (R47, R231). -/
def Core.getM (c : Core) (n : Nat) : Mask := if n == 7 then BitVec.allOnes 1024 else vget c.m n 0

/-- Write a mask register; a write to m7 is discarded. -/
def Core.setM (c : Core) (n : Nat) (x : Mask) : Core := if n == 7 then c else { c with m := vset c.m n x }

/-- A tile register. -/
def Core.tile (c : Core) (n : Nat) : Tile := vget c.v n (tab 1024 fun _ => 0)

/-- The core with a tile register replaced. -/
def Core.setTile (c : Core) (n : Nat) (t : Tile) : Core := { c with v := vset c.v n t }

/-- An accumulator. -/
def Core.accum (c : Core) (n : Nat) : Acc := vget c.z n (tab 4096 fun _ => 0)

/-- A lane of a tile. -/
def lane (t : Tile) (i : Nat) : W32 := vget t i 0

/-- The load counter: the scalar loads that are outstanding (R145). -/
def XState.lc (x : XState) : Nat :=
  (x.pend.filter fun p => match p with
    | .load _ _ _ _ _ => true
    | .skip _ _ => true
    | _ => false).length

/-- Clear bits [1:0] of a target (R36). -/
def align4 (a : W32) : W32 := a &&& 0xFFFFFFFC#32

/-! ## Semaphores (R24, R179) -/

/-- The value of a semaphore of a core. -/
def Core.sem (c : Core) (i : Nat) : W64 := BitVec.ofNat 64 (c.sp.rd (0x3E0000 + 8 * i) 8)

/-- Write a semaphore of a core. -/
def Core.setSem (c : Core) (i : Nat) (v : W64) : Core := { c with sp := c.sp.wr (0x3E0000 + 8 * i) 8 v.toNat }

/-- Add to the semaphore at a place. -/
def Mach.addSem (m : Mach) (key : Nat) (v : W64) : Mach :=
  m.wr key 8 (BitVec.ofNat 64 (m.rd key 8) + v).toNat

/-! ## Events (R410) -/

/-- Report an event with what a suspension adds (R271, R410), and send PF vector 0. -/
def Mach.reportMore (m : Mach) (code : Byte) (part tid : Nat) (addr : W64) (more : EventMore) : Mach :=
  { m with
    events := m.events ++ [⟨code, part, tid, addr, m.nextSeq, more⟩]
    msgs := m.msgs ++ [⟨none, 0, m.nextSeq⟩]
    nextSeq := m.nextSeq + 1 }

/-- Report an event to system software and send PF vector 0 (R410). -/
def Mach.report (m : Mach) (code : Byte) (part tid : Nat) (addr : W64) : Mach := m.reportMore code part tid addr ⟨0, 0, 0⟩

/-- Send a message to a VM (R411), unless a reset of the partition suppresses it (R419). -/
def Mach.sendVm (m : Mach) (part vm vec : Nat) : Mach :=
  if (vget m.parts part Partition.init).resetting then m
  else { m with msgs := m.msgs ++ [⟨some vm, vec, m.nextSeq⟩], nextSeq := m.nextSeq + 1 }

/-! ## Tasks -/

/-- The machine with one task changed. -/
def Mach.mapTask (m : Mach) (tid : Nat) (f : Task → Task) : Mach :=
  { m with tasks := m.tasks.map fun t => if t.tid == tid then f t else t }

/-- A MOORED task with no unmet dependence is READY (R386, R391). -/
def Task.settle (t : Task) : Task := if t.st == .moored && t.after.isEmpty then { t with st := .ready } else t

/-- A task that holds a mooring (R386): a replay has left its mooring (R402). -/
def Task.holdsMooring (t : Task) : Bool := (t.st == .moored || t.st == .ready) && !t.replay

/-- A task leaves its mooring, if it holds one (R386, R388). -/
def Mach.unmoor (m : Mach) (t : Task) : Mach := if t.holdsMooring then { m with unmoored := m.unmoored + 1 } else m

/-- Forget the holds of a task on renamed sets (R392): a set without a holder is dropped, or copied first when its
latest version is not 0. -/
def Mach.dropHolds (m : Mach) (tid : Nat) : Mach :=
  let upd (s : RenSet) : Option RenSet :=
    let h := s.holders.filter fun p => p.2 != tid
    if h.length == s.holders.length then some s
    else if h.isEmpty then (if s.latest == 0 then none else some { s with holders := [], copying := true })
    else some { s with holders := h }
  { m with sets := m.sets.filterMap upd }

/-- A task leaves the dependence table (R391), and its mooring if it still holds one: its dependants no longer wait for it. -/
def Mach.dropTask (m : Mach) (tid : Nat) : Mach :=
  let m := ((m.taskOf tid).map m.unmoor).getD m
  let m := m.dropHolds tid
  { m with tasks := (m.tasks.filter fun t => t.tid != tid).map fun t =>
      ({ t with after := t.after.filter (· != tid), behind := t.behind.filter (· != tid) }).settle }

/-- A position of the clock serves an access of a scratchpad that no engine makes (R26). -/
def Mach.takeFree (m : Mach) (cyc key : Nat) : Mach :=
  if isSp key then m.setCore (spCore key) { m.core (spCore key) with pos := (cyc + 1, 0) } else m

/-- Positions of the clock serve an access of several places that no engine makes. -/
def Mach.takeFrees (m : Mach) (cyc : Nat) (ps : Parts) : Mach := ps.foldl (fun m p => m.takeFree cyc p.1) m

/-- An access without an engine waits: for a page that is being moved (R377), or for a position of a scratchpad that it reaches (R26). -/
def Mach.accessHeld (m : Mach) (cyc : Nat) (A : Access) (k : AccKind) (a : W64) (n : Nat) : Bool :=
  match m.resolve A k a n with
  | .ok ps => !m.placesFree cyc ps
  | .miss _ => true
  | _ => false

/-- The places of scratchpads that an access without an engine reaches, with the descriptors of the regions it reaches. -/
def Mach.accessPlaces (m : Mach) (A : Access) (k : AccKind) (a : W64) (n : Nat) : Parts :=
  match m.resolve A k a n with
  | .ok ps => (ps ++ m.statusPlaces ps).filter fun p => isSp p.1
  | _ => []

/-- Write the status record of a task (R140): STATE, CODE, SRC, PC, INFO0, INFO1, TICKS. A write that faults is reported
and the record is left unwritten. -/
def Mach.statusRecord (m : Mach) (cyc part asid tid : Nat) (ext : W64) (state : Nat) (t : TrapRegs) (ticks : Nat) : Mach :=
  let v := state + t.tcause.toNat * 2 ^ 8 + t.tsrc.toNat * 2 ^ 16 + t.tepc.toNat * 2 ^ 32 + t.tinfo0.toNat * 2 ^ 64 +
    t.tinfo1.toNat * 2 ^ 128 + ticks % 2 ^ 64 * 2 ^ 192
  let ps := m.accessPlaces (Access.system asid part) .write (ext + 0x10) 48
  match m.writeAt (Access.system asid part) (ext + 0x10) 48 v with
  | (m, none) => m.takeFrees cyc ps
  | (m, some x) => m.report x.code part tid (ext + 0x10)

/-- The write of a status record waits (R26, R377). -/
def Mach.recordWaits (m : Mach) (cyc part asid : Nat) (ext : W64) : Bool :=
  m.accessHeld cyc (Access.system asid part) .write (ext + 0x10) 48

/-- The write of a core's task's status record waits. -/
def Mach.recordHeld (m : Mach) (cyc : Nat) (b : Bound) : Bool := m.recordWaits cyc b.part.toNat b.asid.toNat b.desc.ext

/-- The place of the semaphore that DONESEM names (R399). -/
def doneKey (doneSem : W64) : Nat := spKey (40 * gDie doneSem + gCore doneSem) (gOff doneSem)

/-- The retirement increment may be made in this clock: in a position of its semaphore's core (R24, R26). -/
def Mach.mayIncrement (m : Mach) (cyc : Nat) (doneSem : W64) (tag : Nat × Nat) : Bool :=
  doneSem == 0 || m.incTags.contains tag || m.placeFree cyc (doneKey doneSem)

/-- The retirement increment (R383, R399): add 1 to the semaphore that DONESEM names, once for each tag of tid and bind number; 0
names none. -/
def Mach.retireIncrement (m : Mach) (cyc : Nat) (doneSem : W64) (tag : Nat × Nat) : Mach :=
  if doneSem == 0 || m.incTags.contains tag then m
  else ({ m with incTags := m.incTags ++ [tag] }.addSem (doneKey doneSem) 1).takeFree cyc (doneKey doneSem)

/-- The tag of a task's retirement increment (R383). -/
def Mach.incTag (m : Mach) (tid : Nat) : Nat × Nat := (tid, ((m.taskOf tid).map (·.binds)).getD 0)

/-- What a core keeps for the fast path when its task leaves it (R398). -/
def Bound.key (b : Bound) : WarmKey :=
  ⟨b.desc.codeBase, b.desc.codeLen, b.desc.moveOff, b.desc.segTab, b.desc.segCnt, b.asid⟩

/-- The core is freed: no task, nothing issued, contexts free and emptied (R270). What it keeps for the fast path was
set at its last full bind (R398). -/
def Mach.freeCore (m : Mach) (n : Nat) : Mach :=
  let c := m.core n
  let m := m.setCore n { c with
    task := none
    x := { c.x with wait := none, launch := none, fsc := none, fscWait := [], descGot := none, pend := [] }
    l := { c.l with wait := none, loop := none, acc := none, ext := none }
    c := { c.c with wait := none, loop := none, acc := none, ext := none }
    s := { c.s with wait := none, loop := none, acc := none, store := none, ext := none }
    mat := { MatEng.init with lastBusy := c.mat.lastBusy, idle := c.mat.idle }
    emit := { EmitState.init with written := c.emit.written, freed := c.emit.freed } }
  if h : n < 320 then
    let e := EngineId.core ⟨n, h⟩
    let g := m.engine e
    let m := m.setEngine e { g with ctxs := tab 4 fun _ => Ctx.init, invq := [], drain := Drain.init }
    { m with
      preReqs := m.preReqs.filter (· != n)
      swapSince := vset m.swapSince n none
      slots := vset m.slots n { vget m.slots n BindRec.init with valid := false, waitVa := none, since := none, run := BindRun.init, failed := none } }
  else m

/-- Nothing that the end of a core's task waits for is open (R116, R139, R140): the writes of its engine have been performed, its status
record can be written (R377), its increment can be made in this clock. -/
def Mach.mayEnd (m : Mach) (cyc : Nat) (n : Fin 320) (b : Bound) : Bool :=
  (m.engine (.core n)).posts.isEmpty && !m.recordHeld cyc b && m.mayIncrement cyc b.desc.doneSem (m.incTag b.tid)

/-- End the task of a core: status record, retirement increment, the dependence table, the core (R134, R139, R140). -/
def Mach.endTask (m : Mach) (k : Ctl) (n : Nat) (b : Bound) (state : Nat) (t : TrapRegs) : Mach :=
  let before := ((m.taskOf b.tid).map (·.ticks)).getD 0
  let m := m.statusRecord k.cyc b.part.toNat b.asid.toNat b.tid b.desc.ext state t (before + (k.tick - b.tick0))
  let m := m.retireIncrement k.cyc b.desc.doneSem (m.incTag b.tid)
  (m.freeCore n).dropTask b.tid

/-- The trap registers of a task that retires: CODE, SRC, PC and INFO of its record are zero (R140). -/
def TrapRegs.none : TrapRegs := TrapRegs.init

/-! ## Traps -/

/-- The trap CSRs that a trap writes (R138). -/
def Trap.regs (t : Trap) : TrapRegs := ⟨t.code, t.src, t.pc, t.info0, t.info1, true⟩

/-- The core's task is replayable no longer (R142). -/
def Core.notReplayable (c : Core) : Core := { c with task := c.task.map fun b => { b with replayable := false } }

/-- An accepted LAUNCH whose result is written has been performed: it ends the task's replayability (R142, R402; log entry 29). -/
def Core.launchDone (c : Core) : Core := if c.x.launch.any fun r => r.value.toNat % 256 == 0 then c.notReplayable else c

/-- Write a LAUNCH result that is outstanding, and go past the word (R189, R400). -/
def XState.takeLaunch (x : XState) : XState :=
  match x.launch with
  | none => x
  | some r => { x.setS r.d r.value with
      launch := none, wait := none, p := setPred x.p r.rp (r.value.toNat % 256 == 0), pc := x.pc + 8 }

/-- The value a load of `n` bytes gives (R174). -/
def loadValue (sp : Cells) (addr n : Nat) (sx : Bool) : W64 :=
  let v := sp.rd addr n
  if sx then (BitVec.ofNat (8 * n) v).signExtend 64 else BitVec.ofNat 64 v

/-- A store of X: discarded in the semaphore area (R24, R176). -/
def storeX (sp : Cells) (addr n : Nat) (v : W64) : Cells :=
  if inSemArea addr n then sp else sp.wr addr n v.toNat

/-- Write bits of a scratchpad. -/
def BitWrite.apply (sp : Cells) (w : BitWrite) : Cells := sp.wr w.addr w.len (putBits (sp.rd w.addr w.len) w.sh w.width w.val)

/-- The bits that one position of a store writes. -/
def applyChunk (sp : Cells) (ws : List BitWrite) : Cells := ws.foldl BitWrite.apply sp

/-- A store of S is finished (R149). -/
def Core.endStore (c : Core) (r : StoreRun) : Core :=
  { c with s := { c.s with store := none, fsrNew := c.s.fsrNew ||| r.flags.setWidth 64 } }

/-- A wheel position of S: the store in progress writes the next of its chunks (R26, R27, R205). -/
def Core.serveStore (c : Core) : Core :=
  match c.s.store with
  | none => c
  | some r =>
    match r.chunks with
    | [] => c.endStore r
    | [w] => { c with sp := applyChunk c.sp w }.endStore r
    | w :: ws => { c with sp := applyChunk c.sp w, s := { c.s with store := some { r with chunks := ws } } }

/-- Write entries of the emit pool at their scratchpad offsets (R349, R353). -/
def putPool (sp : Cells) (es : List (Nat × Nat)) : Cells := es.foldl (fun sp e => sp.wr e.1 16 e.2) sp

/-- A wheel position of C: the UPD in progress writes up to 256 of its entries (R353). -/
def Core.serveEmit (c : Core) : Core :=
  { c with sp := putPool c.sp (c.emit.todo.take 256), emit := { c.emit with todo := c.emit.todo.drop 256 } }

/-- The flags and tags that hardware raised in this clock reach their registers (R149, R182). -/
def Core.mergeNew (c : Core) : Core :=
  { c with
    tagr := c.tagr ||| c.tagNew
    tagNew := 0
    x := { c.x with fsr := c.x.fsr ||| c.x.fsrNew, fsrNew := 0 }
    l := { c.l with fsr := c.l.fsr ||| c.l.fsrNew, fsrNew := 0 }
    c := { c.c with fsr := c.c.fsr ||| c.c.fsrNew, fsrNew := 0 }
    s := { c.s with fsr := c.s.fsr ||| c.s.fsrNew, fsrNew := 0 } }

/-- The sequencers stop (R136 step 1): a word blocked in a wait is treated as not issued (R178), as is a load that has not read all that it
reads (notes/assumptions/36.md), and as is a wait whose ring extension is decided and not yet linked, so that none is linked until a new
limit (R224; DESIGN CHOICE, notes/assumptions/35.md); a LAUNCH past its step 2 completes (R400). Words that have issued go on: X's accesses, the store of
S, the entries of C's UPD, and the matrix words (R334). -/
def Core.stopSeqs (c : Core) : Core :=
  { c.launchDone with
    x := { c.x.takeLaunch with wait := none, fsc := none, fscWait := [], descGot := none }
    l := { c.l with wait := none, acc := none, ext := none }
    c := { c.c with wait := none, acc := none, ext := none }
    s := { c.s with wait := none, acc := none, ext := none } }

/-- Every word that has issued is complete: X's accesses, the store of S, the entries of C's UPD, and the matrix words that need no fill
(R136, R334). -/
def Core.wordsDone (c : Core) : Bool := c.x.pend.isEmpty && c.s.store.isNone && c.emit.todo.isEmpty && c.matQuiet

/-- At most 8 engines of a die leave idle in one window of 64 ns, a lock cycle (R34). -/
def Mach.mayStart (m : Mach) (die cyc : Nat) : Bool :=
  let (win, n) := vget m.starts die (0, 0)
  decide (win < cyc / 96) || (win == cyc / 96 && decide (n < 8))

/-- One more engine of a die leaves idle, in the first window that still takes one (R34). -/
def Mach.noteStart (m : Mach) (die cyc : Nat) : Mach :=
  let (win, n) := vget m.starts die (0, 0)
  let next := if win < cyc / 96 then (cyc / 96, 1) else if n < 8 then (win, n + 1) else (win + 1, 1)
  { m with starts := vset m.starts die next }

/-- Enter handler mode at HANDLER (R136 steps 4 and 5); X's next word issues in the next clock (R151). -/
def Core.enterHandler (c : Core) (cyc : Nat) (b : Bound) (t : Trap) : Core :=
  { c with
    trap := t.regs
    xret := c.x.pc
    x := { c.x with pc := BitVec.ofNat 32 (4 * b.desc.handler), ready := cyc + 1 }
    task := some { b with vstop := true } }

/-- A trap that has been raised is taken (R136, R139, R151): the handler is entered once every earlier access of X is complete; a task
that is to be terminated ends once every word that has issued is complete and nothing else of its end is open. -/
def Mach.endStop (m : Mach) (k : Ctl) (n : Fin 320) : Mach :=
  let c := m.core n.val
  match c.task with
  | none => m
  | some b =>
    match b.stop with
    | none => m
    | some ⟨t, true⟩ => if c.wordsDone && m.mayEnd k.cyc n b then m.endTask k n.val b 2 t.regs else m
    | some ⟨t, false⟩ => if c.x.pend.isEmpty then m.setCore n.val (c.enterHandler k.cyc { b with stop := none } t) else m

/-- A trap is raised on core `n`: the sequencers stop, the contexts too when the task is to be terminated (R139), and the trap is taken as
soon as it can be. -/
def Mach.stopTask (m : Mach) (k : Ctl) (n : Fin 320) (t : Trap) (ends : Bool) : Mach :=
  let c := m.core n.val
  match c.task with
  | none => m
  | some b =>
    if b.stop.any fun x => x.ends || !ends then m
    else
      let d := c.stopSeqs
      (m.setCore n.val { d with
        task := d.task.map fun b => { b with vstop := true, running := b.running && !ends, stop := some ⟨t, ends⟩ } }).endStop k n

/-- Take a trap on core `n` (R136, R139): the task is terminated when it has no handler or when X traps in handler
mode; otherwise X continues at HANDLER. A transfer fault's `tepc` is X's next word. -/
def Mach.takeTrap (m : Mach) (k : Ctl) (n : Fin 320) (t : Trap) : Mach :=
  let c := m.core n.val
  match c.task with
  | none => m
  | some b =>
    let t := if 4 ≤ t.src.toNat then { t with pc := c.x.takeLaunch.pc } else t
    m.stopTask k n t (b.desc.handler == 0xFFFF || (t.src == 0 && c.trap.hm))

/-- A transfer fault is pending in some context of the core's engine (R138 PEND): what the context wrote before it has been performed
(R107). -/
def Engine.pendFault (g : Engine) : Option (Nat × PendFault) :=
  (List.range 4).findSome? fun i =>
    if g.posts.any fun p => p.ctx == i then none else ((vget g.ctxs i Ctx.init).fault).map fun f => (i, f)

/-- X issues no word while a transfer fault waits for its next instruction boundary (R135, R136). -/
def Mach.xGated (m : Mach) (n : Fin 320) : Bool := (m.engine (.core n)).pendFault.isSome && !(m.core n.val).trap.hm

/-- Deliver the first pending transfer fault of a core's contexts, unless the task is in handler mode (R136). -/
def Mach.deliverFault (m : Mach) (k : Ctl) (n : Fin 320) : Mach :=
  let e := EngineId.core n
  let g := m.engine e
  if (m.core n.val).trap.hm || (m.core n.val).task.all (·.stop.isSome) then m
  else
    match g.pendFault with
    | none => m
    | some (i, f) =>
      let x := vget g.ctxs i Ctx.init
      let m := m.setEngine e { g with ctxs := vset g.ctxs i { x with fault := none } }
      m.takeTrap k n ⟨f.code, BitVec.ofNat 3 (4 + i), 0, f.info0, f.info1⟩

/-- Return from the handler (R138, R194): HM clears; X's next word issues in the next clock (R151); a tile step that waits for a
fill restarts its limit (R136); the sequencer that tsrc names resumes at tepc, every other one where it stopped; a context whose
fault was handled becomes free (R270); where a handler skips the last word of a LOOPN body, X or the sequencer goes on after the body and
the remaining passes are lost (R138, R230; DESIGN CHOICE, notes/assumptions/35.md); L, C and S stay stopped once DONE has issued (R134); a pending transfer fault is
delivered before anything resumes. -/
def Mach.trapReturn (m : Mach) (k : Ctl) (n : Fin 320) : Mach :=
  let c := m.core n.val
  let src := c.trap.tsrc.toNat
  let at0 := align4 c.trap.tepc
  let c := { c with trap := { c.trap with hm := false }, x := { c.x with pc := c.xret, ready := k.cyc + 1 } }
  let c := match src with
    | 1 => { c with l := { c.l with pc := at0 } }
    | 2 => { c with c := { c.c with pc := at0 } }
    | 3 => { c with s := { c.s with pc := at0 } }
    | _ => { c with x := { c.x with pc := at0 } }
  let c := { c with
    task := c.task.map fun b => { b with vstop := b.doneIssued }
    mat := { c.mat with run := c.mat.run.map fun r => { r with since := k.cyc } } }
  let m := m.setCore n.val c
  let e := EngineId.core n
  let g := m.engine e
  let m := if 4 ≤ src then
      let x := vget g.ctxs (src - 4) Ctx.init
      if x.st == .stopped && x.fault.isNone then
        m.setEngine e { g with ctxs := vset g.ctxs (src - 4) { Ctx.init with flight := x.flight, ending := !x.flight.isEmpty } }
      else m
    else m
  m.deliverFault k n

end Sys2Proof.Machine
end

