-- ==== Sys2Proof/Machine/XMem.lean ====
section
/-!
DEFINITION. Machine/XMem.lean: how X's scalar accesses are served (R145, R173-R176, R180) and the wheel positions of the
sequencers (R26).
-/

namespace Sys2Proof.Machine

/-- The clock is one of a sequencer's wheel positions (R26): L 1 and 5, S 2, X 6 of even turns, C 6 of odd turns. -/
def atPosition (q : SeqName) (cyc : Nat) : Bool :=
  match q with
  | .l => cyc % 8 == 1 || cyc % 8 == 5
  | .s => cyc % 8 == 2
  | .x => cyc % 8 == 6 && cyc / 8 % 2 == 0
  | .c => cyc % 8 == 6 && cyc / 8 % 2 == 1

/-- The bank of an offset (R25). -/
def bankOf (off : Nat) : Nat := off / 64 % 64

/-- A scalar load or store's offset: modulo 4 MiB, low bits cleared to the natural alignment (R174, R176). -/
def scalarOff (base : W64) (off : BitVec 16) (n : Nat) : Nat :=
  (base + off.signExtend 64).toNat % 2 ^ 22 / n * n

/-- Bytes of a size code (R174). -/
def sizeBytes (c : BitVec 2) : Nat := 2 ^ c.toNat

/-- The bank that an access still to be served needs; none for an access that needs no bank now. -/
def Posted.bank : Posted → Option Nat
  | .load _ a _ _ none => some (bankOf a)
  | .store a _ _ => some (bankOf a)
  | _ => none

/-- Serve one load or store (R173): a load's value is ready four clocks later; a store leaves the list. -/
def serveOne (cyc : Nat) (sp : Cells) : Posted → Cells × Option Posted
  | .load d a n sx none => (sp, some (.load d a n sx (some (loadValue sp a n sx, cyc + 4))))
  | .store a n v => (storeX sp a n v, none)
  | p => (sp, some p)

/-- Serve up to `k` pending loads and stores in program order, ending before one whose bank is used or before a
semaphore operation (R173). -/
def serveList (cyc : Nat) : Nat → List Nat → Cells → List Posted → Cells × List Posted
  | _, _, sp, [] => (sp, [])
  | 0, _, sp, ps => (sp, ps)
  | k + 1, used, sp, p :: ps =>
    match p with
    | .semadd _ _ => (sp, p :: ps)
    | _ =>
      match p.bank with
      | none =>
        let (sp', ps') := serveList cyc (k + 1) used sp ps
        (sp', p :: ps')
      | some b =>
        if used.contains b then (sp, p :: ps)
        else
          let (sp1, r) := serveOne cyc sp p
          let (sp', ps') := serveList cyc k (b :: used) sp1 ps
          (sp', match r with
            | some x => x :: ps'
            | none => ps')

/-- The first access that is still to be served is a semaphore operation: it takes the position alone (R173). -/
def serveSem (sp : Cells) : List Posted → Option (Cells × List Posted)
  | [] => none
  | .semadd i v :: ps =>
    some (sp.wr (0x3E0000 + 8 * i) 8 (BitVec.ofNat 64 (sp.rd (0x3E0000 + 8 * i) 8) + v).toNat, ps)
  | p :: ps =>
    match p.bank with
    | some _ => none
    | none => (serveSem sp ps).map fun r => (r.1, p :: r.2)

/-- X's position: one access (R173). -/
def Core.serveX (c : Core) (cyc : Nat) : Core :=
  match serveSem c.sp c.x.pend with
  | some (sp, ps) => { c with sp := sp, x := { c.x with pend := ps } }
  | none =>
    let (sp, ps) := serveList cyc 8 [] c.sp c.x.pend
    { c with sp := sp, x := { c.x with pend := ps } }

/-- The access has not been served. -/
def Posted.unserved : Posted → Bool
  | .load _ _ _ _ none => true
  | .store _ _ _ => true
  | .semadd _ _ => true
  | _ => false

/-- Every access of X has been served. -/
def XState.drained (x : XState) : Bool := !x.pend.any Posted.unserved

/-- A register whose load is outstanding: words that read or write it wait (R151). -/
def XState.busy (x : XState) (r : SReg) : Bool :=
  r != 0 && x.pend.any fun p => match p with
    | .load d _ _ _ _ => d == r
    | _ => false

/-- The oldest load, when it completes now, with its value, and the accesses that are left: loads complete in issue order (R174), a
served load four clocks after its position (R173), one with a false guard in the clock after the later of its issue + 4 and the
completion, at `last`, of the load before it (R175). -/
def loadDue (cyc last : Nat) : List Posted → Option (SReg × Option W64 × List Posted)
  | [] => none
  | .load d _ _ _ (some (v, t)) :: ps => if t ≤ cyc then some (d, some v, ps) else none
  | .load _ _ _ _ none :: _ => none
  | .skip d t :: ps => if t + 4 < cyc && last < cyc then some (d, none, ps) else none
  | p :: ps => (loadDue cyc last ps).map fun r => (r.1, r.2.1, p :: r.2.2)

/-- The load of X that completes now (R173-R175). -/
def XState.loadDone (x : XState) (cyc : Nat) : Option (SReg × Option W64 × List Posted) := loadDue cyc x.lastDone x.pend

end Sys2Proof.Machine
end

