-- ==== Sys2Proof/Machine/Flags.lean ====
section
/-!
DEFINITION. Machine/Flags.lean: the floating-point control and status registers (R75-R77, R147, R148), the enabled-flag trap
(R162), predicates of comparisons (R158), and the trap codes that sequencers raise (R135).
-/

namespace Sys2Proof.Machine

def trIllegal : Byte := 0x01
def trPrivileged : Byte := 0x02
def trSoftware : Byte := 0x03
def trStreamBound : Byte := 0x10
def trFibreOrder : Byte := 0x11
def trShapeInvalid : Byte := 0x12
def trStreamClosed : Byte := 0x13
def trLoopBody : Byte := 0x14
def trFpEnabled : Byte := 0x20
def trWaitTimeout : Byte := 0x40
def trRingFaulted : Byte := 0x41
def trSemRange : Byte := 0x42
def trRingRange : Byte := 0x43
def trRingState : Byte := 0x44
def trCapacity : Byte := 0x83
def trCompact : Byte := 0x84
def trUpdTarget : Byte := 0xA0
def trUpdType : Byte := 0xA1
def trLaunchDepth : Byte := 0xC0

/-- RM of an `fcr` (R147). -/
def fcrRm (f : W64) : Rm := Rm.ofCode (f.toNat % 8)

/-- FZ of an `fcr`. -/
def fcrFz (f : W64) : Bool := f.getLsbD 3

/-- DZ of an `fcr`. -/
def fcrDz (f : W64) : Bool := f.getLsbD 4

/-- An enabled flag is raised (R162). -/
def fpTraps (fcr : W64) (f : Flags) : Bool := (f.setWidth 5 &&& fcr.extractLsb' 5 5) != 0

/-- OR flags into an `fsr` (R148: hardware only sets them). -/
def orFsr (fsr : W64) (f : Flags) : W64 := fsr ||| f.setWidth 64

/-- The value an `fcr` takes when `v` is written: reserved bits stay zero, RM codes 5-7 leave RM (R147). -/
def writeFcr (old v : W64) : W64 :=
  if 5 ≤ v.toNat % 8 then (v &&& 0x3F8) ||| (old &&& 7) else v &&& 0x3FF

/-- The value an `fsr` takes when `v` is written (R148). -/
def writeFsr (v : W64) : W64 := v &&& 0x3F

/-- A comparison of integers (R157): EQ, NE, LT, GE signed, LTU, GEU. -/
def intCond (cond : Nat) (a b : W64) : Bool :=
  match cond with
  | 0 => a == b
  | 1 => a != b
  | 2 => a.slt b
  | 3 => !a.slt b
  | 4 => a.ult b
  | _ => !a.ult b

/-- Write a comparison's result to a predicate pair (R158): set, and, or. Both old values are read first. -/
def combine (comb : Nat) (p : BitVec 8) (pd pe : PReg) (t : Bool) : BitVec 8 :=
  let od := getPred p pd
  let oe := getPred p pe
  let vd := match comb with
    | 0 => t
    | 1 => od && t
    | _ => od || t
  let ve := match comb with
    | 0 => !t
    | 1 => oe || !t
    | _ => oe && !t
  setPred (setPred p pd vd) pe ve

end Sys2Proof.Machine
end

