-- ==== Sys2Proof/Machine/Operands.lean ====
section
/-!
DEFINITION. Machine/Operands.lean: how a word of X takes its operands, waits for outstanding loads, moves past itself and
traps (R38, R151, R153), and the arithmetic of the integer words (R153-R155).
-/

namespace Sys2Proof.Machine

/-- X goes past a word of `len` bytes; its next word may issue in the next clock (R151). -/
def XState.next (x : XState) (cyc len : Nat) : XState :=
  { x with pc := x.pc + BitVec.ofNat 32 len, ready := cyc + 1, wait := none }

/-- A word of X that only changes X: under a true guard it waits while one of its registers awaits a load, else acts;
under a false guard it only goes past itself (R38, R151). -/
def xDo (s : State) (len : Nat) (g : Guard) (regs : List SReg) (f : Ctl → XState → XState) : Out :=
  onCore s fun k c =>
    if !guardHolds g c.x.p then { c with x := c.x.next k.cyc len }
    else if regs.any c.x.busy then c
    else { c with x := (f k c.x).next k.cyc len }

/-- What a word of a core does beyond its own core's plain effect: a new core, or a trap's code and information. -/
inductive CoreRes where
  | ok (c : Core)
  | trap (code : Byte) (info0 info1 : W64)

/-- A word of X that may trap (precisely, R135): on a trap nothing of the word happens. `f` answers the core before the
word is passed. -/
def xTry (s : State) (len : Nat) (g : Guard) (regs : List SReg) (f : Ctl → Core → CoreRes) : Out :=
  onMach s fun k m =>
    let c := m.core k.cur.val
    if !guardHolds g c.x.p then m.setCore k.cur.val { c with x := c.x.next k.cyc len }
    else if regs.any c.x.busy then m
    else match f k c with
      | .ok c' => m.setCore k.cur.val { c' with x := c'.x.next k.cyc len }
      | .trap code i0 i1 => m.takeTrap k k.cur ⟨code, 0, c.x.pc, i0, i1⟩

/-- A register form with two sources. -/
def xAlu2 (s : State) (g : Guard) (d a b : SReg) (f : W64 → W64 → W64) : Out :=
  xDo s 4 g [d, a, b] fun _ x => x.setS d (f (x.getS a) (x.getS b))

/-- A register form with one source. -/
def xAlu1 (s : State) (g : Guard) (d a : SReg) (f : W64 → W64) : Out :=
  xDo s 4 g [d, a] fun _ x => x.setS d (f (x.getS a))

/-- An immediate form of `len` bytes. -/
def xAluImm (s : State) (len : Nat) (g : Guard) (d a : SReg) (imm : W64) (f : W64 → W64 → W64) : Out :=
  xDo s len g [d, a] fun _ x => x.setS d (f (x.getS a) imm)

/-- A predicate-logic word (R160). -/
def xPlog (s : State) (g : Guard) (pd pa pb : PReg) (f : Bool → Bool → Bool) : Out :=
  xDo s 4 g [] fun _ x => { x with p := setPred x.p pd (f (getPred x.p pa) (getPred x.p pb)) }

/-! ## Integer arithmetic (R153) -/

def aluAdd (a b : W64) : W64 := a + b
def aluSub (a b : W64) : W64 := a - b
def aluAndR (a b : W64) : W64 := a &&& b
def aluOrR (a b : W64) : W64 := a ||| b
def aluXorR (a b : W64) : W64 := a ^^^ b
def aluAndn (a b : W64) : W64 := a &&& ~~~b
def aluSll (a b : W64) : W64 := a <<< (b.toNat % 64)
def aluSrl (a b : W64) : W64 := a >>> (b.toNat % 64)
def aluSra (a b : W64) : W64 := a.sshiftRight (b.toNat % 64)
def aluMinS (a b : W64) : W64 := if b.slt a then b else a
def aluMaxS (a b : W64) : W64 := if a.slt b then b else a
def aluMinU (a b : W64) : W64 := if b.ult a then b else a
def aluMaxU (a b : W64) : W64 := if a.ult b then b else a

/-- Leading zero bits, 0-64. -/
def aluClz (a : W64) : W64 := BitVec.ofNat 64 (64 - bitLen a.toNat)

/-- The lowest set bit of a number among `n` bits, counted from `i`; `i + n` if there is none. -/
def lowestBit (v : Nat) : Nat → Nat → Nat
  | i, 0 => i
  | i, n + 1 => if v.testBit i then i else lowestBit v (i + 1) n

/-- Trailing zero bits, 0-64. -/
def aluCtz (a : W64) : W64 := BitVec.ofNat 64 (lowestBit a.toNat 0 64)

/-- One bits. -/
def aluPopc (a : W64) : W64 := BitVec.ofNat 64 ((List.range 64).countP a.getLsbD)

/-! ## Multiply and divide (R154) -/

def aluMul (a b : W64) : W64 := a * b
def aluMulh (a b : W64) : W64 := ((a.signExtend 128 * b.signExtend 128) >>> 64).setWidth 64
def aluMulhu (a b : W64) : W64 := BitVec.ofNat 64 (a.toNat * b.toNat / 2 ^ 64)
def aluDiv (a b : W64) : W64 := if b == 0 then BitVec.allOnes 64 else BitVec.ofInt 64 (a.toInt.tdiv b.toInt)
def aluDivu (a b : W64) : W64 := if b == 0 then BitVec.allOnes 64 else BitVec.ofNat 64 (a.toNat / b.toNat)
def aluRem (a b : W64) : W64 := if b == 0 then a else BitVec.ofInt 64 (a.toInt.tmod b.toInt)
def aluRemu (a b : W64) : W64 := if b == 0 then a else BitVec.ofNat 64 (a.toNat % b.toNat)

/-! ## Bit fields (R155) -/

def bitField (a : W64) (l w : Nat) : W64 := BitVec.ofNat 64 (a.toNat / 2 ^ l % 2 ^ w)
def bitFieldS (a : W64) (l w : Nat) : W64 := (BitVec.ofNat w (a.toNat / 2 ^ l)).signExtend 64
def bitInsert (d a : W64) (l w : Nat) : W64 :=
  let mask : W64 := BitVec.ofNat 64 (2 ^ w - 1) <<< l
  (d &&& ~~~mask) ||| ((a <<< l) &&& mask)

end Sys2Proof.Machine
end

