-- ==== Sys2Proof/Machine/Layout.lean ====
section
/-!
DEFINITION. Machine/Layout.lean: the records of Machine/Records.lean read from their bytes (R90, R91, R128-R131, R259), the
validity of a shape record (R92), and where its elements and scales lie (R67, R93).
-/

namespace Sys2Proof.Machine

/-- `len` bytes at offset `off` of a structure that is held as one little-endian number (R3). -/
def fld (n off len : Nat) : Nat := n / 2 ^ (8 * off) % 2 ^ (8 * len)

/-- The same as a word. -/
def fldW (n off : Nat) : W64 := BitVec.ofNat 64 (fld n off 8)

/-- The same as a signed 64-bit integer. -/
def fldS (n off : Nat) : Int := (fldW n off).toInt

/-! ## Shape records (R91) -/

/-- Read a shape record. -/
def Shape.parse (n : Nat) : Shape where
  base := fldW n 0
  fmtByte := BitVec.ofNat 8 (fld n 8 1)
  rank := fld n 9 1
  flags := BitVec.ofNat 16 (fld n 10 2)
  fill := BitVec.ofNat 32 (fld n 12 4)
  bounds := (List.range 6).map fun i => fld n (0x10 + 4 * i) 4
  strides := (List.range 6).map fun i => fldS n (0x28 + 8 * i)
  bgeo := fldW n 0x58
  scBase := fldW n 0x60
  scStride := fldS n 0x68
  bandBase := fldW n 0x70
  ragged := fldW n 0x78
  srKey := fldW n 0x80
  srStream := BitVec.ofNat 32 (fld n 0x88 4)
  srBase := fldW n 0x90
  rsv := fld n 0x8C 4 == 0 && fld n 0x98 40 == 0

/-- The format code. -/
def Shape.fmt (r : Shape) : Nat := r.fmtByte.toNat % 16

/-- RAGGED of FLAGS. -/
def Shape.isRagged (r : Shape) : Bool := r.flags.getLsbD 0

/-- PAD of FLAGS. -/
def Shape.pad (r : Shape) : Bool := r.flags.getLsbD 1

/-- ZPLANE of FLAGS. -/
def Shape.zplane (r : Shape) : Bool := r.flags.getLsbD 2

/-- The layout: 0 strided, 1 canonical blocked. -/
def Shape.layout (r : Shape) : Nat := r.bgeo.toNat % 256

/-- The effective bound of a dimension (R203). -/
def Shape.bound (r : Shape) (n : Nat) : Nat := if n < r.rank then (r.bounds[n]?).getD 1 else 1

/-- The stride of a dimension in elements. -/
def Shape.stride (r : Shape) (n : Nat) : Int := (r.strides[n]?).getD 0

/-- Bits that an element of a format takes in storage (R66). -/
def fmtBits (code : Nat) : Nat :=
  match code with
  | 0 => 32
  | 1 => 32
  | 2 => 16
  | 3 => 16
  | 6 => 6
  | 7 => 6
  | 8 => 4
  | 10 => 4
  | 13 => 6
  | 14 => 6
  | 15 => 4
  | _ => 8

/-- Storage bits of the record's elements. -/
def Shape.width (r : Shape) : Nat := fmtBits r.fmt

/-- The strides are dense (R92). -/
def Shape.dense (r : Shape) : Bool :=
  r.stride 0 == 1 && (List.range 5).all fun i => decide (r.rank ≤ i + 1) || r.stride (i + 1) == r.stride i * (r.bound i : Int)

/-- A record is valid (R92). FILL bits above the element width (R91) are taken to be among its reserved bits, which R92's list does not
say (DESIGN CHOICE, notes/assumptions/35.md). -/
def Shape.valid (r : Shape) : Bool :=
  let f := r.fmt
  let sub := f == 6 || f == 7 || f == 8 || f == 10 || decide (13 ≤ f)
  decide (1 ≤ r.rank) && decide (r.rank ≤ 6) && r.rsv && decide (r.fmtByte.toNat < 16) && decide (r.flags.toNat < 8) &&
    decide (r.bgeo.toNat ≤ 1) &&
    decide (r.fill.toNat < 2 ^ r.width) &&
    ((List.range 6).all fun n =>
      if n < r.rank then decide (1 ≤ r.bound n) else (r.bounds[n]?).getD 0 == 0 && r.stride n == 0) &&
    (r.layout == 0 || (decide (2 ≤ r.rank) && r.stride 0 == 0 && r.stride 1 == 0)) &&
    (!sub || r.layout == 1 || (r.stride 0 == 1 && (List.range 5).all fun n => r.stride (n + 1) % 8 == 0)) &&
    ((r.scBase == 0 && r.scStride == 0) || decide (11 ≤ f)) && (r.bandBase == 0 || f == 15) &&
    (!r.zplane || (r.layout == 0 && r.dense)) && (!r.isRagged || (r.layout == 0 && r.ragged != 0))

/-- Elements of the record. -/
def Shape.count (r : Shape) : Nat := (List.range 6).foldl (fun p n => p * r.bound n) 1

/-- The indices of a linear number (R93). A number at the element count, which R93 gives no indices, has all zeros: what STREAM_BOUND
reports for the position at the count of a zero-plane stream (R206; DESIGN CHOICE, notes/assumptions/35.md). -/
def Shape.indices (r : Shape) (n : Nat) : List Nat :=
  ((List.range 6).foldl (fun (st : Nat × List Nat) d => (st.1 / r.bound d, st.2 ++ [st.1 % r.bound d])) (n, [])).2

/-- The linear number of indices (R93). -/
def Shape.linear (r : Shape) (ix : List Nat) : Nat :=
  ((List.range 6).foldl (fun (st : Nat × Nat) d => (st.1 + (ix[d]?).getD 0 * st.2, st.2 * r.bound d)) (0, 1)).1

/-- The line of indices (R93). -/
def Shape.lineOf (r : Shape) (ix : List Nat) : Nat := r.linear ix / r.bound 0

/-- K blocks of a line in layout 1. -/
def Shape.kBlocks (r : Shape) : Nat := (r.bound 0 + 95) / 96

/-- The block of a line and a K position in layout 1 (R93). -/
def Shape.blkOf (r : Shape) (l k : Nat) : Nat := l / 64 * r.kBlocks + k / 96

/-- The bit offset from the base of the element of a line and a K position in layout 1 (R87, R93). -/
def Shape.blockBit (r : Shape) (l k : Nat) : Int :=
  (((r.blkOf l k * 64 + l % 64) * 96 + k % 96) * r.width : Nat)

/-- The bit offset of an element from the base (R67, R93), at layout 0 in element units. -/
def Shape.bitOff (r : Shape) (ix : List Nat) : Int :=
  if r.layout == 1 then r.blockBit (r.lineOf ix) ((ix[0]?).getD 0)
  else ((List.range 6).map fun d => (((ix[d]?).getD 0 : Nat) : Int) * r.stride d).sum * (r.width : Int)

/-- K positions that one scale byte serves (R93): 48, or 8 for Q8-E2M1. -/
def Shape.group (r : Shape) : Nat := if r.fmt == 15 then 8 else 48

/-- The offset of a scale byte from SCBASE (R93). -/
def Shape.scaleOff (r : Shape) (l k : Nat) : Int :=
  if r.layout == 1 then
    if r.fmt == 15 then ((768 * r.blkOf l k + 12 * (l % 64) + k % 96 / 8 : Nat) : Int)
    else ((128 * r.blkOf l k + 2 * (l % 64) + k % 96 / 48 : Nat) : Int)
  else (l : Int) * r.scStride + ((k / r.group : Nat) : Int)

/-- The offset of a band scale from BANDBASE (R93). -/
def bandOff (l : Nat) : Int := ((2 * (l / 64) : Nat) : Int)

/-- The bytes that hold `w` bits at a bit offset: first byte, bit within it, bytes. -/
def bitSpan (bit : Int) (w : Nat) : Int × Nat × Nat :=
  let sh := (bit % 8).toNat
  (bit / 8, sh, (sh + w + 7) / 8)

/-- The scale that a padded position reads (R88, R204): 127 for E8M0, 0 for E3M5. -/
def Shape.padScale (r : Shape) : Nat := if r.fmt == 15 then 0 else 127

/-! ## Fibre descriptors (R90) -/

/-- Read a fibre descriptor. -/
def FibDesc.parse (n : Nat) : FibDesc :=
  ⟨fld n 0 4, fld n 4 4, fld n 8 4, fld n 12 4, fld n 16 4, fld n 20 1, fld n 21 11 == 0⟩

/-- A fibre descriptor's format is one of codes 0-5 and 9 and its reserved bytes are zero (R90, R216). -/
def FibDesc.valid (d : FibDesc) : Bool := (decide (d.fmt ≤ 5) || d.fmt == 9) && d.rsv

/-! ## Task descriptors and extension blocks (R128-R131) -/

/-- Read a task descriptor of 128 bytes. -/
def Desc.parse (n : Nat) : Desc where
  codeBase := fldW n 0
  codeLen := fld n 8 4
  moveOff := fld n 12 4
  entX := fld n 0x10 2
  entL := fld n 0x12 2
  entC := fld n 0x14 2
  entS := fld n 0x16 2
  entM := fld n 0x18 2
  handler := fld n 0x1A 2
  prio := BitVec.ofNat 8 (fld n 0x1C 1)
  segCnt := fld n 0x1D 1
  affinity := BitVec.ofNat 16 (fld n 0x1E 2)
  segTab := fldW n 0x20
  ext := fldW n 0x28
  doneSem := fldW n 0x30
  part := BitVec.ofNat 8 (fld n 0x38 1)
  asid := BitVec.ofNat 16 (fld n 0x3A 2)
  args := (List.range 8).map fun i => fldW n (0x40 + 8 * i)
  rsv := fld n 0x39 1 == 0 && fld n 0x3C 4 == 0

/-- Read a declaration of 64 bytes (R130). -/
def Decl.parse (n : Nat) : Decl where
  base := fldW n 0
  rowBytes := fld n 8 4
  rows := fld n 12 4
  stride := fld n 0x10 8
  nren := fld n 0x18 1
  rens := (List.range 4).map fun i => fldW n (0x20 + 8 * i)
  rsv := fld n 0x19 7 == 0

/-- Read a preload (R131). -/
def Preload.parse (n : Nat) : Preload := ⟨fldW n 0, fld n 8 4, fld n 12 4⟩

/-- Read a discardable region (R131). -/
def Discard.parse (n : Nat) : Discard := ⟨fld n 0 4, fld n 4 4, BitVec.ofNat 32 (fld n 8 4), fld n 12 4 == 0⟩

/-- Read an extension block of 1,280 bytes; entries beyond the counts are ignored (R129). -/
def Ext.parse (n : Nat) : Ext where
  nrd := fld n 0 1
  nwr := fld n 1 1
  npre := fld n 2 1
  ndisc := fld n 3 1
  rds := (List.range (min (fld n 0 1) 8)).map fun i => Decl.parse (fld n (0x40 + 64 * i) 64)
  wrs := (List.range (min (fld n 1 1) 8)).map fun i => Decl.parse (fld n (0x240 + 64 * i) 64)
  pres := (List.range (min (fld n 2 1) 4)).map fun i => Preload.parse (fld n (0x440 + 16 * i) 16)
  discs := (List.range (min (fld n 3 1) 8)).map fun i => Discard.parse (fld n (0x480 + 16 * i) 16)
  rsv := fld n 4 12 == 0

/-- Read a segment-table entry of 32 bytes (R259). -/
def Seg.parse (n : Nat) : Seg where
  vbase := fld n 0 8
  vlen := fld n 8 8
  phys := fldW n 0x10
  rights := BitVec.ofNat 8 (fld n 0x18 1)
  cls := BitVec.ofNat 8 (fld n 0x19 1)
  uop := BitVec.ofNat 8 (fld n 0x1A 1)
  rsv := fld n 0x1B 5 == 0

end Sys2Proof.Machine
end

