-- ==== Sys2Proof/Machine/TaskDesc.lean ====
section
/-!
DEFINITION. Machine/TaskDesc.lean: task descriptors and extension blocks: the byte sets of declarations (R130), what makes a
descriptor valid (R132, R399), the reads and checks that LAUNCH and ENQUEUE share (R187, R188, R432).
-/

namespace Sys2Proof.Machine

/-! ## Declared sets (R130) -/

/-- Row `r` of a set shares a byte with the range from `x` up to `y`. -/
def Decl.rowMeets (d : Decl) (r x y : Nat) : Bool :=
  let at0 := d.base.toNat + r * d.stride
  decide (at0 < y) && decide (x < at0 + d.rowBytes)

/-- A set shares a byte with the range from `x` up to `y`: only the last row that starts at or before `x`, and the row
after it, can. -/
def Decl.meetsRange (d : Decl) (x y : Nat) : Bool :=
  let r := if d.rows ≤ 1 then 0 else min ((x - d.base.toNat) / d.stride) (d.rows - 1)
  d.rowMeets r x y || (decide (r + 1 < d.rows) && d.rowMeets (r + 1) x y)

/-- Two sets share a byte (R391: the exact byte intersection). -/
def Decl.meets (a b : Decl) : Bool :=
  (List.range (max a.rows 1)).any fun r =>
    let x := a.base.toNat + r * a.stride
    b.meetsRange x (x + a.rowBytes)

/-- The versions of a declaration: at BASE, and at each rename slot in use (R130). -/
def Decl.versions (d : Decl) : List Decl := d :: (d.rens.take d.nren).map fun b => { d with base := b }

/-- Two declarations share a byte in some versions. -/
def Decl.clash (a b : Decl) : Bool := a.versions.any fun x => b.versions.any fun y => x.meets y

/-- No two of a list satisfy a relation. -/
def noPair {α : Type} (f : α → α → Bool) : List α → Bool
  | [] => true
  | x :: xs => (xs.all fun y => !f x y) && noPair f xs

/-- A declaration meets R130; `maxRen` is 0 for a read declaration. -/
def Decl.valid (d : Decl) (maxRen : Nat) : Bool :=
  decide (1 ≤ d.rowBytes) && decide (1 ≤ d.rows) && (decide (d.rows ≤ 1) || decide (d.rowBytes ≤ d.stride)) &&
    decide (d.nren ≤ maxRen) && d.rsv && noPair Decl.meets d.versions

/-- Bytes from the first to past the last of a set. -/
def Decl.extent (d : Decl) : Nat := (d.rows - 1) * d.stride + d.rowBytes

/-! ## Validity (R132) -/

/-- Where the L section starts, and the ends of the L and C sections. -/
def Desc.secL (d : Desc) : Nat := 64 * (d.entL / 16)
def Desc.secC (d : Desc) : Nat := 64 * (d.entC / 16)
def Desc.secS (d : Desc) : Nat := 64 * (d.entS / 16)

/-- An entry lies inside its section, or is the end of an empty one. -/
def entryIn (ent start stop : Nat) : Bool := decide (start ≤ 4 * ent) && (decide (4 * ent < stop) || (4 * ent == stop && start == stop))

/-- The code fields of a descriptor (R128, R132). -/
def Desc.codeOk (d : Desc) : Bool :=
  d.codeLen % 64 == 0 && decide (d.moveOff ≤ d.codeLen) && decide (d.codeLen - d.moveOff ≤ 65536) &&
    (d.codeLen - d.moveOff) % 8 == 0 && decide (d.moveOff ≤ 2 ^ 18) && decide (4 * d.entX < d.secL) &&
    entryIn d.entL d.secL d.secC && entryIn d.entC d.secC d.secS && entryIn d.entS d.secS d.moveOff &&
    (d.entM == 0xFFFF || decide (8 * d.entM < d.codeLen - d.moveOff)) &&
    (d.handler == 0xFFFF || decide (4 * d.handler < d.secL))

/-- A descriptor's completion semaphore (R399): none, or one of a core of the partition in its own package. -/
def Mach.doneSemOk (m : Mach) (d : Desc) : Bool :=
  let a := d.doneSem
  a == 0 || (windowCode a == 2 && m.globalOk a && m.pkgIsOwn (gPkg a) && decide (0x3E0000 ≤ gOff a) &&
    decide (gOff a < 0x3E8000) && gOff a % 8 == 0 && m.partOwns d.part.toNat (40 * gDie a + gCore a))

/-- A range of preloads or discardable regions (R131). -/
def spRangeOk (off len : Nat) : Bool := off % 64 == 0 && len % 64 == 0 && decide (off + len ≤ 0x3E0000)

/-- An extension block is valid (R129-R132). -/
def Ext.valid (x : Ext) : Bool :=
  decide (x.nrd ≤ 8) && decide (x.nwr ≤ 8) && decide (x.npre ≤ 4) && decide (x.ndisc ≤ 8) && x.rsv &&
    x.rds.all (Decl.valid · 0) && x.wrs.all (Decl.valid · 4) && noPair Decl.clash x.wrs &&
    (x.pres.all fun p => spRangeOk p.spOff p.len) && x.discs.all fun p => spRangeOk p.spOff p.len && p.rsv

/-- A descriptor is valid (R132). -/
def Mach.descValid (m : Mach) (d : Desc) (x : Ext) : Bool :=
  d.codeOk && decide (d.prio.toNat < 8) && decide (1 ≤ d.segCnt) && decide (d.segCnt ≤ 64) &&
    decide (d.part.toNat < 64) && decide (d.asid.toNat < 512) && d.rsv && x.valid && m.doneSemOk d

/-- AFFINITY names a present die (R132). -/
def Mach.affinityOk (m : Mach) (d : Desc) : Bool := (List.range 8).any fun n => d.affinity.getLsbD n && !m.absent.contains n

/-- The descriptor's ASID is assigned to its partition (R415). -/
def Mach.asidOk (m : Mach) (d : Desc) : Bool := (vget m.parts d.part.toNat Partition.init).asids.contains d.asid.toNat

/-! ## Reading a task (R187 steps 3 and 4, R188, R408) -/

/-- A failing check: its status (R188) and, for DESC_FAULT, the trap code. -/
structure Refused where
  status : Nat
  code : Byte
deriving DecidableEq, Repr

/-- How far the read of a task has come: it waits, for a page that is being moved (R377) or for a position (R26), with the descriptor if
that has been read; a check has failed; or the task is read and has passed the checks. -/
inductive TaskRead where
  | wait (got : Option Nat)
  | bad (r : Refused)
  | task (d : Desc) (x : Ext)
deriving DecidableEq, Repr

/-- A structure of `n` pieces of 64 bytes waits (R26, R377). -/
def Mach.longHeld (m : Mach) (cyc : Nat) (A : Access) (a : W64) (n : Nat) : Bool :=
  (List.range n).any fun i => m.accessHeld cyc A .read (a + BitVec.ofNat 64 (64 * i)) 64

/-- The places of scratchpads that a structure lies in. -/
def Mach.longPlaces (m : Mach) (A : Access) (a : W64) (n : Nat) : Parts :=
  ((List.range n).map fun i => m.accessPlaces A .read (a + BitVec.ofNat 64 (64 * i)) 64).flatten

/-- Read a structure of `n` pieces of 64 bytes, in a position of a scratchpad that holds it: with whether it lies in one, or none when it
waits. -/
def Mach.readStruct (m : Mach) (cyc : Nat) (A : Access) (a : W64) (n : Nat) : Option (Mach × Except Xl Nat × Bool) :=
  if m.longHeld cyc A a n then none
  else
    let ps := m.longPlaces A a n
    let (m, v) := m.readLong A .read a n
    some (m.takeFrees cyc ps, v, !ps.isEmpty)

/-- The checks of R188 after the reads, in order; `part` is the partition that the task must name, if any. -/
def Mach.checkTask (m : Mach) (part : Option Nat) (d : Desc) (x : Ext) : Option Refused :=
  if !m.descValid d x then some ⟨3, 0⟩
  else if part.any (· != d.part.toNat) || !m.asidOk d then some ⟨4, 0⟩
  else if !m.affinityOk d then some ⟨2, 0⟩
  else none

/-- The segment table of a task as memory holds it (R259). -/
def Mach.taskSegs (m : Mach) (t : Task) : List Seg :=
  let A := Access.system (t.desc.asid.toNat % 512) t.desc.part.toNat
  (List.range t.desc.segCnt).filterMap fun i =>
    match m.readThrough A (t.desc.segTab + BitVec.ofNat 64 (32 * i)) 32 with
    | .ok v => some (Seg.parse v)
    | .error _ => none

/-- Read the extension block of a descriptor `n`, and check the task. -/
def Mach.fetchExt (m : Mach) (cyc : Nat) (A : Access) (part : Option Nat) (n : Nat) : Mach × TaskRead :=
  let d := Desc.parse n
  if d.ext.toNat % 64 != 0 then (m, .bad ⟨3, 0⟩)
  else match m.readStruct cyc A d.ext 20 with
    | none => (m, .wait (some n))
    | some (m, .error x, _) => (m, .bad ⟨5, x.code⟩)
    | some (m, .ok e, _) =>
      match m.checkTask part d (Ext.parse e) with
      | some r => (m, .bad r)
      | none => (m, .task d (Ext.parse e))

/-- Read the descriptor at an address, unless that has been done, and its extension block, and check the task (R187 steps 3 and 4). A
structure that is not 64-byte aligned is not read; one in a scratchpad takes a position of its own (R27). -/
def Mach.fetchTask (m : Mach) (cyc : Nat) (A : Access) (part : Option Nat) (a : W64) (got : Option Nat) : Mach × TaskRead :=
  match got with
  | some n => m.fetchExt cyc A part n
  | none =>
    if a.toNat % 64 != 0 then (m, .bad ⟨3, 0⟩)
    else match m.readStruct cyc A a 2 with
      | none => (m, .wait none)
      | some (m, .error x, _) => (m, .bad ⟨5, x.code⟩)
      | some (m, .ok n, inSp) => if inSp then (m, .wait (some n)) else m.fetchExt cyc A part n

end Sys2Proof.Machine
end

