-- ==== Sys2Proof/Machine/Depend.lean ====
section
/-!
DEFINITION. Machine/Depend.lean: the lock-keeper's pools: moorings and overflow rings (R386-R389) and the dependence table with
its renamed sets (R106, R391, R392).
-/

namespace Sys2Proof.Machine

/-! ## Partitions -/

/-- A partition's state. -/
def Mach.partition (m : Mach) (p : Nat) : Partition := vget m.parts p Partition.init

/-- The machine with a partition replaced. -/
def Mach.setPart (m : Mach) (p : Nat) (x : Partition) : Mach := { m with parts := vset m.parts p x }

/-- The partition of a task (R128). -/
def Task.part (t : Task) : Nat := t.desc.part.toNat

/-- The ASID of a task. -/
def Task.asid (t : Task) : Nat := t.desc.asid.toNat

/-- A task that has an entry of the dependence table (R391). -/
def Task.inTable (t : Task) : Bool := t.st == .moored || t.st == .ready || t.st == .binding || t.st == .bound || t.st == .saved

/-- Moorings that a partition holds. -/
def Mach.moorings (m : Mach) (p : Nat) : Nat := (m.tasks.filter fun t => t.part == p && t.holdsMooring).length

/-- Entries of the dependence table in use. -/
def Mach.tableUsed (m : Mach) : Nat := (m.tasks.filter Task.inTable).length

/-- A mooring of the partition and an entry of the table are free (R388 case 2). -/
def Mach.moorFree (m : Mach) (p : Nat) : Bool :=
  match (m.partition p).conf with
  | some f => decide (m.moorings p < f.moorQ) && decide (m.tableUsed < 8192)
  | none => false

/-! ## Renamed sets (R392) -/

/-- A declaration is identical to a set: the geometry, and for a write declaration the rename slots. -/
def RenSet.same (s : RenSet) (asid : Nat) (d : Decl) (isWrite : Bool) : Bool :=
  s.asid == asid && !s.copying && d.base == s.decl.base && d.rowBytes == s.decl.rowBytes && d.rows == s.decl.rows &&
    d.stride == s.decl.stride &&
    (!isWrite || (d.nren == s.decl.nren && d.rens == s.decl.rens))

/-- The declarations of a task, each with whether it is a write. -/
def Task.declared (t : Task) : List (Decl × Bool) := (t.ext.rds.map (·, false)) ++ t.ext.wrs.map (·, true)

/-- The mark that stands in `after` for the copy of a set's last version. -/
def copyMark (asid : Nat) (base : W64) : Nat := 2 ^ 64 * (1 + asid) + base.toNat

/-- The set that a task's renamed write declarations make (R392): latest version 0, no holder. -/
def Task.newSet (t : Task) (d : Decl) : RenSet := ⟨t.asid, d, 0, 0, [], false, t.desc.segTab, t.desc.segCnt, t.part⟩

/-- Make the sets that a task's declarations need and that do not exist. -/
def Task.makeSets (t : Task) (sets : List RenSet) : List RenSet :=
  (t.ext.wrs.filter fun d => decide (1 ≤ d.nren)).foldl
    (fun s d => if s.any fun x => x.same t.asid d true then s else s ++ [t.newSet d]) sets

/-- What a task's entry does to one set (R392): the set after it, and the tids it is ordered after. -/
def RenSet.enter (s : RenSet) (t : Task) : RenSet × List Nat :=
  let ds := t.declared
  let meets (p : Decl × Bool) : Bool := s.decl.clash p.1
  if s.asid != t.asid then (s, [])
  else if s.copying then (s, if ds.any meets then [copyMark s.asid s.decl.base] else [])
  else
    let wr := t.ext.wrs.any fun d => s.same t.asid d true
    let rd := t.ext.rds.any fun d => s.same t.asid d false
    let other := ds.filter fun p => meets p && !s.same t.asid p.1 p.2
    let holdersOf (v : Nat) : List Nat := (s.holders.filter fun h => h.1 == v).map (·.2)
    let (s', a) :=
      if wr && rd then ({ s with maker := t.tid, holders := s.holders ++ [(s.latest, t.tid)] }, holdersOf s.latest)
      else if wr then
        let v := (s.latest + 1) % (s.decl.nren + 1)
        ({ s with latest := v, maker := t.tid, holders := s.holders ++ [(v, t.tid)] }, holdersOf v)
      else if rd then
        ({ s with holders := s.holders ++ [(s.latest, t.tid)] }, (holdersOf s.latest).filter (· == s.maker))
      else (s, [])
    if other.isEmpty then (s', a)
    else ({ s' with latest := if other.any (·.2) then 0 else s'.latest }, a ++ s.holders.map (·.2))

/-- The version of a declaration that a task took (R392): 0 without a set. -/
def versionOf (sets : List RenSet) (t : Task) (d : Decl) (isWrite : Bool) : Nat :=
  match sets.find? fun s => s.same t.asid d isWrite with
  | some s => ((s.holders.find? fun h => h.2 == t.tid).map (·.1)).getD 0
  | none => 0

/-- A list filled up with zeros to `n`. -/
def padTo (n : Nat) (l : List Nat) : List Nat := (l ++ List.replicate n 0).take n

/-- VER of a task's bind record (R396): RD0-RD7, then WR0-WR7. -/
def Task.versions (t : Task) (sets : List RenSet) : List Nat :=
  padTo 8 (t.ext.rds.map (versionOf sets t · false)) ++ padTo 8 (t.ext.wrs.map (versionOf sets t · true))

/-! ## The dependence table (R391) -/

/-- Two declarations conflict (R391): a shared byte, at least one of them a write, unless both are identical to one renamed set in
which the earlier task, `e`, holds a version: its versions order them (R392). -/
def declsConflict (sets : List RenSet) (asid e : Nat) (a b : Decl × Bool) : Bool :=
  (a.2 || b.2) && a.1.clash b.1 &&
    !sets.any fun s => s.same asid a.1 a.2 && s.same asid b.1 b.2 && s.holders.any fun h => h.2 == e

/-- A task is ordered after an earlier one whose declarations conflict with its own. -/
def Task.conflicts (t e : Task) (sets : List RenSet) : Bool :=
  e.inTable && e.asid == t.asid && t.declared.any fun a => e.declared.any fun b => declsConflict sets t.asid e.tid a b

/-- A task enters the dependence table (R391, R392). -/
def Mach.enterTable (m : Mach) (t : Task) : Mach :=
  let sets := t.makeSets m.sets
  let general := (m.tasks.filter fun e => t.conflicts e sets).map (·.tid)
  let res := sets.map fun s => s.enter t
  let sets' := res.map (·.1)
  let after := (general ++ (res.map (·.2)).flatten).eraseDups
  let t' := { t with st := .moored, after := after, vers := t.versions sets' }
  { m with sets := sets', tasks := (m.tasks.filter fun e => e.tid != t.tid) ++ [t'.settle] }

/-! ## The overflow ring (R388, R389) -/

/-- Records in a partition's ring. -/
def Partition.ovUsed (p : Partition) : Nat := p.ovTail - p.ovHead

/-- Where the ring's next record lies. -/
def overflowAt (f : PartConf) (i : Nat) : Nat := f.ovBase + 32 * (i % f.ovCount)

/-- Memory of the near or the far tier backs the record at a physical address (R20, R389). -/
def pageMapped (pa : Nat) : Bool := decide (pa / 2 ^ 48 ≤ 9) && decide (pa % 2 ^ 48 + 32 ≤ homeBytes (pa / 2 ^ 48))

/-- The 32 bytes of an overflow record (R388). -/
def overflowRecord (t : Task) : Nat :=
  t.descAddr.toNat + t.tid % 2 ^ 64 * 2 ^ 64 + t.depth % 256 * 2 ^ 128 + t.parent % 2 ^ 56 * 2 ^ 136

/-- Put a task into its partition's ring, or refuse it; an unmapped page is reported by its address (R389). -/
def Mach.toRing (m : Mach) (t : Task) : Mach × Bool :=
  let p := m.partition t.part
  match p.conf with
  | none => (m, false)
  | some f =>
    if f.ovCount ≤ p.ovUsed then (m, false)
    else
      let at0 := overflowAt f p.ovTail
      if !pageMapped at0 then (m.report trNotPresent t.part 0 (BitVec.ofNat 64 (at0 / 2 ^ 16 * 2 ^ 16)), false)
      else
        let m := m.wr at0 32 (overflowRecord t)
        let m := m.setPart t.part { m.partition t.part with ovTail := p.ovTail + 1 }
        ({ m with tasks := m.tasks ++ [{ t with st := .overflow }] }, true)

/-- The oldest task in a partition's overflow ring. -/
def Mach.oldestOverflow (m : Mach) (p : Nat) : Option Task := m.tasks.find? fun t => t.part == p && t.st == .overflow

/-- The overflow record that is promoted next (R388): of the oldest records of partitions with a free mooring, the one of the lowest
tid. -/
def Mach.promotable (m : Mach) : Option Task :=
  (m.tasks.filter fun t => m.moorFree t.part && (m.oldestOverflow t.part).any (·.tid == t.tid)).foldl (fun (best : Option Task) t =>
    match best with
    | some u => if t.tid < u.tid then some t else best
    | none => some t) none

/-- Promote an overflow record (R388). -/
def Mach.promoteTask (m : Mach) (t : Task) : Mach :=
  (m.setPart t.part { m.partition t.part with ovHead := (m.partition t.part).ovHead + 1 }).enterTable t

/-- Promote what can be promoted, at most `n` records. -/
def Mach.promoteSome (m : Mach) : Nat → Mach
  | 0 => m
  | n + 1 =>
    match m.promotable with
    | some t => (m.promoteTask t).promoteSome n
    | none => m

/-- Promotion comes in the ring clock in which a mooring or an entry is freed, before an enqueue (R384, R388). -/
def Mach.promoteAll (m : Mach) : Mach := m.promoteSome m.tasks.length

/-! ## The fast path's conditions (R398) -/

/-- A candidate of selection: READY, or SAVED with every cause clear (R275, R393); a task that the fast path binds is none (R398). -/
def Task.candidate (t : Task) : Bool := t.fast.isNone && (t.st == .ready || (t.st == .saved && t.waitDoorbell.isEmpty))

/-- A core can be bound (R396, R426): no task, no valid record, released, working, on a present die. -/
def Mach.coreOpen (m : Mach) (n : Nat) : Bool :=
  let c := m.core n
  c.task.isNone && c.released && c.phys.isSome && !(vget m.slots n BindRec.init).valid && !m.absent.contains (n / 40) &&
    !m.retiring.contains (n / 40)

/-- A core is free for a bind: it can be bound, and the fast path has not given it to a task (R398). -/
def Mach.coreFree (m : Mach) (n : Nat) : Bool := m.coreOpen n && !m.tasks.any fun t => t.fast.any fun f => f.1 == n

/-- A core that a task may take: free, of its partition, its die named by AFFINITY. -/
def Mach.eligible (m : Mach) (t : Task) (n : Nat) : Bool :=
  m.coreFree n && m.partOwns t.part n && t.desc.affinity.getLsbD (n / 40)

/-- What a core must have kept to be warm for a task (R398). -/
def Task.key (t : Task) : WarmKey :=
  ⟨t.desc.codeBase, t.desc.codeLen, t.desc.moveOff, t.desc.segTab, t.desc.segCnt, BitVec.ofNat 9 t.asid⟩

/-- A core is warm for a task: it has kept what the task names, and the segment table is the one that its engine has cached, so that none
has changed since (R398; log entry 29). -/
def Mach.isWarm (m : Mach) (t : Task) (n : Nat) : Bool :=
  (m.core n).warm == some t.key && m.taskSegs t == (vget m.engines n Engine.init).segs

/-- The lowest warm eligible core. -/
def Mach.warmCore (m : Mach) (t : Task) : Option Nat := (List.range 320).find? fun n => m.eligible t n && m.isWarm t n

/-- Selection is stopped in a partition: for a checkpoint (R421), or while it is reset (R419). -/
def Mach.selStopped (m : Mach) (p : Nat) : Bool := (m.ckptRun.any fun r => r.2.contains p) || (m.partition p).resetting

/-- The conditions of the fast path (R398) for a task that has just been moored: it waits for nothing, brings no preload and no
discardable region, no candidate of equal or higher priority waits, and a warm core lies in its affinity. -/
def Mach.fastCore (m : Mach) (t : Task) : Option Nat :=
  if t.st == .ready && t.ext.npre == 0 && t.ext.ndisc == 0 && !m.selStopped t.part &&
      !m.tasks.any fun u => u.tid != t.tid && u.part == t.part && u.candidate && decide (t.prio ≤ u.prio) then m.warmCore t
  else none

/-- The fast path takes a task at its enqueue (R398), at clock `cyc`: the core is its own from then on. -/
def Mach.takeFast (m : Mach) (cyc tid : Nat) : Mach :=
  match (m.taskOf tid).bind m.fastCore with
  | some n => m.mapTask tid fun t => { t with fast := some (n, cyc) }
  | none => m

/-! ## Enqueueing (R387, R388) -/

/-- The order of one clock (R387): the management queue, the host queues by VM and number, the LAUNCHes by core. -/
def queueRank (i : Nat) : Nat := if i == 1024 then 0 else i + 1
def launchRank (n : Nat) : Nat := 2000 + n

/-- A queue's refused enqueue is to be retried: a mooring has been released since (R388). -/
def Mach.retryDue (m : Mach) (q : HostQ) : Bool := q.full.any (· != m.unmoored)

/-- A refused enqueue that comes before a place in the order of one clock is to be retried (R387, R388). -/
def Mach.retryBefore (m : Mach) (rank : Nat) : Bool :=
  m.queues.toList.zipIdx.any fun x => m.retryDue x.1 && decide (queueRank x.2 < rank)

/-- An enqueue may reach the lock-keeper in this clock: none that comes after it in the order of one clock has, and none that comes
before it is still to be retried (R387, R388). -/
def Mach.mayEnqueue (m : Mach) (cyc rank : Nat) : Bool :=
  !(m.enqAt.1 == cyc + 1 && decide (rank < m.enqAt.2)) && !m.retryBefore rank

/-- Place a task (R387, R388) that reaches the lock-keeper in clock `cyc`: the machine, and its tid unless it is refused. -/
def Mach.place (m : Mach) (cyc rank : Nat) (t : Task) : Mach × Option Nat :=
  let m := m.promoteAll
  let t := { t with tid := m.nextTid }
  let p := m.partition t.part
  let took (m : Mach) : Mach × Option Nat := ({ m with nextTid := m.nextTid + 1, enqAt := (cyc + 1, rank) }, some t.tid)
  if p.ovUsed == 0 && m.moorFree t.part then took ((m.enterTable t).takeFast cyc t.tid)
  else match m.toRing t with
    | (m, true) => took m
    | (m, false) => (m, none)

/-- A task as it is enqueued, without a tid. -/
def Task.fresh (addr : W64) (d : Desc) (x : Ext) (depth parent : Nat) (priv : Bool) : Task where
  tid := 0
  descAddr := addr
  desc := d
  ext := x
  prio := d.prio.toNat % 8
  st := .moored
  depth := depth
  parent := parent
  priv := priv
  after := []
  vers := []
  frame := none
  waitDoorbell := []
  behind := []
  replay := false
  ticks := 0
  launches := []
  replayAt := 0
  fast := none
  binds := 0

/-- OVERFLOW_PROMOTION (R388): the oldest record of a partition with a free mooring enters the table; of several
partitions that wait, the one whose oldest record has the lowest tid goes first. -/
def execOverflowPromotion (s : State) : Out :=
  onMach s fun k m =>
    match m.promotable with
    | some t => if t.part == k.occ.part.val then m.promoteTask t else m
    | none => m

/-! ## The copy of a last version (R392) -/

/-- Who copies a renamed set: a die transfer engine under the segment table of the set's task. -/
def Mach.copyAccess (m : Mach) (s : RenSet) : Access :=
  let A := Access.system s.asid s.part
  let segs := (List.range s.segCnt).filterMap fun i =>
    match m.readThrough A (s.segTab + BitVec.ofNat 64 (32 * i)) 32 with
    | .ok v => some (Seg.parse v)
    | .error _ => none
  { eng := none, asid := s.asid, segs := segs, part := s.part, own := none, anyPart := true, bound := none, sys := false }

/-- Copy `n` bytes between versions, byte by byte; the first fault ends the copy with its code. -/
def Mach.copyBytes (m : Mach) (A : Access) (src dst : Nat) : Nat → Mach × Option Xl
  | 0 => (m, none)
  | n + 1 =>
    match m.readAt A .read (BitVec.ofNat 64 src) 1 with
    | (m, .error x) => (m, some x)
    | (m, .ok v) =>
      match m.writeAt A (BitVec.ofNat 64 dst) 1 v with
      | (m, some x) => (m, some x)
      | (m, none) => m.copyBytes A (src + 1) (dst + 1) n

/-- Copy the rows of a set. -/
def Mach.copyRows (m : Mach) (A : Access) (src dst stride rowBytes : Nat) : Nat → Mach × Option Xl
  | 0 => (m, none)
  | n + 1 =>
    match m.copyBytes A src dst rowBytes with
    | (m, some x) => (m, some x)
    | (m, none) => m.copyRows A (src + stride) (dst + stride) stride rowBytes n

/-- RENAMED_SET_COPY (R392): `asid` and `addr` name the set, which has no holder; its latest version is copied into
version 0, then the set is dropped. A fault is reported and leaves the set to be copied again (log entry 29). -/
def execRenamedSetCopy (s : State) : Out :=
  onMach s fun k m =>
    match m.sets.find? fun x => x.copying && x.asid == k.occ.asid && x.decl.base.toNat == k.occ.addr with
    | none => m
    | some x =>
      let d := x.decl
      let src := ((d.rens[x.latest - 1]?).getD d.base).toNat
      match m.copyRows (m.copyAccess x) src d.base.toNat d.stride d.rowBytes d.rows with
      | (m', some (.miss _)) => m'
      | (m', some f) => m'.report f.code x.part 0 d.base
      | (m', none) =>
        let mark := copyMark x.asid d.base
        { m' with
          sets := m'.sets.filter fun y => !(y.copying && y.asid == x.asid && y.decl.base == d.base)
          tasks := m'.tasks.map fun t => ({ t with after := t.after.filter (· != mark) }).settle }

end Sys2Proof.Machine
end

