-- ==== Sys2Proof/Machine/Fetch.lean ====
section
/-!
DEFINITION. Machine/Fetch.lean: what a sequencer or a context issues next (R37, R168, R199, R270): a word, a trap, or
nothing.
-/

namespace Sys2Proof.Machine

/-- What a sequencer's next issue is. -/
inductive Fetch where
  | run (i : Instr)
  | trap (code : Byte) (info0 info1 : W64)
  | idle
deriving DecidableEq, Repr

/-- The program counter of a sequencer. -/
def Core.pcOf (c : Core) : SeqName → W32
  | .x => c.x.pc
  | .l => c.l.pc
  | .c => c.c.pc
  | .s => c.s.pc

/-- The clock from which a sequencer may issue. -/
def Core.readyOf (c : Core) : SeqName → Nat
  | .x => c.x.ready
  | .l => c.l.ready
  | .c => c.c.ready
  | .s => c.s.ready

/-- The wait of a sequencer. -/
def Core.waitOf (c : Core) : SeqName → Option Wait
  | .x => c.x.wait
  | .l => c.l.wait
  | .c => c.c.wait
  | .s => c.s.wait

/-- Where a sequencer's program ends (R132, R168, R199). -/
def Bound.endOf (b : Bound) : SeqName → Nat
  | .x => b.desc.moveOff
  | .l => 64 * (b.desc.entC / 16)
  | .c => 64 * (b.desc.entS / 16)
  | .s => b.desc.moveOff

/-- The words that only a privileged task may run in X (R60). -/
def csrOf : Instr → Option (BitVec 12)
  | .csrr _ _ a => some a
  | .csrw _ _ _ a => some a
  | .csrwSet _ _ _ a => some a
  | .csrwClr _ _ _ a => some a
  | _ => none

/-- X's privilege check (R37 check 4, R60). -/
def xPrivileged (i : Instr) : Bool :=
  match csrOf i with
  | some a => csrPrivileged a
  | none => false

/-- Decode the word at a program counter (R36, R37, R168, R199). -/
def fetchAt (store : Cells) (q : SeqName) (stop : Nat) (priv : Bool) (pc : W32) : Fetch :=
  let at0 := pc.toNat
  if stop ≤ at0 then (if q == .x then .trap trIllegal 0 (pc.setWidth 64) else .idle)
  else
    let n := wordLen (store.get at0)
    if stop < at0 + n then .trap trIllegal 0 (pc.setWidth 64)
    else
      let w := store.rd at0 n
      match decodeWord q w with
      | .error _ => .trap trIllegal (BitVec.ofNat 64 w) (pc.setWidth 64)
      | .ok i => if xPrivileged i && !priv then .trap trPrivileged (BitVec.ofNat 64 w) (pc.setWidth 64) else .run i

/-- The sequencer may issue: its task runs and no trap of it waits to be taken (R136), it is not stopped (R134, R136) or blocked, its clock has come (R151, R172), and no store of
it is still writing (R205). -/
def Core.mayIssue (c : Core) (b : Bound) (q : SeqName) (cyc : Nat) : Bool :=
  b.running && b.stop.isNone && (q == .x || !b.vstop) && decide (c.readyOf q ≤ cyc) && (q != .s || c.s.store.isNone) &&
    (match c.waitOf q with
     | some w => w.limit.isNone
     | none => true)

/-- What a sequencer issues next. -/
def Core.fetch (c : Core) (q : SeqName) (cyc : Nat) : Fetch :=
  match c.task with
  | none => .idle
  | some b => if c.mayIssue b q cyc then fetchAt c.istore q (b.endOf q) b.priv (c.pcOf q) else .idle

/-! ## Transfer contexts -/

/-- What a context does next: continue the command in progress, issue a word, stop at a word, or nothing. -/
inductive TFetch where
  | run (i : Instr)
  | stop (code : Byte) (info0 info1 : W64)
  | idle
deriving DecidableEq, Repr

/-- The transfer words that need privilege (R60): URGN, and REQ outside service mode. FOLLOW is no word of a die or
far-tier engine (R303). -/
def tPrivileged (svc : Bool) : Instr → Bool
  | .urgn _ => true
  | .req _ => !svc
  | _ => false

/-- The word is one that only a core transfer engine executes (R303). -/
def coreOnly : Instr → Bool
  | .follow _ => true
  | _ => false

/-- Decode the word at a context's program counter (R59, R270). -/
def tFetchAt (store : Cells) (plen : Nat) (priv svc isCore : Bool) (tpc : W32) : TFetch :=
  let at0 := tpc.toNat
  if plen ≤ at0 then .stop trIllegal 0 (tpc.setWidth 64)
  else
    let n := tWordLen (store.get at0)
    if plen < at0 + n then .stop trIllegal 0 (tpc.setWidth 64)
    else
      let w := store.rd at0 n
      match (if n == 8 then decodeT64 w else decodeT128 w) with
      | none => .stop trIllegal (BitVec.ofNat 64 w) (tpc.setWidth 64)
      | some i =>
        if coreOnly i && !isCore then .stop trIllegal (BitVec.ofNat 64 w) (tpc.setWidth 64)
        else if tPrivileged svc i && !priv then .stop trPrivileged (BitVec.ofNat 64 w) (tpc.setWidth 64)
        else .run i

/-- The source number of a sequencer's trap (R138). -/
def seqSource : SeqName → BitVec 3
  | .x => 0
  | .l => 1
  | .c => 2
  | .s => 3

/-- The vector sequencer a step acts for; L where the step is X's. -/
def seqV : SeqName → VSeq
  | .c => .c
  | .s => .s
  | _ => .l

/-- The outside world's writes reach host, CXL and peer memory only; they keep the machine's own homes as they are. -/
def outsideWrite (m : Mach) (addr : Nat) (bytes : List Byte) : Mach :=
  let hostOrCxl := decide (10 * 2 ^ 48 ≤ addr) && decide (addr + bytes.length ≤ 13 * 2 ^ 48)
  let peer := decide (2 ^ 52 ≤ addr) && decide (addr + bytes.length ≤ 2 ^ 62)
  if hostOrCxl || peer then { m with mem := m.mem.put addr bytes } else m

end Sys2Proof.Machine
end

