-- ==== Sys2Proof/Machine/Blocking.lean ====
section
/-!
DEFINITION. Machine/Blocking.lean: words that wait (R43, R178), the queues (R15, R16, R76, R184), and what their timeouts
report (R137).
-/

namespace Sys2Proof.Machine

/-! ## Waiting (R43, R178) -/

/-- What a blocking word does at one look: act, give up (W = 0), or wait. -/
inductive Blk where
  | act
  | giveUp
  | hold (w : Wait)

/-- A blocking word with limit code `lim` looks at its condition (R43): `opp` says that the clock is one of its
opportunities, `ok` that its condition holds. Past its deadline it only waits for the timeout. -/
def blkStep (i : Instr) (lim cyc : Nat) (opp : Bool) (wait : Option Wait) (ok : Bool) : Blk :=
  let w := wait.getD ⟨i, cyc, some lim⟩
  if opp && ok && (lim == 0 || decide (cyc < w.issued + 256 * lim)) then .act
  else if opp && lim == 0 then .giveUp
  else .hold w

/-- A wait has reached its deadline (R178). -/
def Wait.expired (w : Wait) (cyc : Nat) : Bool :=
  match w.limit with
  | some l => l != 0 && decide (w.issued + 256 * l ≤ cyc)
  | none => false

/-- A blocking word of X. A release word (`rel`) is not issued before X's earlier accesses are served (R117). `pre` is a
trap that the word raises before it waits; `act` is what it does when its condition holds, none when it does not. -/
def xBlock (s : State) (i : Instr) (len : Nat) (g : Guard) (regs : List SReg) (rel : Bool) (rp : PReg) (lim : Nat)
    (opp : Ctl → Core → Bool) (pre : Ctl → Mach → Option (Byte × W64 × W64)) (act : Ctl → Mach → Option Mach) : Out :=
  onMach s fun k m =>
    let n := k.cur.val
    let c := m.core n
    let leave (m : Mach) (b : Bool) : Mach :=
      let c := m.core n
      m.setCore n { c with x := { (c.x.next k.cyc len) with p := setPred c.x.p rp b } }
    if !guardHolds g c.x.p then m.setCore n { c with x := c.x.next k.cyc len }
    else if regs.any c.x.busy || (rel && !c.x.drained) then m
    else match pre k m with
      | some (code, i0, i1) => m.takeTrap k k.cur ⟨code, 0, c.x.pc, i0, i1⟩
      | none =>
        let r := if opp k c then act k m else none
        match blkStep i lim k.cyc (opp k c) c.x.wait r.isSome with
        | .act => leave (r.getD m) true
        | .giveUp => leave m false
        | .hold w => m.setCore n { c with x := { c.x with wait := some w } }

/-- A word of X that goes on without a limit once a condition holds (R113, R178); `act` is what it does then. -/
def xUntil (s : State) (i : Instr) (len : Nat) (g : Guard) (ready : Fin 320 → Mach → Bool) (act : Fin 320 → Mach → Mach := fun _ m => m) :
    Out :=
  onMach s fun k m =>
    let n := k.cur.val
    let c := m.core n
    let c' := { c with x := c.x.next k.cyc len }
    if !guardHolds g c.x.p then m.setCore n c'
    else if ready k.cur m then act k.cur (m.setCore n c')
    else m.setCore n { c with x := { c.x with wait := some (c.x.wait.getD ⟨i, k.cyc, none⟩) } }

/-- X has acquired: what C has written to the emit pool happens before its later words (R117, R121). -/
def Core.acquired (c : Core) : Core := { c with lastSem := c.emit.written }

/-! ## Semaphores -/

/-- Wait on a semaphore of a core for value ≥ n, taking n when `take` (R181). -/
def Core.semTest (c : Core) (i n : Nat) (take : Bool) : Option Core :=
  if (n : Int) ≤ (c.sem i).toInt then some (if take then c.setSem i (c.sem i - BitVec.ofNat 64 n) else c) else none

/-! ## Queues -/

/-- The item is an entry. -/
def QItem.isEntry : QItem → Bool
  | .entry _ _ _ => true
  | _ => false

/-- The entries a queue holds (R15). -/
def Core.qCount (c : Core) (q : Nat) : Nat := ((vget c.q q []).filter QItem.isEntry).length

/-- Append to a queue: an entry, or a register write that travels in order (R76). -/
def Core.qAppend (c : Core) (q : Nat) (i : QItem) : Core := { c with q := vset c.q q (vget c.q q [] ++ [i]) }

/-- Put an entry when one is free; it is readable from the next clock on (R16). -/
def Core.qPut (c : Core) (q : Nat) (v : W64) (cyc : Nat) : Option Core :=
  if c.qCount q < 16 then some (c.qAppend q (.entry v cyc c.emit.written)) else none

/-- The register writes before a queue's oldest entry, that entry, and the rest. -/
def qSplit : List QItem → List QItem × Option (W64 × Nat × Nat) × List QItem
  | [] => ([], none, [])
  | .entry v t e :: r => ([], some (v, t, e), r)
  | i :: r =>
    let (w, e, r') := qSplit r
    (i :: w, e, r')

/-- Adopt a register write (R76, R150): `fcr` of the sequencer, or C's `srkey` and `sridx`. -/
def Core.adopt (q : VSeq) (c : Core) (i : QItem) : Core :=
  match i with
  | .fcr v => c.setVs q { c.vs q with fcr := v }
  | .srkey v => { c with srkey := v }
  | .sridxLo v => { c with sridx := c.sridx.extractLsb' 64 32 ++ v }
  | .sridxHi v => { c with sridx := v ++ c.sridx.extractLsb' 0 64 }
  | .entry _ _ _ => c

/-- Take a queue's oldest entry, if it was there at the start of the clock (R16); register writes before it are adopted
by its reader (R76). -/
def Core.qGet (c : Core) (q : Nat) (reader : Option VSeq) (cyc : Nat) : Option (W64 × Nat × Core) :=
  match qSplit (vget c.q q []) with
  | (w, some (v, t, e), r) =>
    if t < cyc then
      let c := { c with q := vset c.q q r }
      some (v, e, match reader with
        | some seq => w.foldl (Core.adopt seq) c
        | none => c)
    else none
  | _ => none

end Sys2Proof.Machine
end

