-- ==== Sys2Proof/Machine/VOps.lean ====
section
/-!
DEFINITION. Machine/VOps.lean: how a word of L, C or S goes past itself (R199, R229), acts under its guard (R38), traps
(R135) and waits (R43, R223, R226).
-/

namespace Sys2Proof.Machine

/-- The level counters of LOOPN after a pass (R229), level 0 innermost; none after the last. -/
def nextCount : List Nat → List Nat → Option (List Nat)
  | b :: bs, n :: ns => if n + 1 < b then some ((n + 1) :: ns) else (nextCount bs ns).map (0 :: ·)
  | _, _ => none

/-- A vector sequencer goes past a word of `len` bytes; after the last word of a LOOPN body the next pass begins
(R229). -/
def VState.next (v : VState) (cyc len : Nat) : VState :=
  let pc := v.pc + BitVec.ofNat 32 len
  let v := { v with pc := pc, ready := cyc + 1, wait := none, acc := none, ext := none }
  match v.loop with
  | none => v
  | some l =>
    if pc == l.stop then
      match nextCount l.bounds l.count with
      | some n => { v with pc := l.start, loop := some { l with count := n } }
      | none => { v with loop := none }
    else v

/-- The core after a sequencer's word of `len` bytes. -/
def Core.vNext (c : Core) (q : VSeq) (cyc len : Nat) : Core := c.setVs q ((c.vs q).next cyc len)

/-- The guard of a vector or matrix word holds (R38). -/
def Core.vGuard (c : Core) (q : VSeq) (g : Guard) : Bool := guardHolds g (c.vs q).p

/-- The source number of a vector sequencer's trap (R138). -/
def vSource : VSeq → BitVec 3
  | .l => 1
  | .c => 2
  | .s => 3

/-- Read a k register of a sequencer. -/
def Core.k (c : Core) (q : VSeq) (r : Reg4) : W64 := (c.vs q).getK r.toNat

/-- Write a k register of a sequencer. -/
def Core.setKreg (c : Core) (q : VSeq) (r : Reg4) (v : W64) : Core := c.setVs q ((c.vs q).setK r.toNat v)

/-- Write a predicate of a sequencer. -/
def Core.setVPred (c : Core) (q : VSeq) (r : PReg) (b : Bool) : Core :=
  c.setVs q { c.vs q with p := setPred (c.vs q).p r b }

/-- Raise flags in a sequencer's `fsr` (R149). -/
def Core.vFlags (c : Core) (q : VSeq) (f : Flags) : Core := c.setVs q { c.vs q with fsrNew := orFsr (c.vs q).fsrNew f }

/-- A word of a vector sequencer on the machine: under a true guard `f` answers the machine before the word is passed,
or a trap (precise, R135). -/
def vMach (s : State) (len : Nat) (g : Guard) (f : Ctl → Mach → Except (Byte × W64 × W64) Mach) : Out :=
  onMach s fun k m =>
    let n := k.cur.val
    let c := m.core n
    if !c.vGuard k.curV g then m.setCore n (c.vNext k.curV k.cyc len)
    else match f k m with
      | .ok m' => m'.setCore n ((m'.core n).vNext k.curV k.cyc len)
      | .error (code, i0, i1) => m.takeTrap k k.cur ⟨code, vSource k.curV, (c.vs k.curV).pc, i0, i1⟩

/-- A word of a vector sequencer that acts on its core. -/
def vTry (s : State) (len : Nat) (g : Guard) (f : Ctl → Core → CoreRes) : Out :=
  vMach s len g fun k m => match f k (m.core k.cur.val) with
    | .ok c => .ok (m.setCore k.cur.val c)
    | .trap code i0 i1 => .error (code, i0, i1)

/-- A word of a vector sequencer that acts on its core and does not trap. -/
def vDo (s : State) (len : Nat) (g : Guard) (f : Ctl → Core → Core) : Out :=
  onCore s fun k c => if c.vGuard k.curV g then (f k c).vNext k.curV k.cyc len else c.vNext k.curV k.cyc len

/-- The result of a floating-point word of a vector sequencer (R162, R201): an enabled flag traps and nothing changes, else
the flags are ORed into `fsr`. IS never traps. -/
def vFp (c : Core) (q : VSeq) (f : Flags) (r : Core) : CoreRes :=
  if fpTraps (c.vs q).fcr f then .trap trFpEnabled (f.setWidth 64 &&& 31) ((c.vs q).pc.setWidth 64)
  else .ok (r.vFlags q f)

/-- Nothing holds a word at issue. -/
def noStall : VSeq → Core → Bool := fun _ _ => false

/-- The wheel position of a vector sequencer (R26). -/
def vPosition (q : VSeq) (cyc : Nat) : Bool := atPosition q.toSeq cyc

/-- The clock is a position of the sequencer that the step acts for. -/
def ownPosition (k : Ctl) : Bool := vPosition k.curV k.cyc

/-! ## Loads from scratchpad (R26-R28, R205) -/

/-- The units of a list that one position serves: of each bank the first that is still to be read (R27, R205). -/
def wheelServes (us : List Nat) : List Nat :=
  us.foldl (fun acc u => if acc.any fun x => x % 64 == u % 64 then acc else acc ++ [u]) []

/-- The units of a list that an access has not read. -/
def unread (got : List (Nat × List Byte)) (us : List Nat) : List Nat := us.filter fun u => !got.any fun g => g.1 == u

/-- A scratchpad as an access has read it: the units it has read as they were when their positions served them. -/
def seenAs (sp : Cells) (got : List (Nat × List Byte)) : Cells := got.foldl (fun sp g => sp.put (64 * g.1) g.2) sp

/-- What a sequencer's load has read. -/
def Core.gotOf (c : Core) (q : VSeq) : List (Nat × List Byte) := ((c.vs q).acc.map (·.got)).getD []

/-- What comes of a load in one clock. -/
inductive LoadStep where
  /-- it has read all that it reads: the core with the scratchpad as it read it -/
  | done (view : Core)
  /-- it waits for its next position -/
  | wait (c : Core)

/-- One clock of a load (R27; notes/assumptions/36.md): `need` are the units it reads, each once, in element order, by what it has
read of them; in one of its positions it reads, of each bank, the first that is left. -/
def Core.loadStep (c : Core) (q : VSeq) (i : Instr) (cyc : Nat) (pos : Bool) (need : Core → List Nat) : LoadStep :=
  let view (got : List (Nat × List Byte)) : Core := { c with sp := seenAs c.sp got }
  let got := c.gotOf q
  let left := unread got (need (view got))
  if left.isEmpty then .done (view got)
  else if pos && decide (c.pos.1 ≤ cyc) then
    let got := got ++ (wheelServes left).map fun u => (u, unitAt c.sp u)
    let c := { c with pos := (cyc + 1, 0) }
    if (unread got (need (view got))).isEmpty then .done { view got with pos := (cyc + 1, 0) }
    else .wait (c.setVs q { c.vs q with acc := some ⟨i, got⟩, wait := none, ready := cyc + 1 })
  else .wait (c.setVs q { c.vs q with acc := some ⟨i, got⟩, wait := none })

/-- A load of a vector sequencer under its guard: `check` is a trap that needs no data; `act` answers from the scratchpad as it was
read. -/
def vLoad (s : State) (i : Instr) (len : Nat) (g : Guard) (pos : Ctl → Bool) (check : Ctl → Core → Option (Byte × W64 × W64))
    (need : Ctl → Core → List Nat) (act : Ctl → Core → CoreRes) : Out :=
  onMach s fun k m =>
    let n := k.cur.val
    let q := k.curV
    let c := m.core n
    let trap (t : Byte × W64 × W64) : Mach := m.takeTrap k k.cur ⟨t.1, vSource q, (c.vs q).pc, t.2.1, t.2.2⟩
    if !c.vGuard q g then m.setCore n (c.vNext q k.cyc len)
    else match check k c with
      | some t => trap t
      | none =>
        match c.loadStep q i k.cyc (pos k) (need k) with
        | .wait c' => m.setCore n c'
        | .done view =>
          match act k view with
          | .ok c' => m.setCore n ({ c' with sp := c.sp }.vNext q k.cyc len)
          | .trap code i0 i1 => trap (code, i0, i1)

/-- An earlier word of C that is queued or running and meets a condition. -/
def Core.matPending (c : Core) (p : MEntry → Bool) : Bool :=
  c.mat.queue.any p || (match c.mat.run with
    | some r => !r.entry.port && p r.entry
    | none => false)

/-- An earlier MACCR of C that will write a tile is not complete (R233). -/
def Core.tileBusy (c : Core) (t : Nat) : Bool :=
  c.matPending fun e =>
    e.word.op == mopMaccr && decide (e.word.args.opsAt 0 4 ≤ t) && decide (t ≤ e.word.args.opsAt 0 4 + 3)

/-- An UPD of C has entries still to write (R353). -/
def Core.emitting (c : Core) (q : VSeq) : Bool := q == .c && !c.emit.todo.isEmpty

/-- A blocking word of a vector sequencer (R43), which is not issued while `stall` holds. `act` answers the core and the
report when the condition holds. -/
def vBlock (s : State) (i : Instr) (w : VArgs) (stall : VSeq → Core → Bool) (opp : Ctl → Bool)
    (pre : Ctl → Core → Option (Core × Byte × W64 × W64)) (act : Ctl → Core → Option (Core × Bool)) : Out :=
  onMach s fun k m =>
    let n := k.cur.val
    let q := k.curV
    let c := m.core n
    let leave (c : Core) (b : Bool) : Mach := m.setCore n ((c.setVPred q w.msel b).vNext q k.cyc 12)
    if !c.vGuard q w.g then m.setCore n (c.vNext q k.cyc 12)
    else if stall q c then m
    else match pre k c with
      | some (c', code, i0, i1) => (m.setCore n c').takeTrap k k.cur ⟨code, vSource q, (c.vs q).pc, i0, i1⟩
      | none =>
        let r := if opp k then act k c else none
        match blkStep i w.imm.toNat k.cyc (opp k) (c.vs q).wait r.isSome, r with
        | .act, some (c', b) => leave c' b
        | .act, none => m
        | .giveUp, _ => leave c false
        | .hold x, _ => m.setCore n (c.setVs q { c.vs q with wait := some x })

end Sys2Proof.Machine
end

