-- ==== Sys2Proof/Machine/Rings.lean ====
section
/-!
DEFINITION. Machine/Rings.lean: ring control blocks (R220-R225) and the queue, semaphore, scalar and loop words of L, C and
S (R226-R230).
-/

namespace Sys2Proof.Machine

/-! ## Ring control blocks (R220-R222) -/

/-- The offset of a ring control block (R220). -/
def ringOff (j : Nat) : Nat := 0x3E8000 + 32 * j

def ringBase (b : Nat) : Nat := fld b 0 4
def ringSlotSz (b : Nat) : Nat := fld b 4 4
def ringLog2N (b : Nat) : Nat := fld b 8 1
def ringState (b : Nat) : Nat := fld b 9 1
def ringExt (b : Nat) : Bool := b.testBit 80
def ringExtended (b : Nat) : Bool := b.testBit 81
def ringHead (b : Nat) : Nat := fld b 12 4
def ringTail (b : Nat) : Nat := fld b 16 4
def ringClaim (b : Nat) : Nat := fld b 20 2
def ringErr (b : Nat) : Nat := fld b 24 4
def ringExtAt (b : Nat) : Nat := fld b 28 4

/-- Replace `len` bytes at offset `off` of a number. -/
def putFld (n off len v : Nat) : Nat := putBits n (8 * off) (8 * len) v

/-- Slots N of a ring (R220). -/
def ringN (b : Nat) : Nat := 2 ^ ringLog2N b

/-- Capacity: N, or 2N when extended. -/
def ringCap (b : Nat) : Nat := if ringExtended b then 2 * ringN b else ringN b

/-- TAIL − HEAD, modulo 2^32. -/
def ringUsed (b : Nat) : Nat := (ringTail b + 2 ^ 32 - ringHead b) % 2 ^ 32

/-- Filled slots (R220). -/
def ringFilled (b : Nat) : Nat := ringUsed b - ringClaim b

/-- Free slots (R220). -/
def ringFree (b : Nat) : Nat := ringCap b - ringUsed b

/-- The layout rules of a block, all but the count bounds (R220, R221). -/
def ringLayoutOk (b : Nat) : Bool :=
  ringBase b % 64 == 0 && ringSlotSz b % 64 == 0 && decide (64 ≤ ringSlotSz b) && decide (ringLog2N b ≤ 8) &&
    decide (ringState b ≤ 2) && b / 2 ^ 82 % 2 ^ 14 == 0 && fld b 22 2 == 0 &&
    decide (ringBase b + ringCap b * ringSlotSz b ≤ 0x3E0000)

/-- The count bounds (R221). -/
def ringCountOk (b : Nat) : Bool := decide (ringClaim b ≤ ringUsed b) && decide (ringUsed b ≤ ringCap b)

/-- Fault a ring: STATE 2 and its error word (R221, R269, R300). -/
def ringFault (b err : Nat) : Nat := putFld (putFld b 9 1 2) 24 4 err

/-- The block check of R221: the block as it is left and ERR when the ring is faulted, else none. -/
def ringCheck (b : Nat) : Option (Nat × Nat) :=
  if ringState b == 2 then some (b, ringErr b)
  else if !ringLayoutOk b then some (ringFault b 1, 1)
  else if !ringCountOk b then some (ringFault b 2, 2)
  else none

/-- The scratchpad offset of a count's slot (R222). -/
def ringSlot (b c : Nat) : Nat :=
  let n := ringN b
  let slot :=
    if ringExtended b then
      let f := (c + 2 ^ 32 - ringExtAt b) % 2 ^ 32 % (2 * n)
      if f < n then n + f else (ringExtAt b + f) % n
    else c % n
  ringBase b + slot * ringSlotSz b

/-- The block of a ring in a core's scratchpad. -/
def Core.ring (c : Core) (j : Nat) : Nat := c.sp.rd (ringOff j) 32

/-- Write the block of a ring. -/
def Core.setRing (c : Core) (j b : Nat) : Core := { c with sp := c.sp.wr (ringOff j) 32 b }

/-- Link a ring's extension (R224): EXTAT ← TAIL, EXTENDED ← 1. -/
def ringLink (b : Nat) : Nat := putBits (putFld b 28 4 (ringTail b)) 81 1 1

/-- An extension may be linked (R224): EXT, not extended, full, and within the data area. -/
def ringLinkable (b : Nat) : Bool :=
  ringExt b && !ringExtended b && ringFree b == 0 && decide (ringBase b + 2 * ringN b * ringSlotSz b ≤ 0x3E0000)

/-- The checks every ring word makes (R221): the core as it is left, and the trap. -/
def Core.ringTrap (c : Core) (i : W64) : Option (Core × Byte × W64 × W64) :=
  if 1024 ≤ i.toNat then some (c, trRingRange, i, 0)
  else
    match ringCheck (c.ring i.toNat) with
    | some (b, err) =>
      some (if ringState (c.ring i.toNat) == 2 then c else c.setRing i.toNat b, trRingFaulted, i, BitVec.ofNat 64 err)
    | none => none

/-- A ring wait (R223): `ready` says that its condition holds, `count` which count's slot it answers. -/
def ringWait (s : State) (i : Instr) (w : VArgs) (ready : Nat → Bool) (count : Nat → Nat) : Out :=
  vBlock s i w noStall (fun k => vPosition k.curV k.cyc) (fun k c => if vPosition k.curV k.cyc then c.ringTrap (c.k k.curV w.a) else none)
    fun k c =>
      let b := c.ring (c.k k.curV w.a).toNat
      if ready b then some (c.setKreg k.curV w.d (BitVec.ofNat 64 (ringSlot b (count b))), true)
      else if ringState b == 1 then some (c.setKreg k.curV w.d (BitVec.allOnes 64), false)
      else none

/-- RWAITF (R223): a filled slot. -/
def execRwaitf (w : VArgs) (s : State) : Out := ringWait s (.rwaitf w) w (fun b => decide (1 ≤ ringFilled b)) ringHead

/-- RWAITE (R223): a free slot. -/
def execRwaite (w : VArgs) (s : State) : Out := ringWait s (.rwaite w) w (fun b => decide (1 ≤ ringFree b)) ringTail

/-- A ring word that does not wait for its condition (R225), in one of the sequencer's positions (R26, R220); `f` answers the core or
RING_STATE. A block found invalid is faulted (R221). -/
def ringDo (s : State) (w : VArgs) (f : VSeq → Core → Nat → Nat → Option Core) : Out :=
  onMach s fun k m =>
    let n := k.cur.val
    let q := k.curV
    let c := m.core n
    if !c.vGuard q w.g then m.setCore n (c.vNext q k.cyc 12)
    else if !vPosition q k.cyc then m
    else
      let i := c.k q w.a
      match c.ringTrap i with
      | some (c', code, i0, i1) => (m.setCore n c').takeTrap k k.cur ⟨code, vSource q, (c.vs q).pc, i0, i1⟩
      | none =>
        let b := c.ring i.toNat
        match f q c i.toNat b with
        | some c' => m.setCore n (c'.vNext q k.cyc 12)
        | none =>
          m.takeTrap k k.cur
            ⟨trRingState, vSource q, (c.vs q).pc, i, BitVec.ofNat 64 (ringHead b * 2 ^ 32 + ringTail b)⟩

/-- RCLAIM (R225). -/
def execRclaim (w : VArgs) (s : State) : Out :=
  ringDo s w fun q c j b =>
    if ringState b == 0 && decide (1 ≤ ringFree b) then
      let b' := putFld (putFld b 16 4 (ringTail b + 1)) 20 2 (ringClaim b + 1)
      some ((c.setRing j b').setKreg q w.d (BitVec.ofNat 64 (ringSlot b (ringTail b))))
    else some (c.setKreg q w.d (BitVec.allOnes 64))

/-- RPUB (R225). -/
def execRpub (w : VArgs) (s : State) : Out :=
  ringDo s w fun _ c j b => if ringClaim b == 0 then none else some (c.setRing j (putFld b 20 2 (ringClaim b - 1)))

/-- RREL (R225). -/
def execRrel (w : VArgs) (s : State) : Out :=
  ringDo s w fun _ c j b => if ringFilled b == 0 then none else some (c.setRing j (putFld b 12 4 (ringHead b + 1)))

/-! ## Queues and semaphores of L, C and S (R226, R227, R332) -/

/-- C's own matrix words are all complete, and every UPD (R332, R353); L and S have none. -/
def Core.ownMatrixDone (c : Core) (q : VSeq) : Bool :=
  q != .c || (c.emit.todo.isEmpty && c.mat.queue.isEmpty && (match c.mat.run with
    | some r => r.entry.port
    | none => true))

/-- QPUT of L, C and S (R226); C's waits at issue for C's matrix words (R332). -/
def execQputVw (w : VArgs) (s : State) : Out :=
  vBlock s (.qputVw w) w (fun q c => !c.ownMatrixDone q) (fun _ => true) (fun _ _ => none) fun k c =>
    (c.qPut w.fn.toNat (c.k k.curV w.a) k.cyc).map fun c' => (c', true)

/-- QGET of L, C and S (R76, R226); C's waits at issue for its UPDs (R353). -/
def execQgetVw (w : VArgs) (s : State) : Out :=
  vBlock s (.qgetVw w) w (fun q c => c.emitting q) (fun _ => true) (fun _ _ => none) fun k c =>
    (c.qGet w.fn.toNat (some k.curV) k.cyc).map fun r => (r.2.2.setKreg k.curV w.d r.1, true)

/-- SEMADD of L, C and S (R227), in one of the sequencer's positions; C's waits at issue for C's matrix words (R332). -/
def execSemaddVw (w : VArgs) (s : State) : Out :=
  onMach s fun k m =>
    let n := k.cur.val
    let q := k.curV
    let c := m.core n
    if !c.vGuard q w.g then m.setCore n (c.vNext q k.cyc 12)
    else if !c.ownMatrixDone q then m
    else
      let i := c.k q w.a + w.imm.signExtend 64
      if 4096 ≤ i.toNat then m.takeTrap k k.cur ⟨trSemRange, vSource q, (c.vs q).pc, i, 0⟩
      else if !vPosition q k.cyc then m
      else m.setCore n ((c.setSem i.toNat (c.sem i.toNat + c.k q w.b)).vNext q k.cyc 12)

/-- SEMWAIT of L, C and S (R227); C's waits at issue for its UPDs (R353). -/
def execSemwaitVw (w : VArgs) (s : State) : Out :=
  vBlock s (.semwaitVw w) w (fun q c => c.emitting q) (fun k => vPosition k.curV k.cyc)
    (fun k c =>
      let i := c.k k.curV w.a
      if 4096 ≤ i.toNat then some (c, trSemRange, i, 0) else none)
    fun k c =>
      (c.semTest (c.k k.curV w.a).toNat ((c.k k.curV w.b).toNat % 2 ^ 32) (w.fn.getLsbD 0)).map fun c' => (c', true)

/-! ## Scalars and loops (R228-R230) -/

/-- KLI (R228). -/
def execKli (w : VArgs) (s : State) : Out := vDo s 12 w.g fun k c => c.setKreg k.curV w.d (w.imm.signExtend 64)

/-- KADD (R228). -/
def execKadd (w : VArgs) (s : State) : Out :=
  vDo s 12 w.g fun k c => c.setKreg k.curV w.d (c.k k.curV w.a + w.imm.signExtend 64)

/-- The end of a LOOPN body of `b` words from an offset, and whether a LOOPN stands in it (R229); none when it runs past
`stop`. -/
def bodyEnd (store : Cells) (stop : Nat) : Nat → Nat → Option (Nat × Bool)
  | 0, at0 => some (at0, false)
  | b + 1, at0 =>
    if stop ≤ at0 then none
    else
      let n := wordLen (store.get at0)
      if stop < at0 + n then none
      else
        let isLoop := n == 12 && opAt (store.rd at0 12) == 0x3F
        (bodyEnd store stop b (at0 + n)).map fun r => (r.1, isLoop || r.2)

/-- Where a vector sequencer's program ends (R199). -/
def Core.vEnd (c : Core) (q : VSeq) : Nat :=
  match c.task with
  | none => 0
  | some b => match q with
    | .l => 64 * (b.desc.entC / 16)
    | .c => 64 * (b.desc.entS / 16)
    | .s => b.desc.moveOff

/-- The level bounds of a LOOPN (R229). -/
def loopBounds (k : W64) (levels : Nat) : List Nat := (List.range levels).map fun j => k.toNat / 2 ^ (10 * j) % 1024

/-- LOOPN (R229, R230). -/
def execLoopn (w : VArgs) (s : State) : Out :=
  onMach s fun k m =>
    let n := k.cur.val
    let q := k.curV
    let c := m.core n
    let v := c.vs q
    if !c.vGuard q w.g then m.setCore n (c.vNext q k.cyc 12)
    else
      let words := w.imm.toNat % 32 + 1
      let start := v.pc.toNat + 12
      let trap := m.takeTrap k k.cur ⟨trLoopBody, vSource q, v.pc, v.pc.setWidth 64, BitVec.ofNat 64 words⟩
      match bodyEnd c.istore (c.vEnd q) words start with
      | none => trap
      | some (stop, inner) =>
        if inner then trap
        else
          let bs := loopBounds (c.k q w.a) (w.fn.toNat + 1)
          let v := { v with ready := k.cyc + 1, wait := none }
          m.setCore n (c.setVs q (if bs.any (· == 0) then { v with pc := BitVec.ofNat 32 stop, loop := none }
            else { v with
              pc := BitVec.ofNat 32 start
              loop := some ⟨BitVec.ofNat 32 start, BitVec.ofNat 32 stop, bs, List.replicate bs.length 0⟩ }))

end Sys2Proof.Machine
end

