-- ==== Sys2Proof/Machine/Streams.lean ====
section
/-!
DEFINITION. Machine/Streams.lean: the streams of L and S (R95, R96, R198-R214): opening and closing, the unit an access
moves, its checks in their order, the values that lanes and elements take, loads and stores.
-/

namespace Sys2Proof.Machine

/-! ## Stream registers -/

/-- A stream register of L or S (R198). -/
def Core.stream (c : Core) (q : VSeq) (n : Nat) : Option Stream :=
  match q with
  | .s => vget c.gs n none
  | _ => vget c.gl n none

/-- Write a stream register. -/
def Core.setStream (c : Core) (q : VSeq) (n : Nat) (x : Option Stream) : Core :=
  match q with
  | .s => { c with gs := vset c.gs n x }
  | _ => { c with gl := vset c.gl n x }

/-- The data area of a scratchpad (R24, R205). -/
def inData (a : Int) (n : Nat) : Bool := decide (0 ≤ a) && decide (a + n ≤ 0x3E0000)

/-- Lines of a ragged record: one for each combination of the outer indices (R214). -/
def Shape.lines (r : Shape) : Nat := r.count / r.bound 0

/-- The checks of a record that L or S opens (R92, R99, R208): a trap code and tinfo0. `at0` is what SHAPE_INVALID
names. -/
def Shape.openFault (r : Shape) (at0 : W64) : Option (Byte × W64) :=
  if !r.valid then some (trShapeInvalid, at0)
  else
    match [r.base, r.scBase, r.bandBase].find? fun a => a != 0 && windowCode a != 1 with
    | some a => some (trAperture, a)
    | none =>
      if r.isRagged && !inData (r.ragged.toNat : Nat) (4 * r.lines) then some (trShapeInvalid, at0) else none

/-- Put an entry first in the record cache of 16 (R95). -/
def cacheUse (e : CacheEntry) (l : List CacheEntry) : List CacheEntry :=
  (e :: l.filter fun x => x.offset != e.offset).take 16

/-- A record of 192 bytes in the core's own scratchpad. -/
def Core.record (c : Core) (o : Nat) : Shape := Shape.parse (c.sp.rd o 192)

/-- Where GOPEN finds its record (R208). -/
def openOffset (w : VArgs) (k : Ctl) (c : Core) : W64 := c.k k.curV w.a + w.imm.signExtend 64

/-- The cached record of an offset (R95). -/
def Core.cached (c : Core) (o : W64) : Option CacheEntry := c.cache.find? fun x => x.offset == o.toNat

/-- GOPEN (R95, R208): a record that the cache does not hold is read in the sequencer's positions. -/
def execGopen (w : VArgs) (s : State) : Out :=
  vLoad s (.gopen w) 12 w.g ownPosition
    (fun k c =>
      let o := openOffset w k c
      if o.toNat % 8 != 0 || decide (0x3E0000 < o.toNat + 192) then some (trShapeInvalid, o, 0) else none)
    (fun k c => if (c.cached (openOffset w k c)).isSome then [] else unitsOf (openOffset w k c).toNat 192)
    fun k c =>
      let o := openOffset w k c
      let e := (c.cached o).getD ⟨o.toNat, c.record o.toNat⟩
      match e.recd.openFault o with
      | some (code, i0) => .trap code i0 0
      | none =>
        .ok ({ c with cache := cacheUse e c.cache }.setStream k.curV w.d.toNat
          (some ⟨e.recd, o.toNat, none, [0, 0, 0, 0, 0, 0], false, 0, 0, 0⟩))

/-- The index and the offset of the object-table entry that GOPEN.X names (R96). -/
def objIndex (w : VArgs) : Nat := w.imm.toNat % 2 ^ 16
def Core.objOffset (c : Core) (w : VArgs) : Nat := c.otbase.toNat + 256 * objIndex w

/-- GOPEN.X (R96, R208). Of an entry that `otbase` puts outside the data area, or past the end of the scratchpad, the spec says
nothing: the model reads what lies there, and zeros past the end; tinfo0 of an entry with an invalid record is the object's index
(DESIGN CHOICE, notes/assumptions/35.md). -/
def execGopenX (w : VArgs) (s : State) : Out :=
  vLoad s (.gopenX w) 12 w.g ownPosition
    (fun _ c => if c.otlen.toNat ≤ objIndex w then some (trAccess, BitVec.ofNat 64 (objIndex w), 0) else none)
    (fun _ c => unitsOf (c.objOffset w) 209)
    fun k c =>
      let i := objIndex w
      let at0 := c.objOffset w
      let rights := c.sp.get (at0 + 208)
      if !rights.getLsbD 7 then .trap trAccess (BitVec.ofNat 64 i) 0
      else
        let r := c.record at0
        match r.openFault (BitVec.ofNat 64 i) with
        | some (code, i0) => .trap code i0 0
        | none =>
          let b : ObjBind := ⟨i, c.sp.rd (at0 + 192) 8, c.sp.rd (at0 + 200) 8, rights.getLsbD 0, rights.getLsbD 1⟩
          .ok (c.setStream k.curV w.d.toNat (some ⟨r, at0, some b, [0, 0, 0, 0, 0, 0], false, 0, 0, 0⟩))

/-- GCLOSE (R208). -/
def execGclose (w : VArgs) (s : State) : Out := vDo s 12 w.g fun k c => c.setStream k.curV w.d.toNat none

/-- SHFENCE (R95, R208). -/
def execShfence (w : VArgs) (s : State) : Out := vDo s 12 w.g fun _ c => { c with cache := [] }

/-! ## The unit of an access (R204) -/

/-- The cursor after a unit of `w` elements by `r` lines, and whether it ended (R204). -/
def Shape.advance (rec : Shape) (w r : Nat) (cur : List Nat) : List Nat × Bool :=
  let c (n : Nat) : Nat := (cur[n]?).getD 0
  let c0 := c 0 + w
  let wrap0 := decide (rec.bound 0 ≤ c0)
  let c1 := if wrap0 then c 1 + r else c 1
  let step (st : List Nat × Nat) (n : Nat) : List Nat × Nat :=
    let x := (if n == 1 then c1 else c n) + st.2
    if rec.bound n ≤ x then (st.1 ++ [0], 1) else (st.1 ++ [x], 0)
  let (rest, carry) := [1, 2, 3, 4, 5].foldl step ([], 0)
  ((if wrap0 then 0 else c0) :: rest, carry == 1)

/-- The stream after an access of `w` by `r` (R204). -/
def Stream.advance (t : Stream) (w r : Nat) : Stream :=
  let (cur, e) := t.recd.advance w r t.cur
  { t with cur := cur, ended := t.ended || e }

/-- The indices of a position of the unit. -/
def Stream.ixAt (t : Stream) (j r : Nat) : List Nat :=
  match t.cur with
  | c0 :: c1 :: rest => (c0 + j) :: (c1 + r) :: rest
  | l => l

/-- The position lies within BOUND0 and BOUND1. -/
def Stream.inside (t : Stream) (ix : List Nat) : Bool :=
  decide ((ix[0]?).getD 0 < t.recd.bound 0) && decide ((ix[1]?).getD 0 < t.recd.bound 1)

/-- tinfo0 of STREAM_BOUND: the low ten bits of each index (R206). -/
def ixInfo (ix : List Nat) : W64 :=
  BitVec.ofNat 64 ((ix.foldr (fun i acc => i % 1024 + 1024 * acc) 0) % 2 ^ 60)

/-- tinfo1 of a stream's traps: the register, and the object index in [31:16] (R206). -/
def Stream.info (t : Stream) (n : Nat) : W64 :=
  BitVec.ofNat 64 (n + (match t.obj with
    | some b => b.index * 2 ^ 16
    | none => 0))

/-- What SHAPE_INVALID names: the record's offset, or the object index (R206). -/
def Stream.shapeAt (t : Stream) : W64 :=
  match t.obj with
  | some b => BitVec.ofNat 64 b.index
  | none => BitVec.ofNat 64 t.offset

/-- BASE[21:0], as an offset (R205). -/
def offOf (a : W64) : Int := ((a.toNat % 2 ^ 22 : Nat) : Int)

/-- Bytes within the data area and, for an object, from LO up to HI (R96, R205). -/
def Stream.bytesOk (t : Stream) (a : Int) (n : Nat) : Bool :=
  inData a n && (match t.obj with
    | some b => decide ((b.lo : Int) ≤ a) && decide (a < (b.hi : Int))
    | none => true)

/-- The first byte, the bit within it and the bytes of an element. -/
def Stream.span (t : Stream) (ix : List Nat) : Int × Nat × Nat :=
  let (a, sh, n) := bitSpan (t.recd.bitOff ix) t.recd.width
  (offOf t.recd.base + a, sh, n)

/-- The offset of an element's scale byte. -/
def Stream.scaleAt (t : Stream) (ix : List Nat) : Int :=
  offOf t.recd.scBase + t.recd.scaleOff (t.recd.lineOf ix) ((ix[0]?).getD 0)

/-- The offset of an element's band scale. -/
def Stream.bandAt (t : Stream) (ix : List Nat) : Int := offOf t.recd.bandBase + bandOff (t.recd.lineOf ix)

/-- The scale and the band scale of an element lie in the data area (R205). -/
def Stream.scalesOk (t : Stream) (ix : List Nat) : Bool :=
  (decide (t.recd.fmt < 11) || inData (t.scaleAt ix) 1) && (t.recd.fmt != 15 || inData (t.bandAt ix) 2)

/-- Every byte that belongs to an element may be accessed (R205). -/
def Stream.elemOk (t : Stream) (ix : List Nat) : Bool :=
  let (a, _, n) := t.span ix
  t.bytesOk a n && t.scalesOk ix

/-- The units that hold the scale and the band scale of an element. -/
def Stream.scaleUnits (t : Stream) (ix : List Nat) : List Nat :=
  (if t.recd.fmt < 11 then [] else unitsOf (t.scaleAt ix).toNat 1) ++
    (if t.recd.fmt == 15 then unitsOf (t.bandAt ix).toNat 2 else [])

/-- The units that an element's bytes lie in. -/
def Stream.elemUnits (t : Stream) (ix : List Nat) : List Nat :=
  let (a, _, n) := t.span ix
  unitsOf a.toNat n ++ t.scaleUnits ix

/-- The positions of a unit that lie inside the bounds, in element order, with their column and row. -/
def Stream.positions (t : Stream) (w r : Nat) : List (List Nat × Nat × Nat) :=
  ((List.range r).map fun y => (List.range w).map fun j => (t.ixAt j y, j, y)).flatten.filter fun p => t.inside p.1

/-- The units that an access of `w` by `r` touches, each once, in element order (R205). -/
def Stream.accessUnits (t : Stream) (w r : Nat) : List Nat :=
  ((t.positions w r).map fun p => t.elemUnits p.1).flatten.eraseDups

/-- The first position of a unit that an access may not touch (R204-R206), lines outermost. -/
def Stream.badAt (t : Stream) (w r : Nat) : Option (List Nat) :=
  (List.range r).findSome? fun y => (List.range w).findSome? fun j =>
    let ix := t.ixAt j y
    if t.inside ix then (if t.elemOk ix then none else some ix) else if t.recd.pad then none else some ix

/-- An object lacks the right that an access needs (R96, R206). -/
def Stream.rightsBad (t : Stream) (write : Bool) : Option Nat :=
  match t.obj with
  | some b => if (if write then b.wr else b.rd) then none else some b.index
  | none => none

/-- The checks of R206 down to the object's rights, for an access of `w` by `r`: a trap. -/
def Stream.fault (t : Stream) (n w r : Nat) (kindOk write : Bool) : Option (Byte × W64 × W64) :=
  if !kindOk then some (trShapeInvalid, t.shapeAt, 0)
  else if t.ended then some (trStreamBound, 0, t.info n)
  else
    match t.badAt w r with
    | some ix => some (trStreamBound, ixInfo ix, t.info n)
    | none =>
      match t.rightsBad write with
      | some i => some (trAccess, BitVec.ofNat 64 i, 0)
      | none => none

/-! ## Element values -/

/-- The stored bits of an element. -/
def Stream.raw (t : Stream) (sp : Cells) (ix : List Nat) : Nat :=
  let (a, sh, n) := t.span ix
  getBits (sp.rd a.toNat n) sh t.recd.width

/-- The stored bits of a position of a unit, FILL outside the bounds (R204). -/
def Stream.rawAt (t : Stream) (sp : Cells) (ix : List Nat) : Nat :=
  if t.inside ix then t.raw sp ix else t.recd.fill.toNat

/-- The scale byte of a position (R204: 127 or 0 outside). -/
def Stream.scale (t : Stream) (sp : Cells) (ix : List Nat) : Nat :=
  if t.inside ix then (sp.get (t.scaleAt ix).toNat).toNat else t.recd.padScale

/-- The band scale of a position; outside the bounds 1.0 (log entry 21). -/
def Stream.band (t : Stream) (sp : Cells) (ix : List Nat) : Nat :=
  if t.recd.fmt == 15 && t.inside ix then sp.rd (t.bandAt ix).toNat 2 else 0x3F80

/-- The lane that an element becomes, one element per lane (R209, R214, R218): raw bits of code `f`, with the scale and
the band for codes 11-15. -/
def laneOf (f : Nat) (rm : Rm) (b scale band : Nat) : W32 × Flags :=
  if f == 0 then (BitVec.ofNat 32 b, 0)
  else if f == 1 then (BitVec.ofNat 32 (b / 2 ^ 13 * 2 ^ 13), 0)
  else if f == 9 then ((BitVec.ofNat 8 b).signExtend 32, 0)
  else if f == 10 then ((BitVec.ofNat 4 b).signExtend 32, 0)
  else if f ≤ 8 then ((toF32 rm (elemVal f b)).1, 0)
  else toF32 rm (scaledVal f b scale band)

/-- The lane of a unit's row `r`, column `j` (R209): two 16-bit elements packed, or one element. -/
def Stream.laneAt (t : Stream) (sp : Cells) (rm : Rm) (j r : Nat) : W32 × Flags :=
  let f := t.recd.fmt
  if f == 2 || f == 3 then
    (BitVec.ofNat 32 (t.rawAt sp (t.ixAt (2 * j) r) + 2 ^ 16 * t.rawAt sp (t.ixAt (2 * j + 1) r)), 0)
  else
    let ix := t.ixAt j r
    laneOf f rm (t.rawAt sp ix) (t.scale sp ix) (t.band sp ix)

/-- Elements of a tile row (R204): 128 for formats of width 16, else 64. -/
def Shape.tileW (r : Shape) : Nat := if r.fmt == 2 || r.fmt == 3 then 128 else 64

/-- A tile from 1,024 lanes with their flags. -/
def tileOf (f : Nat → W32 × Flags) : Tile × Flags :=
  (tab 1024 fun i => (f i).1, (List.range 1024).foldl (fun a i => a ||| (f i).2) 0)

/-- A stream word with its open stream; STREAM_CLOSED otherwise (R206). -/
def withStream (s : State) (w : VArgs) (n : Nat) (f : Ctl → Core → Stream → CoreRes) : Out :=
  vTry s 12 w.g fun k c =>
    match c.stream k.curV n with
    | none => .trap trStreamClosed (BitVec.ofNat 64 n) 0
    | some t => f k c t

/-- A load through stream register `n` in the sequencer's positions (R27, R205): STREAM_CLOSED of a closed register, then a trap
that needs no data, then the units, then what the load does with them. -/
def streamLoad (s : State) (i : Instr) (w : VArgs) (n : Nat) (check : Stream → Option (Byte × W64 × W64))
    (need : Core → Stream → List Nat) (act : Ctl → Core → Stream → CoreRes) : Out :=
  vLoad s i 12 w.g ownPosition
    (fun k c => match c.stream k.curV n with
      | none => some (trStreamClosed, BitVec.ofNat 64 n, 0)
      | some t => check t)
    (fun k c => match c.stream k.curV n with
      | none => []
      | some t => need c t)
    fun k c => match c.stream k.curV n with
      | none => .trap trStreamClosed (BitVec.ofNat 64 n) 0
      | some t => act k c t

/-- GLD to a tile (R204, R206, R209): all lanes are written at one time, so that an access of another sequencer that is not ordered with it
finds them all old or all new (R200 allows either for each lane; DESIGN CHOICE, notes/assumptions/35.md). -/
def execGld (w : VArgs) (s : State) : Out :=
  streamLoad s (.gld w) w w.a.toNat
    (fun t => t.fault w.a.toNat t.recd.tileW 16 (t.recd.layout == 0 && !t.recd.isRagged && !t.recd.zplane) false)
    (fun _ t => t.accessUnits t.recd.tileW 16)
    fun k c t =>
      let (v, fl) := tileOf fun i => t.laneAt c.sp (fcrRm (c.vs k.curV).fcr) (i % 64) (i / 64)
      vFp c k.curV fl ((c.setTile w.d.toNat v).setStream k.curV w.a.toNat (some (t.advance t.recd.tileW 16)))

/-! ## Operand buffers (R200, R210, R326, R327) -/

/-- The packed bytes of a block of 64 lines of 96 elements. -/
def Stream.blockBytes (t : Stream) (sp : Cells) : List Byte :=
  let wd := t.recd.width
  let line (r : Nat) : Nat := (List.range 96).foldr (fun j acc => t.rawAt sp (t.ixAt j r) + 2 ^ wd * acc) 0
  ((List.range 64).map fun r => leBytes (12 * wd) (line r)).flatten

/-- The block's scales under R88: two bytes a line, or the band, zeros and twelve bytes a line. A group that straddles two stored scales, as
GADV can leave it, takes the scale of its first element (R210; DESIGN CHOICE, notes/assumptions/25.md). -/
def Stream.blockScales (t : Stream) (sp : Cells) : List Byte :=
  let sc (r h : Nat) : Byte := BitVec.ofNat 8 (t.scale sp (t.ixAt (t.recd.group * h) r))
  let per := 96 / t.recd.group
  let body := ((List.range 64).map fun r => (List.range per).map (sc r)).flatten
  if t.recd.fmt == 15 then leBytes 2 (t.band sp (t.ixAt 0 0)) ++ List.replicate 62 0 ++ body
  else if 11 ≤ t.recd.fmt then body
  else []

/-- The operand buffer that a GLD fills. -/
def Core.bufOf (c : Core) (isB : Bool) (w : VArgs) : OpBuf := vget (if isB then c.ob else c.oa) w.d.toNat OpBuf.init

/-- A GLD to an operand buffer waits at issue while the buffer is FULL (R327). -/
def Core.bufHeld (c : Core) (isB : Bool) (w : VArgs) (k : Ctl) : Bool :=
  c.vGuard k.curV w.g && ((c.bufOf isB w).full || ((c.vs k.curV).wait.any fun x => x.expired k.cyc))

/-- GLD to an operand buffer: it waits while the buffer is FULL (R327), then reads its block and fills the buffer. -/
def gldBuf (s : State) (i : Instr) (w : VArgs) (isB : Bool) : Out :=
  if (s.mc.core s.ctl.cur.val).bufHeld isB w s.ctl then
    onCore s fun k c => c.setVs k.curV { c.vs k.curV with wait := some ((c.vs k.curV).wait.getD ⟨i, k.cyc, some 255⟩) }
  else
    streamLoad s i w w.a.toNat (fun t => t.fault w.a.toNat 96 64 (t.recd.layout == 1) false)
      (fun _ t => t.accessUnits 96 64)
      fun k c t =>
        let b := (c.bufOf isB w).fill (t.blockBytes c.sp) (t.blockScales c.sp) t.recd.fmt
        let c := if isB then { c with ob := vset c.ob w.d.toNat b } else { c with oa := vset c.oa w.d.toNat b }
        .ok (c.setStream k.curV w.a.toNat (some (t.advance 96 64)))

/-- GLD to an A operand buffer (R210). -/
def execGldOa (w : VArgs) (s : State) : Out := gldBuf s (.gldOa w) w false

/-- GLD to a B operand buffer (R210). -/
def execGldOb (w : VArgs) (s : State) : Out := gldBuf s (.gldOb w) w true

/-! ## Zero-plane streams (R89, R211, R212) -/

/-- Bytes of a zero-plane block with `n` stored elements (R89). -/
def zpBytes (wd n : Nat) : Nat := 8 + (n * wd + 63) / 64 * 8

/-- What reading zero-plane blocks found. -/
inductive ZpRes where
  | ok (elems : List Nat) (pos : Nat)
  | bound (elem : Nat)
  | badMask
deriving DecidableEq, Repr

/-- The elements that a block of zero-plane data holds, by their numbers in it. -/
def maskBits (mask : Nat) : List Nat := (List.range 64).filter fun i => mask.testBit i

/-- The bytes of the `j`-th stored element of the block at `a`: its first byte and their number (R89). -/
def zpSpan (wd : Nat) (a : Int) (j : Nat) : Int × Nat := (a + 8 + (j * wd / 8 : Nat), (j * wd % 8 + wd + 7) / 8)

/-- The first element, of those of the block at `a` from number `e` on up to the count, that may not be accessed (R96, R205): the
bytes of a stored one, and of each its scales. A block whose mask lies outside the data area has none (R205). -/
def Stream.zpBad (t : Stream) (a : Int) (stored : List Nat) (e : Nat) : Option Nat :=
  let rank (i : Nat) : Nat := (stored.filter fun x => decide (x < i)).length
  let bad (i : Nat) : Bool :=
    let s := zpSpan t.recd.width a (rank i)
    decide (e + i < t.recd.count) &&
      ((stored.contains i && !t.bytesOk s.1 s.2) || !t.scalesOk (t.recd.indices (e + i)))
  ((List.range 64).find? bad).map (e + ·)

/-- Read `n` blocks from byte position `pos`, whose first element is `e`; elements that are absent are zero (R89,
R211). A mask with a bit that may not stand raises SHAPE_INVALID before the bounds and the rights of its block (DESIGN CHOICE,
notes/assumptions/35.md). -/
def Stream.readZp (t : Stream) (sp : Cells) : Nat → Nat → Nat → ZpRes
  | 0, pos, _ => .ok [] pos
  | n + 1, pos, e =>
    let cnt := t.recd.count
    if cnt ≤ e then .ok [] pos
    else
      let a := offOf t.recd.base + pos
      if !inData a 8 then .bound e
      else
        let idx := maskBits (sp.rd a.toNat 8)
        let wd := t.recd.width
        if idx.any fun i => decide (cnt ≤ e + i) then .badMask
        else match t.zpBad a idx e with
          | some j => .bound j
          | none =>
            let len := zpBytes wd idx.length
            let body := sp.rd (a.toNat + 8) (len - 8)
            let rank (i : Nat) : Nat := (idx.filter fun x => decide (x < i)).length
            let vals := (List.range 64).map fun i => if idx.contains i then getBits body (rank i * wd) wd else 0
            match t.readZp sp n (pos + len) (e + 64) with
            | .ok es p => .ok (vals ++ es) p
            | r => r

/-- The units that reading `n` blocks touches: masks, stored elements and scales. -/
def Stream.zpUnits (t : Stream) (sp : Cells) : Nat → Nat → Nat → List Nat
  | 0, _, _ => []
  | n + 1, pos, e =>
    let a := offOf t.recd.base + pos
    if t.recd.count ≤ e || !inData a 8 then []
    else
      let idx := maskBits (sp.rd a.toNat 8)
      let wd := t.recd.width
      let body (j : Nat) : List Nat := let s := zpSpan wd a j
        if inData s.1 s.2 then unitsOf s.1.toNat s.2 else []
      let scales (i : Nat) : List Nat :=
        let ix := t.recd.indices (e + i)
        if e + i < t.recd.count && t.scalesOk ix then t.scaleUnits ix else []
      unitsOf a.toNat 8 ++ ((List.range idx.length).map body).flatten ++ ((List.range 64).map scales).flatten ++
        t.zpUnits sp n (pos + zpBytes wd idx.length) (e + 64)

/-- The kind and the ended flag of a zero-plane access (R206, R207). -/
def Stream.zpFault (t : Stream) (n : Nat) (ok : Bool) : Option (Byte × W64 × W64) :=
  if !ok then some (trShapeInvalid, t.shapeAt, 0)
  else if t.ended then some (trStreamBound, 0, t.info n)
  else none

/-- GLDM (R211). A mask with a bit at or past the count is found before the partial unit: of the two traps the spec does not say which
comes first (DESIGN CHOICE, notes/assumptions/35.md). -/
def execGldm (w : VArgs) (s : State) : Out :=
  streamLoad s (.gldm w) w w.a.toNat (fun t => t.zpFault w.a.toNat t.recd.zplane)
    (fun c t => (t.zpUnits c.sp (16 * t.recd.tileW / 64) t.zpos t.elt).eraseDups)
    fun k c t =>
      let n := w.a.toNat
      let f := t.recd.fmt
      let units := 16 * t.recd.tileW
      let cnt := t.recd.count
      match t.readZp c.sp (units / 64) t.zpos t.elt with
      | .badMask => .trap trShapeInvalid t.shapeAt 0
      | .bound e => .trap trStreamBound (ixInfo (t.recd.indices e)) (t.info n)
      | .ok es p =>
        if decide (cnt < t.elt + units) && !t.recd.pad then
          .trap trStreamBound (ixInfo (t.recd.indices cnt)) (t.info n)
        else match t.rightsBad false with
          | some i => .trap trAccess (BitVec.ofNat 64 i) 0
          | none =>
            let el (i : Nat) : Nat := if t.elt + i < cnt then (es[i]?).getD 0 else t.recd.fill.toNat
            let (v, fl) := tileOf fun i =>
              if f == 2 || f == 3 then (BitVec.ofNat 32 (el (2 * i) + 2 ^ 16 * el (2 * i + 1)), 0)
              else if t.elt + i < cnt then
                let ix := t.recd.indices (t.elt + i)
                laneOf f (fcrRm (c.vs k.curV).fcr) (el i) (t.scale c.sp ix) (t.band c.sp ix)
              else laneOf f (fcrRm (c.vs k.curV).fcr) (el i) t.recd.padScale 0x3F80
            let e := min (t.elt + units) cnt
            vFp c k.curV fl ((c.setTile w.d.toNat v).setStream k.curV n
              (some { t with elt := e, zpos := p, ended := decide (cnt ≤ e) }))

/-! ## Stores (R212) -/

/-- A lane as a stored element of codes 0, 1 and 4-10 (R212). -/
def storeLane (f : Nat) (rm : Rm) (x : W32) : Nat × Flags :=
  if f == 0 then (x.toNat, 0)
  else if f == 9 then
    let i := x.toInt
    if 127 < i then (127, fIS) else if i < -128 then (128, fIS) else ((BitVec.ofInt 8 i).toNat, 0)
  else if f == 10 then
    let i := x.toInt
    if 7 < i then (7, fIS) else if i < -8 then (8, fIS) else ((BitVec.ofInt 4 i).toNat, 0)
  else
    let v := f32.decode x.toNat
    if f ≤ 3 then
      let (b, fl) := (fmtOf f).round rm false v
      (if f == 1 then b * 2 ^ 13 else b, fl ||| v.sigF)
    else narrow f rm v

/-- The element at column `j`, row `r` of a tile unit (R212). -/
def tileElem (f : Nat) (rm : Rm) (v : Tile) (j r : Nat) : Nat × Flags :=
  if f == 2 || f == 3 then (((lane v (64 * r + j / 2)).toNat / 2 ^ (16 * (j % 2))) % 2 ^ 16, 0)
  else storeLane f rm (lane v (64 * r + j))

/-- Writes of `width` bits from bit `sh` of the `n` bytes at an offset, one for each unit that holds some of them. -/
def bitWrites (a n sh width v : Nat) : List BitWrite :=
  (unitsOf a n).filterMap fun u =>
    let lo := max a (64 * u)
    let hi := min (a + n) (64 * u + 64)
    let b := 8 * (lo - a)
    let s := max sh b
    let e := min (sh + width) (b + 8 * (hi - lo))
    if e ≤ s then none else some ⟨lo, hi - lo, s - b, e - s, v / 2 ^ (s - sh) % 2 ^ (e - s)⟩

/-- The writes of an element at indices; the other bits of shared bytes stay (R103, R212). -/
def Stream.put (t : Stream) (ix : List Nat) (b : Nat) : List BitWrite :=
  let (a, sh, n) := t.span ix
  bitWrites a.toNat n sh t.recd.width b

/-- The unit of a write. -/
def BitWrite.unit (w : BitWrite) : Nat := w.addr / 64

/-- Writes in element order, split over the positions that serve them (R27, R205): each position takes of every bank the first unit
that is left. `fuel` bounds the positions. -/
def storeChunks : Nat → List BitWrite → List (List BitWrite)
  | 0, _ => []
  | fuel + 1, ws =>
    if ws.isEmpty then []
    else
      let now := wheelServes ((ws.map BitWrite.unit).eraseDups)
      let mine (w : BitWrite) : Bool := now.contains w.unit
      ws.filter mine :: storeChunks fuel (ws.filter fun w => !mine w)

/-- A store of S issues (R162, R201, R212): an enabled flag traps; else its source has been read, its position in the stream moves,
and its writes wait for S's positions. -/
def storeIssue (c : Core) (q : VSeq) (fl : Flags) (ws : List BitWrite) (next : Core) : CoreRes :=
  if fpTraps (c.vs q).fcr fl then .trap trFpEnabled (fl.setWidth 64 &&& 31) ((c.vs q).pc.setWidth 64)
  else .ok { next with s := { next.s with store := some ⟨storeChunks ws.length ws, fl⟩ } }

/-- A store of a unit of `w` by `r` elements whose values `f` gives (R206, R212). -/
def gstUnit (s : State) (wa : VArgs) (w r : Shape → Nat) (f : Core → Shape → Rm → Nat → Nat → Nat × Flags) : Out :=
  withStream s wa wa.d.toNat fun k c t =>
    let n := wa.d.toNat
    let (w, r) := (w t.recd, r t.recd)
    let ok := t.recd.layout == 0 && !t.recd.isRagged && !t.recd.zplane && decide (t.recd.fmt ≤ 10)
    match t.fault n w r ok true with
    | some (code, i0, i1) => .trap code i0 i1
    | none =>
      let es := (t.positions w r).map fun p => (p.1, f c t.recd (fcrRm (c.vs k.curV).fcr) p.2.1 p.2.2)
      storeIssue c k.curV (es.foldl (fun a e => a ||| e.2.2) 0) (es.map fun e => t.put e.1 e.2.1).flatten
        (c.setStream k.curV n (some (t.advance w r)))

/-- GST from a tile (R212). -/
def execGst (w : VArgs) (s : State) : Out :=
  gstUnit s w Shape.tileW (fun _ => 16) fun c r rm j y => tileElem r.fmt rm (c.tile w.a.toNat) j y

/-- GST from an accumulator (R212). -/
def execGstAccumulator (w : VArgs) (s : State) : Out :=
  gstUnit s w (fun _ => 64) (fun _ => 64) fun c r rm j y =>
    storeLane r.fmt rm (vget (c.accum w.a.toNat) (64 * y + j) 0)

/-- Split a list into groups of `g`. -/
def groupsOf {α : Type} (g : Nat) (l : List α) : List (List α) :=
  (List.range ((l.length + g - 1) / g)).map fun i => (l.drop (g * i)).take g

/-- Lay 64 elements out as one zero-plane block (R89): its length in bytes and its value. -/
def zpBlock (wd : Nat) (es : List Nat) : Nat × Nat :=
  let some1 := es.filter fun e => e != 0
  let mask := es.foldr (fun e acc => cond (e != 0) 1 0 + 2 * acc) 0
  let body := some1.foldr (fun e acc => e + 2 ^ wd * acc) 0
  (zpBytes wd some1.length, mask + 2 ^ 64 * body)

/-- The blocks of a GSTZ, laid out from a byte position, the first element's number `e`: each block's offset, length and value, the
position after them, and the first element that may not be stored (R96, R205). -/
def Stream.layZp (t : Stream) : List (List Nat) → Nat → Nat → List (Int × Nat × Nat) × Nat × Option Nat
  | [], pos, _ => ([], pos, none)
  | es :: bs, pos, e =>
    let a := offOf t.recd.base + pos
    let (len, v) := zpBlock t.recd.width es
    let stored := (es.zipIdx.filter fun x => x.1 != 0).map (·.2)
    let bad := if !inData a 8 then some e else t.zpBad a stored e
    let (l, p, b) := t.layZp bs (pos + len) (e + 64)
    ((a, len, v) :: l, p, bad <|> b)

/-- GSTZ (R212): 16 rows of a tile as zero-plane blocks. The first element that fails is the lowest, so the partial unit comes after the
bounds of the elements before the count (R206). The zero bytes that pad a block (R89) are written without a check of bounds (DESIGN
CHOICE, notes/assumptions/35.md). -/
def execGstz (w : VArgs) (s : State) : Out :=
  withStream s w w.d.toNat fun k c t =>
    let n := w.d.toNat
    let f := t.recd.fmt
    let units := 16 * t.recd.tileW
    let cnt := t.recd.count
    match t.zpFault n (t.recd.zplane && decide (f ≤ 10)) with
    | some (code, i0, i1) => .trap code i0 i1
    | none =>
      let have0 := min units (cnt - t.elt)
      let es := (List.range have0).map fun i =>
        tileElem f (fcrRm (c.vs k.curV).fcr) (c.tile w.a.toNat) (i % t.recd.tileW) (i / t.recd.tileW)
      let (blocks, pos, bad) := t.layZp (groupsOf 64 (es.map (·.1))) t.zpos t.elt
      let bad := bad <|> (if cnt < t.elt + units && !t.recd.pad then some cnt else none)
      match bad with
      | some e => .trap trStreamBound (ixInfo (t.recd.indices e)) (t.info n)
      | none =>
        match t.rightsBad true with
        | some i => .trap trAccess (BitVec.ofNat 64 i) 0
        | none =>
          storeIssue c k.curV (es.foldl (fun a e => a ||| e.2) 0)
            (blocks.map fun b => bitWrites b.1.toNat b.2.1 0 (8 * b.2.1) b.2.2).flatten
            (c.setStream k.curV n
              (some { t with elt := t.elt + have0, zpos := pos, ended := decide (cnt ≤ t.elt + have0) }))

/-! ## Moving and testing a stream (R213) -/

/-- Add to one entry of a list. -/
def addAt (l : List Nat) (i n : Nat) : List Nat := l.zipIdx.map fun p => if p.2 == i then p.1 + n else p.1

/-- GADV (R213). -/
def execGadv (w : VArgs) (s : State) : Out :=
  withStream s w w.d.toNat fun k c t =>
    if t.recd.zplane || t.recd.isRagged then .trap trShapeInvalid t.shapeAt 0
    else if t.ended then .ok c
    else .ok (c.setStream k.curV w.d.toNat
      (some (({ t with cur := addAt t.cur w.fn.toNat w.imm.toNat } : Stream).advance 0 0)))

/-- GEND (R213). -/
def execGend (w : VArgs) (s : State) : Out :=
  vDo s 12 w.g fun k c =>
    c.setVPred k.curV (w.d.extractLsb' 0 3) (match c.stream k.curV w.a.toNat with
      | some t => t.ended
      | none => true)

/-! ## Ragged loads (R214) -/

/-- The length of a line. -/
def Stream.lineLen (t : Stream) (sp : Cells) (l : Nat) : Nat := sp.rd (t.recd.ragged.toNat + 4 * l) 4

/-- Pass over lines that are used up; `n` bounds the lines. A line that is too long stays. -/
def Stream.settle (t : Stream) (sp : Cells) : Nat → Nat → Nat → Nat × Nat
  | 0, l, e => (l, e)
  | n + 1, l, e => if t.recd.lines ≤ l then (l, 0) else if t.lineLen sp l ≤ e then t.settle sp n (l + 1) 0 else (l, e)

/-- What fills a lane of GLDR: an element of a line, the end, or a line that is too long. -/
inductive RagLane where
  | elem (line elt : Nat)
  | fill
  | tooLong (line : Nat)
deriving DecidableEq, Repr

/-- The lanes of a GLDR from a line and an element on, and where it stops. -/
def Stream.ragLanes (t : Stream) (sp : Cells) : Nat → Nat → Nat → List RagLane × Nat × Nat
  | 0, l, e => ([], t.settle sp (t.recd.lines - l) l e)
  | n + 1, l, e =>
    let (l, e) := t.settle sp (t.recd.lines - l) l e
    if t.recd.lines ≤ l then (List.replicate (n + 1) .fill, l, 0)
    else if t.recd.bound 0 < t.lineLen sp l then ([.tooLong l], l, e)
    else
      let (r, p) := t.ragLanes sp n l (e + 1)
      (.elem l e :: r, p)

/-- The indices of element `e` of line `l` of a ragged stream. -/
def Stream.ragIx (t : Stream) (l e : Nat) : List Nat := t.recd.indices (l * t.recd.bound 0 + e)

/-- The units that a GLDR reads: the lengths of the lines it passes, and its elements. -/
def Stream.ragUnits (t : Stream) (sp : Cells) : List Nat :=
  let (ls, l, _) := t.ragLanes sp 1024 t.line t.elt
  let lines := (List.range (min (l + 1) t.recd.lines - t.line)).map (t.line + ·)
  let units (x : RagLane) : List Nat := match x with
    | .elem l e => if t.elemOk (t.ragIx l e) then t.elemUnits (t.ragIx l e) else []
    | _ => []
  ((lines.map fun l => unitsOf (t.recd.ragged.toNat + 4 * l) 4).flatten ++ (ls.map units).flatten).eraseDups

/-- GLDR (R214). -/
def execGldr (w : VArgs) (s : State) : Out :=
  streamLoad s (.gldr w) w w.a.toNat (fun t => t.zpFault w.a.toNat t.recd.isRagged) (fun c t => t.ragUnits c.sp)
    fun k c t =>
      let n := w.a.toNat
      let ixOf (l e : Nat) : List Nat := t.ragIx l e
      let (ls, l, e) := t.ragLanes c.sp 1024 t.line t.elt
      let bad := ls.findSome? fun x => match x with
        | .elem l e => if t.elemOk (ixOf l e) then none else some (ixOf l e)
        | .fill => none
        | .tooLong l => some (ixOf l 0)
      match bad with
      | some ix => .trap trStreamBound (ixInfo ix) (t.info n)
      | none =>
        match t.rightsBad false with
        | some i => .trap trAccess (BitVec.ofNat 64 i) 0
        | none =>
          let rm := fcrRm (c.vs k.curV).fcr
          let f := t.recd.fmt
          let (v, fl) := tileOf fun i => match (ls[i]?).getD .fill with
            | .elem l e => laneOf f rm (t.raw c.sp (ixOf l e)) (t.scale c.sp (ixOf l e)) (t.band c.sp (ixOf l e))
            | _ => laneOf f rm t.recd.fill.toNat t.recd.padScale 0x3F80
          let mask : Mask := BitVec.ofNat 1024 (ls.foldr (fun x acc => (match x with
            | .elem _ 0 => 1
            | _ => 0) + 2 * acc) 0)
          vFp c k.curV fl (((c.setTile w.d.toNat v).setM w.c.toNat mask).setStream k.curV n
            (some { t with line := l, elt := e, ended := decide (t.recd.lines ≤ l) }))

end Sys2Proof.Machine
end

