-- ==== Sys2Proof/Machine/Vector.lean ====
section
/-!
DEFINITION. Machine/Vector.lean: the lane words of C (R231-R246, R248, R253): operands, masks, arithmetic, comparison,
selection, conversion, quantisation, movement and random numbers.
-/

namespace Sys2Proof.Machine

/-! ## Issue, masks and operands -/

/-- One of the tiles that a word reads or writes is still to be written by an earlier MACCR (R233). -/
def Core.maccrPending (c : Core) (tiles : List Reg4) : Bool := tiles.any fun t => c.tileBusy t.toNat

/-- A vector word of C that may trap (R233, R236); `tiles` are those it reads or writes. -/
def cTry (s : State) (w : VArgs) (tiles : List Reg4) (f : Ctl → Core → CoreRes) : Out :=
  let c := s.mc.core s.ctl.cur.val
  if c.vGuard s.ctl.curV w.g && c.maccrPending tiles then .next s else vTry s 12 w.g f

/-- A lane is active (R47, R232). -/
def Core.active (c : Core) (w : VArgs) (n : Nat) : Bool := (c.getM w.msel.toNat).getLsbD n != w.ms

/-- The lane of a tile that a strided operand gives to lane `n` (R45). -/
def strided (sb : Byte) (n : Nat) : Nat := 64 * ((sb.toNat % 16 + n / 64 * (sb.toNat / 16 % 8)) % 16) + n % 64

/-- The packed element types (R231). -/
def isPacked (t : Nat) : Bool := t == 2 || t == 3

/-- Flip the sign bit of each element (R45). -/
def negFp (t : Nat) (x : W32) : W32 := if isPacked t then x ^^^ 0x80008000 else x ^^^ 0x80000000

/-- A tile operand that moves bits: OFF and STEP only (R235). -/
def Core.opBits (c : Core) (r : Reg4) (sb : Byte) (n : Nat) : W32 := lane (c.tile r.toNat) (strided sb n)

/-- A floating-point tile operand (R235). -/
def Core.opFp (c : Core) (t : Nat) (r : Reg4) (sb : Byte) (n : Nat) : W32 :=
  let x := c.opBits r sb n
  if sb.getLsbD 7 then negFp t x else x

/-- An I32 tile operand (R235). -/
def Core.opInt (c : Core) (r : Reg4) (sb : Byte) (n : Nat) : W32 :=
  let x := c.opBits r sb n
  if sb.getLsbD 7 then -x else x

/-- The operand as its element type reads it. -/
def Core.opOf (c : Core) (t : Nat) (r : Reg4) (sb : Byte) (n : Nat) : W32 :=
  if t == 1 then c.opInt r sb n else c.opFp t r sb n

/-- The format of a floating-point element type (R46). -/
def elemFmt (t : Nat) : Fmt := if t == 2 then bf16 else if t == 3 then f16 else f32

/-- Element `h` of a lane: the low or high half of a packed lane, or all of it. -/
def part (t : Nat) (x : W32) (h : Nat) : Nat := if isPacked t then x.toNat / 2 ^ (16 * h) % 2 ^ 16 else x.toNat

/-- A lane from its elements. -/
def perElem (t : Nat) (g : Nat → Nat × Flags) : W32 × Flags :=
  if isPacked t then
    let (a, fa) := g 0
    let (b, fb) := g 1
    (BitVec.ofNat 32 (a + 2 ^ 16 * b), fa ||| fb)
  else
    let (a, fa) := g 0
    (BitVec.ofNat 32 a, fa)

/-- The control bits that a word captures (R76, R236). -/
structure Fp where
  rm : Rm
  fz : Bool
  dz : Bool

/-- Capture them from an `fcr`. -/
def Fp.ofFcr (f : W64) : Fp := ⟨fcrRm f, fcrFz f, fcrDz f⟩

/-- The value of element `h` of a lane, after DZ. -/
def Fp.val (k : Fp) (t : Nat) (x : W32) (h : Nat) : FVal := (elemFmt t).daz k.dz ((elemFmt t).decode (part t x h))

/-- Round a computed value to the element type (R236). -/
def Fp.done (k : Fp) (t : Nat) (v : FVal × Flags) : Nat × Flags :=
  let (b, f) := (elemFmt t).round k.rm k.fz v.1
  (b, f ||| v.2)

/-- The active lanes of a destination take `f`'s values, the others keep theirs; the flags are those of the active
lanes (R232, R236). -/
def Core.lanes (c : Core) (w : VArgs) (d : Nat) (f : Nat → W32 × Flags) : Tile × Flags :=
  let old := c.tile d
  (tab 1024 fun n => if c.active w n then (f n).1 else lane old n,
    (List.range 1024).foldl (fun a n => if c.active w n then a ||| (f n).2 else a) 0)

/-- A word that writes the lanes of v(D) (R236); `src` are the other tiles that it reads. -/
def vLanes (s : State) (w : VArgs) (src : List Reg4) (f : Core → Fp → Nat → W32 × Flags) : Out :=
  cTry s w (w.d :: src) fun k c =>
    let (v, fl) := c.lanes w w.d.toNat (f c (Fp.ofFcr (c.vs k.curV).fcr))
    vFp c k.curV fl (c.setTile w.d.toNat v)

/-! ## Floating-point arithmetic (R238, R239) -/

/-- A word of two floating-point operands. -/
def vFp2 (s : State) (w : VArgs) (f : Fp → FVal → FVal → FVal × Flags) : Out :=
  vLanes s w [w.a, w.b] fun c k n =>
    let t := w.fmt.toNat
    let a := c.opFp t w.a w.sa n
    let b := c.opFp t w.b w.sb n
    perElem t fun h => k.done t (f k (k.val t a h) (k.val t b h))

/-- VADD (R238). -/
def execVadd (w : VArgs) (s : State) : Out := vFp2 s w fun k a b => a.add k.rm b

/-- VSUB (R238). -/
def execVsub (w : VArgs) (s : State) : Out := vFp2 s w fun k a b => a.add k.rm b.neg

/-- VMUL (R238). -/
def execVmul (w : VArgs) (s : State) : Out := vFp2 s w fun _ a b => a.mul b

/-- VFMA (R238). -/
def execVfma (w : VArgs) (s : State) : Out :=
  vLanes s w [w.a, w.b, w.c] fun c k n =>
    let t := w.fmt.toNat
    let a := c.opFp t w.a w.sa n
    let b := c.opFp t w.b w.sb n
    let x := c.opFp t w.c w.sc n
    perElem t fun h => k.done t (FVal.fma k.rm (k.val t a h) (k.val t b h) (k.val t x h) false false)

/-- VMINMAX (R239). -/
def execVminmax (w : VArgs) (s : State) : Out :=
  vLanes s w [w.a, w.b] fun c k n =>
    let t := w.fmt.toNat
    let f := elemFmt t
    let a := c.opFp t w.a w.sa n
    let b := c.opFp t w.b w.sb n
    perElem t fun h => fminmax f (w.fn == 1) (f.dazBits k.dz (part t a h)) (f.dazBits k.dz (part t b h))

/-- VSGN (R239). -/
def execVsgn (w : VArgs) (s : State) : Out :=
  vLanes s w (if w.fn.toNat ≤ 1 then [w.a] else [w.a, w.b]) fun c _ n =>
    let t := w.fmt.toNat
    let m : W32 := if isPacked t then 0x80008000 else 0x80000000
    let a := c.opFp t w.a w.sa n
    (match w.fn.toNat with
      | 0 => a &&& ~~~m
      | 1 => a ^^^ m
      | _ => (a &&& ~~~m) ||| (c.opFp t w.b w.sb n &&& m), 0)

/-- VCLAMP (R239). -/
def execVclamp (w : VArgs) (s : State) : Out :=
  vLanes s w [w.a, w.b, w.c] fun c k n =>
    let t := w.fmt.toNat
    let a := c.opOf t w.a w.sa n
    let b := c.opOf t w.b w.sb n
    let x := c.opOf t w.c w.sc n
    if t == 1 then (smin32 false (smin32 true a b) x, 0)
    else
      let f := elemFmt t
      perElem t fun h =>
        let rd (y : W32) : Nat := f.dazBits k.dz (part t y h)
        let (p, fp) := fminmax f true (rd a) (rd b)
        let (r, fr) := fminmax f false p (rd x)
        (r, fp ||| fr)

/-! ## Integer and logic (R240) -/

/-- A word of I32 operands in the tiles `src`. -/
def vInt2 (s : State) (w : VArgs) (src : List Reg4) (f : Nat → W32 → W32 → W32 × Flags) : Out :=
  vLanes s w src fun c _ n => f w.fn.toNat (c.opInt w.a w.sa n) (c.opInt w.b w.sb n)

/-- VIADD (R240). -/
def execViadd (w : VArgs) (s : State) : Out :=
  vInt2 s w [w.a, w.b] fun fn a b => if fn == 1 then sat32 (a.toInt + b.toInt) else (a + b, 0)

/-- VISUB (R240). -/
def execVisub (w : VArgs) (s : State) : Out :=
  vInt2 s w [w.a, w.b] fun fn a b => if fn == 1 then sat32 (a.toInt - b.toInt) else (a - b, 0)

/-- VIMUL (R240). -/
def execVimul (w : VArgs) (s : State) : Out :=
  vInt2 s w [w.a, w.b] fun fn a b => (match fn with
    | 0 => a * b
    | 1 => BitVec.ofInt 32 (a.toInt * b.toInt / 2 ^ 32)
    | _ => BitVec.ofNat 32 (a.toNat * b.toNat / 2 ^ 32), 0)

/-- VLOGIC (R240). -/
def execVlogic (w : VArgs) (s : State) : Out :=
  vInt2 s w (if w.fn.toNat ≤ 3 then [w.a, w.b] else [w.a]) fun fn a b => (match fn with
    | 0 => a &&& b
    | 1 => a ||| b
    | 2 => a ^^^ b
    | 3 => a &&& ~~~b
    | _ => ~~~a, 0)

/-- VSHIFT (R240). -/
def execVshift (w : VArgs) (s : State) : Out :=
  vInt2 s w [w.a, w.b] fun fn a b =>
    let n := b.toNat % 32
    (match fn with
      | 0 => a <<< n
      | 1 => a >>> n
      | _ => a.sshiftRight n, 0)

/-- VIMINMAX (R240). -/
def execViminmax (w : VArgs) (s : State) : Out :=
  vInt2 s w [w.a, w.b] fun fn a b => (match fn with
    | 0 => smin32 false a b
    | 1 => smin32 true a b
    | 2 => if b.ult a then b else a
    | _ => if a.ult b then b else a, 0)

/-! ## Compare, select, predicate (R241-R243) -/

/-- A mask from its bits. -/
def maskOf (f : Nat → Bool) : Mask :=
  BitVec.ofNat 1024 ((List.range 1024).foldr (fun n acc => cond (f n) 1 0 + 2 * acc) 0)

/-- VCMP on a lane (R241). -/
def cmpLane (k : Fp) (t fn : Nat) (a b : W32) : Bool × Flags :=
  if t == 1 then
    (match fn with
      | 0 => a == b
      | 1 => a.slt b
      | 2 => !b.slt a
      | 3 => a.ult b
      | _ => !b.ult a, 0)
  else if isPacked t then
    let (x, fx) := fcmpCond fn (k.val t a 0) (k.val t b 0)
    let (y, fy) := fcmpCond fn (k.val t a 1) (k.val t b 1)
    (x && y, fx ||| fy)
  else fcmpCond fn (k.val t a 0) (k.val t b 0)

/-- VCMP (R241). -/
def execVcmp (w : VArgs) (s : State) : Out :=
  cTry s w [w.a, w.b] fun k c =>
    let t := w.fmt.toNat
    let fp := Fp.ofFcr (c.vs k.curV).fcr
    let r (n : Nat) : Bool × Flags := cmpLane fp t w.fn.toNat (c.opOf t w.a w.sa n) (c.opOf t w.b w.sb n)
    let fl := (List.range 1024).foldl (fun a n => if c.active w n then a ||| (r n).2 else a) 0
    let d := w.d.toNat % 8
    let e := w.c.toNat % 8
    let md := maskOf fun n => if c.active w n then (r n).1 else (c.getM d).getLsbD n
    let me := maskOf fun n => if c.active w n then !(r n).1 else (c.getM e).getLsbD n
    vFp c k.curV fl ((c.setM d md).setM e me)

/-- VSEL (R242). -/
def execVsel (w : VArgs) (s : State) : Out :=
  vLanes s w [w.a, w.b] fun c _ n =>
    let t := w.fmt.toNat
    (if (c.getM (w.c.toNat % 8)).getLsbD n then c.opOf t w.a w.sa n else c.opOf t w.b w.sb n, 0)

/-- VPM (R243). -/
def execVpm (w : VArgs) (s : State) : Out :=
  vDo s 12 w.g fun k c =>
    let m := c.getM w.msel.toNat
    let x := if w.ms then ~~~m else m
    c.setVPred k.curV (w.d.extractLsb' 0 3) (match w.fn.toNat with
      | 0 => x != 0
      | 1 => x == BitVec.allOnes 1024
      | _ => x == 0)

/-! ## Conversion (R244) -/

/-- Flush a stochastic result to zero under FZ (R77, R79). -/
def flushSr (f : Fmt) (fz : Bool) (r : Nat × Flags) : Nat × Flags :=
  if fz && (r.1 / 2 ^ f.mb) % 2 ^ f.eb == 0 && r.1 % 2 ^ f.mb != 0 then
    (f.sign (r.1.testBit (f.eb + f.mb)) 0, r.2 ||| fUF ||| fNX)
  else r

/-- The width of a converted element in its lane: 16, the storage of codes 4-10, or 32. -/
def cvtBits (dest : Nat) : Nat := if dest == 11 then 32 else fmtBits dest

/-- Convert one element (R244): its exact value `v`, already read under DZ when the destination asks for it. `u` is the
random word of a stochastic conversion. Destinations 4-10 round in the captured mode, as R78 states, and not with RNE, as the last
sentence of R77 states (DESIGN CHOICE, notes/assumptions/34.md). -/
def convElem (k : Fp) (dest : Nat) (u : Option W32) (v : FVal) : Nat × Flags :=
  let r := match u with
    | some x => if dest == 0 || dest == 11 then (0, 0) else
        let r := srConv dest x.toNat v
        if dest == 2 || dest == 3 then flushSr (fmtOf dest) k.fz r else r
    | none =>
      if dest == 11 then
        let (i, f) := toIntRange k.rm (-2 ^ 31) (2 ^ 31 - 1) v
        ((BitVec.ofInt 32 i).toNat, f)
      else if dest == 1 then
        let (b, f) := e8m10.round k.rm false v
        (b, f ||| v.sigF)
      else if dest ≤ 3 then
        let (b, f) := (fmtOf dest).round k.rm k.fz v
        (b, f ||| v.sigF)
      else narrow dest k.rm v
  if dest == 1 then (r.1 * 2 ^ 13, r.2) else r

/-- The random words of a stochastic conversion at a lane (R79, R244): for the low and the high element. -/
def Core.srWords (c : Core) (w : VArgs) (n : Nat) : W32 × W32 := zcg c.srkey w.imm (c.sridx + BitVec.ofNat 96 n)

/-- VCVT (R244). -/
def execVcvt (w : VArgs) (s : State) : Out :=
  vLanes s w [w.a] fun c k n =>
    let t := w.fmt.toNat
    let dest := w.fn.toNat
    let a := c.opFp t w.a w.sa n
    let sr := w.c.getLsbD 0
    let (u0, u1) := if sr then c.srWords w n else (0, 0)
    let u (h : Nat) : Option W32 := if sr then some (if h == 0 then u0 else u1) else none
    let v (h : Nat) : FVal :=
      if t == 1 then FVal.ofInt a.toInt
      else (elemFmt t).daz (k.dz && !(decide (4 ≤ dest) && decide (dest ≤ 10))) ((elemFmt t).decode (part t a h))
    let (r0, f0) := convElem k dest (u 0) (v 0)
    if isPacked t then
      let (r1, f1) := convElem k dest (u 1) (v 1)
      (BitVec.ofNat 32 (r0 + r1 * 2 ^ cvtBits dest), f0 ||| f1)
    else (BitVec.ofNat 32 r0, f0)

/-! ## Block-scale quantisation (R245, R246) -/

/-- The element format of a block-scaled code (R66). -/
def blockElem (code : Nat) : Nat := if code == 15 then 8 else code - 7

/-- m × 2^e ≤ m' × 2^e'. -/
def magLe (m : Nat) (e : Int) (m' : Nat) (e' : Int) : Bool := !magGt m e m' e'

/-- The largest magnitude of a group's finite elements (R245). -/
def amax (vs : List FVal) : Nat × Int :=
  vs.foldl (fun acc v => match v with
    | .fin _ m e => if magGt m e acc.1 acc.2 then (m, e) else acc
    | _ => acc) (0, 0)

/-- The scale byte of a group and whether it is invalid (R245). -/
def groupScale (code : Nat) (vs : List FVal) : Nat × Bool :=
  let (m, e) := amax vs
  if code == 15 then
    (((List.range 256).find? fun b =>
      let (sm, se) := e3m5 b
      magLe m e (6 * sm) se).getD 255, false)
  else if vs.any fun v => match v with
      | .fin _ _ _ => false
      | _ => true then (255, true)
  else if m == 0 then (127, false)
  else
    let (mm, me) := (fmtOf (blockElem code)).maxVal
    (((List.range 255).find? fun (s : Nat) => magLe m e mm (me + (s : Int) - 127)).getD 254, false)

/-- The code of an element under its group's scale (R245): `b` holds the sign of x at bit `sb`, `u` is the random word
of a stochastic conversion. -/
def groupCode (code scale : Nat) (rm : Rm) (u : Option W32) (neg : Bool) (v : FVal) : Nat × Flags :=
  let el := blockElem code
  let conv (n : Bool) (m : Nat) (e : Int) (sticky : Bool) : Nat × Flags := match u with
    | some x => srFin el x.toNat n m e sticky
    | none => narrowFin el rm n m e sticky
  if code == 15 then
    let (sm, se) := e3m5 scale
    if sm == 0 then ((fmtOf el).sign neg 0, 0)
    else match v with
      | .fin n m e => if m == 0 then conv n 0 0 false else conv n (m * 2 ^ 80 / sm) (e - se - 80) (m * 2 ^ 80 % sm != 0)
      | _ => narrow el rm v
  else if scale == 255 then (0, 0)
  else match v with
    | .fin n m e => conv n m (e - ((scale : Int) - 127)) false
    | _ => narrow el rm v

/-- Quantise the groups of one line (R245): the codes with their flags, the scale byte, and NV for an invalid group. Each element
comes with its sign and its random word. -/
def quantGroups (code : Nat) (rm : Rm) (line : List (Bool × FVal × Option W32)) : List (List (Nat × Flags) × Nat × Flags) :=
  (groupsOf (if code == 15 then 8 else 48) line).map fun (g : List (Bool × FVal × Option W32)) =>
    let (sc, bad) := groupScale code (g.map (·.2.1))
    (g.map fun (x : Bool × FVal × Option W32) => groupCode code sc rm x.2.2 x.1 x.2.1, sc, fIf bad fNV)

/-- Quantise one line (R245): the codes with their flags, the scale bytes, and NV for an invalid group. -/
def quantLine (code : Nat) (rm : Rm) (line : List (Bool × FVal × Option W32)) : List (Nat × Flags) × List Nat × Flags :=
  let done := quantGroups code rm line
  ((done.map (·.1)).flatten, done.map (·.2.1), done.foldl (fun a d => a ||| d.2.2) 0)

/-- Values of `w` bits laid out one after the other, the first lowest (R67). -/
def packBits (w : Nat) (l : List Nat) : Nat := l.foldr (fun x acc => x % 2 ^ w + 2 ^ w * acc) 0

/-- Row `r` of VQNT (R245, R246): the codes and the scale bytes, each with its flags; an invalid group raises NV with each of its
codes and with its scale byte. -/
def Core.quantRow (c : Core) (w : VArgs) (rm : Rm) (r : Nat) : List (Nat × Flags) × List (Nat × Flags) :=
  let t := w.fmt.toNat
  let code := w.fn.toNat
  let sr := w.c.getLsbD 0
  let f := elemFmt t
  let per := if isPacked t then 2 else 1
  let elem (i : Nat) : Bool × FVal × Option W32 :=
    let n := 64 * r + i / per
    let b := part t (c.opFp t w.a w.sa n) (i % per)
    let u := c.srWords w n
    (b.testBit (f.eb + f.mb), f.decode b, if sr then some (if i % per == 0 then u.1 else u.2) else none)
  let gs := quantGroups code rm ((List.range (48 * per)).map elem)
  ((gs.map fun g => g.1.map fun x => (x.1, x.2 ||| g.2.2)).flatten, gs.map fun g => (g.2.1, g.2.2))

/-- Lane `j` of a row of values of `w` bits laid out one after the other, with the flags of the values that have a bit in it
(R246; notes/assumptions/22.md). -/
def packedLane (w : Nat) (l : List (Nat × Flags)) (j : Nat) : W32 × Flags :=
  let inLane := l.zipIdx.filter fun x => decide (32 * j < (x.2 + 1) * w) && decide (x.2 * w < 32 * j + 32)
  (BitVec.ofNat 32 (packBits w (l.map (·.1)) / 2 ^ (32 * j)), inLane.foldl (fun a x => a ||| x.1.2) 0)

/-- VQNT (R245, R246). -/
def execVqnt (w : VArgs) (s : State) : Out :=
  cTry s w [w.d, w.d + 1, w.a] fun k c =>
    let rows := (List.range 16).map (c.quantRow w (fcrRm (c.vs k.curV).fcr))
    let row (n : Nat) : List (Nat × Flags) × List (Nat × Flags) := (rows[n / 64]?).getD ([], [])
    let d := w.d.toNat
    let (v0, f0) := c.lanes w d fun n => packedLane (fmtBits w.fn.toNat) (row n).1 (n % 64)
    let (v1, f1) := c.lanes w (d + 1) fun n => packedLane 8 (row n).2 (n % 64)
    vFp c k.curV (f0 ||| f1) ((c.setTile d v0).setTile (d + 1) v1)

/-! ## Movement (R248) -/

/-- A word that moves whole lanes of v(A), as the tiles `idx` say: the source lane of each destination lane. -/
def vMove (s : State) (w : VArgs) (idx : List Reg4) (f : Core → Nat → Nat) : Out :=
  vLanes s w (w.a :: idx) fun c _ n => (c.opBits w.a w.sa (f c n), 0)

/-- VBCR (R248). -/
def execVbcr (w : VArgs) (s : State) : Out := vMove s w [] fun _ n => 64 * w.imm.toNat + n % 64

/-- VBCC (R248). -/
def execVbcc (w : VArgs) (s : State) : Out := vMove s w [] fun _ n => 64 * (n / 64) + w.imm.toNat

/-- VROTR (R248). -/
def execVrotr (w : VArgs) (s : State) : Out := vMove s w [] fun _ n => 64 * ((n / 64 + w.imm.toNat) % 16) + n % 64

/-- VROTC (R248). -/
def execVrotc (w : VArgs) (s : State) : Out := vMove s w [] fun _ n => 64 * (n / 64) + (n % 64 + w.imm.toNat) % 64

/-- VPERM (R248). -/
def execVperm (w : VArgs) (s : State) : Out :=
  vMove s w [w.b] fun c n =>
    let b := (c.opBits w.b w.sb n).toNat
    if w.fn == 0 then 64 * (n / 64) + b % 64 else 64 * (b % 16) + n % 64

/-- VMOV (R248): tile to tile, mask to mask, tile to mask, mask to tile. -/
def execVmov (w : VArgs) (s : State) : Out :=
  let tiles := match w.fn.toNat with
    | 0 => [w.d, w.a]
    | 1 => []
    | 2 => [w.a]
    | _ => [w.d]
  cTry s w tiles fun _ c =>
    let src (n : Nat) : Bool := (c.getM (w.a.toNat % 8)).getLsbD n
    let d := w.d.toNat % 8
    let toMask (f : Nat → Bool) : CoreRes :=
      .ok (c.setM d (maskOf fun n => if c.active w n then f n else (c.getM d).getLsbD n))
    match w.fn.toNat with
    | 0 => .ok (c.setTile w.d.toNat (c.lanes w w.d.toNat fun n => (c.opBits w.a w.sa n, 0)).1)
    | 1 => toMask src
    | 2 => toMask fun n => c.opBits w.a w.sa n != 0
    | _ => .ok (c.setTile w.d.toNat (c.lanes w w.d.toNat fun n => (if src n then 1 else 0, 0)).1)

/-- VLI (R248). -/
def execVli (w : VArgs) (s : State) : Out :=
  vLanes s w [] fun _ _ n => (if w.fn == 1 then w.imm + BitVec.ofNat 32 n else w.imm, 0)

/-! ## Random numbers (R253) -/

/-- VRNG (R252, R253). -/
def execVrng (w : VArgs) (s : State) : Out :=
  cTry s w [w.d, w.b] fun k c =>
    let v := c.vs k.curV
    let key := v.getK (w.a.toNat % 8)
    let hi := v.getK (w.c.toNat % 8)
    let unit (x : Nat) : W32 := (toF32 .rne (.fin false x (-24))).1
    let (t, _) := c.lanes w w.d.toNat fun n =>
      let u := (zcg key w.imm (hi ++ c.opBits w.b w.sb n)).1
      (match w.fn.toNat with
        | 0 => u
        | 1 => unit (u.toNat / 256)
        | _ => unit (u.toNat / 256 + 1), 0)
    .ok (c.setTile w.d.toNat t)

end Sys2Proof.Machine
end

