-- ==== Sys2Proof/Machine/XSync.lean ====
section
/-!
DEFINITION. Machine/XSync.lean: X's scalar memory words, semaphores, tags, queues, fences and transfer starts (R173-R186,
R196).
-/

namespace Sys2Proof.Machine

/-! ## Scalar memory (R173-R177) -/

/-- LDS (R174, R175): counted in `lc` whatever its guard. -/
def execLds (g : Guard) (d a : SReg) (size : BitVec 2) (sx : Bool) (off : BitVec 16) (s : State) : Out :=
  onCore s fun k c =>
    if 64 ≤ c.x.lc then c
    else if !guardHolds g c.x.p then
      { c with x := ({ c.x with pend := c.x.pend ++ [Posted.skip d k.cyc] } : XState).next k.cyc 8 }
    else if [d, a].any c.x.busy then c
    else
      let n := sizeBytes size
      let p := Posted.load d (scalarOff (c.x.getS a) off n) n sx none
      { c with x := ({ c.x with pend := c.x.pend ++ [p] } : XState).next k.cyc 8 }

/-- STS (R176). -/
def execSts (g : Guard) (a b : SReg) (size : BitVec 2) (off : BitVec 16) (s : State) : Out :=
  xDo s 8 g [a, b] fun _ x =>
    let n := sizeBytes size
    { x with pend := x.pend ++ [.store (scalarOff (x.getS a) off n) n (x.getS b)] }

/-- Every clock is an opportunity (R178). -/
def everyClock : Ctl → Core → Bool := fun _ _ => true

/-- WAITLC (R177). -/
def xWaitlc (s : State) (i : Instr) (len : Nat) (g : Guard) (n : Byte) (rp : PReg) (lim : Nat) : Out :=
  xBlock s i len g [] false rp lim everyClock (fun _ _ => none) fun k m =>
    if (m.core k.cur.val).x.lc ≤ n.toNat then some m else none

/-- WAITLC, 64-bit form (R177). -/
def execWaitlc64 (g : Guard) (n : Byte) (rp : PReg) (lim : Byte) (s : State) : Out :=
  xWaitlc s (.waitlc64 g n rp lim) 8 g n rp lim.toNat

/-- WAITLC, 96-bit form (R177). -/
def execWaitlc96 (g : Guard) (n : Byte) (rp : PReg) (lim : W32) (s : State) : Out :=
  xWaitlc s (.waitlc96 g n rp lim) 12 g n rp lim.toNat

/-! ## Semaphores (R179-R181) -/

/-- The index of a semaphore or ring (R179). -/
def indexOf (base : W64) (off : BitVec 16) : W64 := base + off.signExtend 64

/-- SEM_RANGE for an index outside 0-4095 (R179). -/
def semRange (i : W64) : Option (Byte × W64 × W64) := if 4096 ≤ i.toNat then some (trSemRange, i, 0) else none

/-- SEMADD (R180): served in one of X's positions, after every earlier access of X. -/
def execSemadd (g : Guard) (a b : SReg) (off : BitVec 16) (s : State) : Out :=
  xTry s 8 g [a, b] fun _ c =>
    let i := indexOf (c.x.getS a) off
    match semRange i with
    | some (code, i0, i1) => .trap code i0 i1
    | none => .ok { c with x := { c.x with pend := c.x.pend ++ [.semadd i.toNat (c.x.getS b)] } }

/-- SEMWAIT of X (R181): it looks in X's positions, once its earlier accesses are served; a count of 0
holds at the first look and takes nothing. -/
def xSemwait (s : State) (i : Instr) (len : Nat) (g : Guard) (a b : SReg) (off : BitVec 16) (take : Bool) (rp : PReg)
    (lim : Nat) : Out :=
  xBlock s i len g [a, b] false rp lim (fun k c => atPosition .x k.cyc && c.x.drained)
    (fun k m => semRange (indexOf ((m.core k.cur.val).x.getS a) off))
    fun k m =>
      let c := m.core k.cur.val
      let n := (c.x.getS b).toNat % 2 ^ 32
      if n = 0 then some m
      else (c.semTest (indexOf (c.x.getS a) off).toNat n take).map fun c => m.setCore k.cur.val c.acquired

/-- SEMWAIT, 64-bit form (R181). -/
def execSemwait64 (g : Guard) (a b : SReg) (off : BitVec 16) (take : Bool) (rp : PReg) (lim : Byte) (s : State) : Out :=
  xSemwait s (.semwait64 g a b off take rp lim) 8 g a b off take rp lim.toNat

/-- SEMWAIT, 96-bit form (R181). -/
def execSemwait96 (g : Guard) (a b : SReg) (off : BitVec 16) (take : Bool) (rp : PReg) (lim : W32) (s : State) : Out :=
  xSemwait s (.semwait96 g a b off take rp lim) 12 g a b off take rp lim.toNat

/-! ## Tags (R182, R183) -/

/-- TAGWAIT (R182): `tagr` is as it was at the start of the clock, as tags set in it are kept apart (R149). -/
def xTagwait (s : State) (i : Instr) (len : Nat) (g : Guard) (d a : SReg) (all clr : Bool) (rp : PReg) (lim : Nat) : Out :=
  xBlock s i len g [d, a] false rp lim everyClock (fun _ _ => none) fun k m =>
    let c := m.core k.cur.val
    let t := c.tagr &&& c.x.getS a
    if (if all then t == c.x.getS a else t != 0) then
      some (m.setCore k.cur.val
        { c.acquired with tagr := if clr then c.tagr &&& ~~~t else c.tagr, x := c.x.setS d t })
    else none

/-- TAGWAIT, 64-bit form (R182). -/
def execTagwait64 (g : Guard) (d a : SReg) (all clr : Bool) (rp : PReg) (lim : Byte) (s : State) : Out :=
  xTagwait s (.tagwait64 g d a all clr rp lim) 8 g d a all clr rp lim.toNat

/-- TAGWAIT, 96-bit form (R182). -/
def execTagwait96 (g : Guard) (d a : SReg) (all clr : Bool) (rp : PReg) (lim : W32) (s : State) : Out :=
  xTagwait s (.tagwait96 g d a all clr rp lim) 12 g d a all clr rp lim.toNat

/-- TAGFF (R183), by the rule of R182; a tag that it finds set acquires. -/
def execTagff (g : Guard) (d a : SReg) (clr : Bool) (s : State) : Out :=
  onCore s fun k c =>
    if !guardHolds g c.x.p then { c with x := c.x.next k.cyc 4 }
    else if [d, a].any c.x.busy then c
    else
      let t := c.tagr &&& c.x.getS a
      let n := aluCtz t
      let c := if t == 0 then c else c.acquired
      { c with
        tagr := if clr then c.tagr &&& ~~~((1 : W64) <<< n.toNat) else c.tagr
        x := (c.x.setS d n).next k.cyc 4 }

/-! ## Queues (R184) -/

/-- QPUT of X (R184): a release at core scope, so X's earlier accesses are served first (R117). -/
def xQput (s : State) (i : Instr) (len : Nat) (g : Guard) (q : BitVec 3) (a : SReg) (rp : PReg) (lim : Nat) : Out :=
  xBlock s i len g [a] true rp lim everyClock (fun _ _ => none) fun k m =>
    let c := m.core k.cur.val
    (c.qPut q.toNat (c.x.getS a) k.cyc).map (m.setCore k.cur.val)

/-- QPUT, 64-bit form (R184). -/
def execQput64 (g : Guard) (q : BitVec 3) (a : SReg) (rp : PReg) (lim : Byte) (s : State) : Out :=
  xQput s (.qput64 g q a rp lim) 8 g q a rp lim.toNat

/-- QPUT, 96-bit form (R184). -/
def execQput96 (g : Guard) (q : BitVec 3) (a : SReg) (rp : PReg) (lim : W32) (s : State) : Out :=
  xQput s (.qput96 g q a rp lim) 12 g q a rp lim.toNat

/-- QGET of X (R184); a q6 entry tells the UPD words that a later fence awaits (R185). -/
def xQget (s : State) (i : Instr) (len : Nat) (g : Guard) (q : BitVec 3) (d : SReg) (rp : PReg) (lim : Nat) : Out :=
  xBlock s i len g [d] false rp lim everyClock (fun _ _ => none) fun k m =>
    match (m.core k.cur.val).qGet q.toNat none k.cyc with
    | none => none
    | some (v, e, c) =>
      some (m.setCore k.cur.val { c.acquired with x := c.x.setS d v, lastQ6 := if q == 6 then e else c.lastQ6 })

/-- QGET, 64-bit form (R184). -/
def execQget64 (g : Guard) (q : BitVec 3) (d : SReg) (rp : PReg) (lim : Byte) (s : State) : Out :=
  xQget s (.qget64 g q d rp lim) 8 g q d rp lim.toNat

/-- QGET, 96-bit form (R184). -/
def execQget96 (g : Guard) (q : BitVec 3) (d : SReg) (rp : PReg) (lim : W32) (s : State) : Out :=
  xQget s (.qget96 g q d rp lim) 12 g q d rp lim.toNat

/-! ## Fences (R113, R121, R185, R186) -/

/-- The triples of the UPD words before the QPUT that X's last QGET of q6 returned have been accepted (R121, R185). -/
def Core.updAccepted (c : Core) : Bool := decide (c.lastQ6 ≤ c.emit.freed)

/-- A release: X's accesses and the writes of the commands that are complete are performed at the scope, and at package or fabric
scope the awaited triples are accepted (R113, R121). -/
def Mach.xReleased (scope : BitVec 2) (n : Fin 320) (m : Mach) : Bool :=
  let c := m.core n.val
  c.x.drained && !m.releaseOut (.core n) none scope.toNat && (decide (scope.toNat < 2) || c.updAccepted)

/-- A release of X at a scope beyond the core covers what happens before it (R110). -/
def Mach.xTell (scope : BitVec 2) (n : Fin 320) (m : Mach) : Mach := m.tell (.core n) none scope.toNat

/-- An acquire: no load is outstanding (R113), and at package or fabric scope the awaited triples are accepted (R185). -/
def Mach.xAcquired (scope : BitVec 2) (n : Fin 320) (m : Mach) : Bool :=
  let c := m.core n.val
  c.x.lc == 0 && (decide (scope.toNat < 2) || c.updAccepted)

/-- FENCE, full (R113, R185). -/
def execFenceFull (g : Guard) (scope : BitVec 2) (s : State) : Out :=
  xUntil s (.fenceFull g scope) 4 g (fun n m => m.xReleased scope n && m.xAcquired scope n) (Mach.xTell scope)

/-- FENCE.REL (R113, R185). -/
def execFenceRelease (g : Guard) (scope : BitVec 2) (s : State) : Out :=
  xUntil s (.fenceRelease g scope) 4 g (fun n m => m.xReleased scope n) (Mach.xTell scope)

/-- FENCE.ACQ (R113, R185). -/
def execFenceAcquire (g : Guard) (scope : BitVec 2) (s : State) : Out :=
  xUntil s (.fenceAcquire g scope) 4 g fun n m => m.xAcquired scope n

/-- A context waits in the test of SEMWT, RFILL or RDRAIN. -/
def Ctx.inTest (x : Ctx) : Bool :=
  match x.hold with
  | .test _ => true
  | .extend _ => true
  | _ => false

/-- An RFILL or RDRAIN has passed a test (R300). -/
def Cmd.underWay (c : Cmd) : Bool :=
  match c.word with
  | .rfill _ => c.vals != [0]
  | .rdrain _ => c.vals != [0]
  | _ => false

/-- The commands of an engine that have begun to perform elements and do not wait in a test, and those whose writes are on their
way, each by its context and its number (R115). -/
def Engine.begun (g : Engine) : List (Nat × Nat) :=
  let running (i : Nat) : Option (Nat × Nat) :=
    let x := vget g.ctxs i Ctx.init
    match x.cmd with
    | some c => if c.started && (x.ep != 0 || c.underWay || !x.got.isEmpty) && !x.inTest then some (i, c.id) else none
    | none => none
  (List.range 4).filterMap running ++ g.posts.map fun p => (p.ctx, p.id)

/-- The commands whose accesses a FENCESC that issues now awaits (R115): those of its core's engine, and those of the other engines whose
writes a release of a narrower scope has covered (R110). -/
def Mach.begun (m : Mach) (n : Fin 320) : List (Nat × Nat × Nat) :=
  (m.engine (.core n)).begun.map (fun w => (n.val, w)) ++
    (List.range 416).flatMap fun i =>
      ((vget m.engines i Engine.init).posts.filter (·.told)).map fun p => (i, p.ctx, p.id)

/-- The accesses of a command have been performed; those of one that has come to wait in a test are those it made before. -/
def Engine.performed (g : Engine) (w : Nat × Nat) : Bool :=
  let x := vget g.ctxs w.1 Ctx.init
  (x.inTest || !x.cmd.any fun c => c.id == w.2) && !g.posts.any fun p => p.ctx == w.1 && p.id == w.2

/-- Everything that FENCESC waits for has been performed (R115, R186): X's accesses, the commands it found begun, and the
triples of every UPD that happens before it, by whichever way it does (R121). -/
def Mach.scDrained (m : Mach) (n : Fin 320) : Bool :=
  let c := m.core n.val
  c.x.drained && decide (max c.lastQ6 c.lastSem ≤ c.emit.freed) &&
    c.x.fscWait.all fun w => (vget m.engines w.1 Engine.init).performed w.2

/-- FENCESC (R115, R186): X waits; the clock in which the last of what it waits for was performed is kept (`Mach.noteFence`), and
the first tick after it ends the wait (FENCESC_COMPLETE). With nothing to wait for it is the issue clock. -/
def execFencesc (g : Guard) (s : State) : Out :=
  onMach s fun k m =>
    let n := k.cur.val
    let c := m.core n
    if !guardHolds g c.x.p then m.setCore n { c with x := c.x.next k.cyc 4 }
    else
      match c.x.wait with
      | some _ => m
      | none => m.setCore n { c with x := { c.x with
          wait := some ⟨.fencesc g, k.cyc, none⟩
          fscWait := m.begun k.cur } }

/-! ## Starting a move program (R196) -/

/-- TXGO (R196): a release at core scope (R116). -/
def xTxgo (s : State) (i : Instr) (len : Nat) (g : Guard) (a : SReg) (entry : BitVec 13) (rp : PReg) (lim : Nat) : Out :=
  xBlock s i len g [a] true rp lim everyClock
    (fun k m =>
      let c := m.core k.cur.val
      match c.task with
      | none => none
      | some b =>
        if b.desc.codeLen - b.desc.moveOff ≤ 8 * entry.toNat then
          some (trIllegal, BitVec.ofNat 64 (((encode i).map (·.2)).getD 0), c.x.pc.setWidth 64)
        else none)
    fun k m =>
      let e := EngineId.core k.cur
      let y := m.engine e
      if y.invq.length < 16 then
        some (m.setEngine e { y with invq := y.invq ++ [(entry, (m.core k.cur.val).x.getS a)] })
      else none

/-- TXGO, 64-bit form (R196). -/
def execTxgo64 (g : Guard) (a : SReg) (entry : BitVec 13) (rp : PReg) (lim : Byte) (s : State) : Out :=
  xTxgo s (.txgo64 g a entry rp lim) 8 g a entry rp lim.toNat

/-- TXGO, 96-bit form (R196). -/
def execTxgo96 (g : Guard) (a : SReg) (entry : BitVec 13) (rp : PReg) (lim : W32) (s : State) : Out :=
  xTxgo s (.txgo96 g a entry rp lim) 12 g a entry rp lim.toNat

end Sys2Proof.Machine
end

