-- ==== Sys2Proof/Machine/Transfer.lean ====
section
/-!
DEFINITION. Machine/Transfer.lean: how a transfer context issues a word, performs a data command one element at a step,
stops at a fault, holds, and completes (R255-R258, R268-R273, R278-R280). One turn of a context starts a command,
or performs its next element (notes/assumptions/9.md).
-/

namespace Sys2Proof.Machine

/-! ## Contexts -/

/-- A context of an engine. -/
def Engine.ctx (g : Engine) (n : Fin 4) : Ctx := vget g.ctxs n.val Ctx.init

/-- A context of the machine. -/
def Mach.ctx (m : Mach) (e : EngineId) (n : Fin 4) : Ctx := (m.engine e).ctx n

/-- The machine with a context replaced. -/
def Mach.setCtx (m : Mach) (e : EngineId) (n : Fin 4) (x : Ctx) : Mach :=
  let g := m.engine e
  m.setEngine e { g with ctxs := vset g.ctxs n.val x }

/-- An a register (R256). -/
def Ctx.reg (x : Ctx) (r : Reg4) : W64 := vget x.a r.toNat 0

/-- Write an a register. -/
def Ctx.setReg (x : Ctx) (r : Reg4) (v : W64) : Ctx := { x with a := vset x.a r.toNat v }

/-- An a register as the command read it when it issued (R279). -/
def Cmd.reg (c : Cmd) (r : Reg4) : W64 := vget c.a r.toNat 0

/-- The length of a transfer word in bytes (R56). -/
def tLen (long : Bool) : Nat := cond long 16 8

/-- A context goes past a word. -/
def Ctx.past (x : Ctx) (long : Bool) : Ctx := { x with tpc := x.tpc + BitVec.ofNat 32 (tLen long) }

/-- Who accesses memory for a command of a context (R98, R99, R105, R265): a core's engine under its task; the program of a
die or far-tier engine under the segment table it was issued with. -/
def Mach.access (m : Mach) (k : Ctl) (c : Cmd) : Access :=
  let g := m.engine k.eng
  let b := match engineCore k.eng with
    | some n => (m.core n.val).task
    | none => none
  { eng := some k.eng
    asid := g.asid
    segs := g.segs
    part := (b.map fun b => b.part.toNat).getD 0
    own := (engineCore k.eng).map (·.val)
    anyPart := (engineCore k.eng).isNone
    bound := b
    sys := false
    who := k.ctx.val
    id := c.id
    vc := c.vc
    now := k.cyc
    upd := (g.ctx k.ctx).upd
    ep := (g.ctx k.ctx).ep.toNat
    since := (g.ctx k.ctx).since }

/-! ## Stops -/

/-- Why an element, or the start of a command, does not go through: a transfer fault with its information (R268,
R135), a translation that the TLBs do not hold with KIND of R271, a wait, or an access that is not served yet or not admitted, with what the
element has read before it. -/
inductive TStop where
  | fault (code : Byte) (info0 info1 : W64)
  | miss (va kind : Nat)
  | hold (h : Hold)
  | later (m : Mach) (h : Hold := .none)
deriving DecidableEq, Repr

/-- A fault of an access at element `e` (R135): the command's address for the memory-model codes and COMPACT_RANGE, the
address itself for the others. -/
def accFault (c : Cmd) (e : Nat) (code : Byte) (a : W64) : TStop :=
  if code == trUndeclared || code == trUpdateOnly || code == trRmwClass || code == trCompact then
    .fault code (c.off.setWidth 64) (BitVec.ofNat 64 e)
  else .fault code a (BitVec.ofNat 64 e)

/-- SHAPE_INVALID at a record or list (R135, R278). -/
def shapeFault (a : W64) : TStop := .fault trShapeInvalid a 0

/-- A read, or an indivisible access, waits: for the writes that are ordered before it (R104), for the triples that come before it
(R122), for the position that serves a scratchpad (R26), and for its time slots (R416). It travels on the request channel (R124). -/
def Mach.mustWait (m : Mach) (A : Access) (a : Int) (ps : Parts) : Bool :=
  match A.eng with
  | some e => (m.engine e).behind A.who 0 (classAt A.segs a) ps || m.owesUpd e A.upd ps || !m.served A e ps || !m.slotted e A.since A.now ps
  | none => false

/-- Check and translate an access of `n` bytes at an exact address (R258, R278). `kind` is KIND of R271. -/
def Mach.reach (m : Mach) (A : Access) (k : AccKind) (kind : Nat) (c : Cmd) (e : Nat) (a : Int) (n : Nat) :
    Except TStop Parts :=
  let w := BitVec.ofInt 64 a
  if a < 0 || 2 ^ 64 ≤ a then .error (accFault c e trAperture w)
  else match m.resolve A k w n with
    | .ok ps => .ok ps
    | .fault code => .error (accFault c e code w)
    | .miss va => .error (.miss va kind)
    | .page _ _ => .error (accFault c e trNotPresent w)

/-- The places of an element's bits, with the bit of the first byte at which it begins, and its width. -/
structure BitRef where
  parts : Parts
  sh : Nat
  width : Nat
  addr : Int
deriving DecidableEq, Repr

/-- Check and translate an element at a bit offset from a base (R67, R278). -/
def Mach.reachBits (m : Mach) (A : Access) (k : AccKind) (c : Cmd) (e : Nat) (base : Int) (bit : Int) (w : Nat) :
    Except TStop BitRef := do
  let (o, sh, n) := bitSpan bit w
  let kind := match k with
    | .read => 0
    | .write => 1
    | .rmw _ => 2
    | .exec => 0
  let ps ← m.reach A k kind c e (base + o) n
  .ok ⟨ps, sh, w, base + o⟩

/-- The position that serves an access's scratchpad bytes is taken (R26). -/
def Mach.usePos (m : Mach) (A : Access) (ps : Parts) : Mach :=
  match A.eng with
  | some e => m.takeAll A.now ps e
  | none => m

/-- The context whose element keeps what an access reads. -/
def Access.keeper (A : Access) : Option (EngineId × Nat) := A.keep <|> A.eng.map fun e => (e, A.who)

/-- Change that context. -/
def Mach.mapCtx (m : Mach) (A : Access) (f : Ctx → Ctx) : Mach :=
  match A.keeper with
  | some (e, i) =>
    let g := m.engine e
    m.setEngine e { g with ctxs := vset g.ctxs i (f (vget g.ctxs i Ctx.init)) }
  | none => m

/-- What a context's element has already read of the access that it makes now. -/
def Mach.recalled (m : Mach) (A : Access) : Option (Nat × List Nat) :=
  match A.keeper with
  | some (e, i) =>
    match (vget (m.engine e).ctxs i Ctx.init).again with
    | v :: vs => some (v, vs)
    | [] => none
  | none => none

/-- Read a piece of an access at its home, which counts it, or take what an earlier turn of the element has read. -/
def Mach.readPiece (m : Mach) (A : Access) (a : Int) (ps : Parts) : Except TStop (Mach × Nat) :=
  match m.recalled A with
  | some (v, vs) => .ok (m.mapCtx A fun x => { x with again := vs }, v)
  | none =>
    if m.mustWait A a ps then .error (.later m)
    else
      let (m, v) := ((m.usePos A (ps ++ m.statusPlaces ps)).countAccess A ps).readParts ps
      .ok (m.mapCtx A fun x => { x with got := x.got ++ [v] }, v)

/-- Read the pieces of an access in ascending order. -/
def Mach.readPieces (m : Mach) (A : Access) (a : Int) : List Parts → Except TStop (Mach × Nat)
  | [] => .ok (m, 0)
  | ps :: rest => do
    let (m, v) ← m.readPiece A a ps
    let (m, hi) ← m.readPieces A (a + (ps.size : Int)) rest
    .ok (m, v + 2 ^ (8 * ps.size) * hi)

/-- Read an access's bytes at their home, each piece of a scratchpad in a position of its own (R27). -/
def Mach.readFor (m : Mach) (A : Access) (a : Int) (ps : Parts) : Except TStop (Mach × Nat) :=
  (m.useTlb A .read a ps.size).readPieces A a (accPieces ps)

/-- Read an element. -/
def Mach.readBits (m : Mach) (A : Access) (r : BitRef) : Except TStop (Mach × Nat) := do
  let (m, v) ← m.readFor A r.addr r.parts
  .ok (m, getBits v r.sh r.width)

/-- An indivisible access may be performed at some places now (R118). -/
def Mach.mayRmw (m : Mach) (A : Access) (a : Int) (ps : Parts) : Except TStop Unit :=
  if m.mustWait A a ps then .error (.later m) else .ok ()

/-- Write an element; one that shares a byte with other bits changes its own bits alone (R103). -/
def Mach.writeBits (m : Mach) (A : Access) (r : BitRef) (v : Nat) : Mach := m.writeFor A r.addr r.parts r.sh r.width v

/-! ## Commands -/

/-- What follows an element: the next one, the end of the command, or the same element again. -/
inductive After where
  | next | finish | again
deriving DecidableEq, Repr

/-- What a data command does: the a registers it reads or writes; whether it waits for the earlier commands of its
context; its start, which reads its records and counts its elements; an element, performed or ending the command;
what a fault does besides, none when that must wait for a position; the compare flag and the register result at its end. -/
structure CmdSpec where
  regs : List Reg4
  alone : Bool := false
  start : Access → Mach → Cmd → Except TStop (Mach × Cmd)
  elem : Ctl → Access → Mach → Cmd → Nat → Except TStop (Mach × Cmd × After)
  onFault : Access → Mach → Cmd → Byte → Option Mach := fun _ m _ _ => some m
  flag : Cmd → Option Bool := fun _ => none
  result : Cmd → Option (Reg4 × W64) := fun _ => none

/-- An in-flight command of the context is to write one of these registers (R257). -/
def Ctx.awaits (x : Ctx) (rs : List Reg4) : Bool := rs.any fun r => x.flight.any fun f => f.result.any fun p => p.1 == r

/-- Entries of the emit pool that come before a context's commands have triples that no basin has accepted (R121). -/
def Mach.updOut (m : Mach) (e : EngineId) (n : Fin 4) : Bool :=
  match engineCore e with
  | some i => decide ((m.core i.val).emit.freed < (m.ctx e n).upd)
  | none => false

/-- What happens before a release of a context has not been performed at a scope (R110, R114), at package or fabric scope the triples
that UPDs have emitted before it among it (R121). -/
def Mach.scopeHeld (m : Mach) (k : Ctl) (scope : Nat) : Bool :=
  m.releaseOut k.eng (some k.ctx.val) scope || (decide (2 ≤ scope) && m.updOut k.eng k.ctx)

/-- A command is a release (R110). -/
def tReleases (w : TArgs) : Bool := w.ord == 1 || w.ord == 3

/-- A release command waits until every access that happens before it has been performed at its scope (R110, R121). -/
def Mach.releaseHeld (m : Mach) (k : Ctl) (w : TArgs) : Bool := tReleases w && m.scopeHeld k w.scope.toNat

/-- A data command waits at issue (R257, R279). -/
def Mach.issueHeld (m : Mach) (k : Ctl) (x : Ctx) (w : TArgs) (sp : CmdSpec) : Bool :=
  decide (8 ≤ x.flight.length) || (sp.alone && !x.flight.isEmpty) || x.awaits sp.regs || m.releaseHeld k w

/-- The virtual channel of a command's writes (R124): 0 requests, 1 posted writes, 2 control/release. A relaxed SIGNAL with TE set, which
two rows of R124's table name, travels on the request channel (DESIGN CHOICE, notes/assumptions/35.md). -/
def tVc (w : TArgs) : Nat := if tReleases w then 2 else if w.te then 0 else 1

/-- A command as it issues, with its number in its engine. -/
def Ctx.newCmd (x : Ctx) (i : Instr) (id vc : Nat) : Cmd := ⟨i, id, vc, x.tpc, x.a, false, default, default, 0, 0, []⟩

/-- An engine numbers one more command, which its context begins at element 0 at a clock. -/
def Mach.numberCmd (m : Mach) (e : EngineId) (n : Fin 4) (cyc : Nat) : Mach :=
  let g := m.engine e
  m.setEngine e { g with nextId := g.nextId + 1, ctxs := vset g.ctxs n.val { g.ctx n with ep := 0, since := cyc } }

/-- A release command issues: what happens before it is covered by a release at its scope (R110). -/
def Mach.tellFor (m : Mach) (k : Ctl) (w : TArgs) : Mach :=
  if tReleases w then m.tell k.eng (some k.ctx.val) w.scope.toNat else m

/-- Raise flags in X's `fsr` (R149, R279); an engine without a core has none. -/
def Mach.mergeFlags (m : Mach) (e : EngineId) (f : Flags) : Mach :=
  match engineCore e with
  | some n =>
    let c := m.core n.val
    m.setCore n.val { c with x := { c.x with fsrNew := orFsr c.x.fsrNew f } }
  | none => m

/-- A command stops at a transfer fault (R269). -/
def Mach.faultCtx (m : Mach) (e : EngineId) (n : Fin 4) (c : Cmd) (code : Byte) (i0 i1 : W64) : Mach :=
  let x := m.ctx e n
  let m := m.setCtx e n { x with
    st := .stopped, code := code, fault := some ⟨code, i0, i1⟩, cmd := none, hold := .none, got := [], again := [] }
  m.mergeFlags e c.flags

/-- The scope at which a command completes (R116): core scope when its ordering is relaxed. -/
def tDoneScope (w : TArgs) : Nat := if w.ord == 0 then 0 else w.scope.toNat

/-- Every element of a command has been issued (R257): the context goes on, the command is in flight. -/
def Mach.finishCmd (m : Mach) (e : EngineId) (n : Fin 4) (long : Bool) (w : TArgs) (sp : CmdSpec) (c : Cmd) : Mach :=
  let x := (m.ctx e n).past long
  (m.setCtx e n { x with
    st := .running
    cmd := none
    hold := .none
    got := []
    again := []
    flag := (sp.flag c).getD x.flag
    flight := x.flight ++ [⟨c.id, tDoneScope w, if w.te then some w.tag else none, c.flags, sp.result c⟩] }).noteDone e n.val c.id

/-- The context holds a command at element `ep`. -/
def Mach.keepCmd (m : Mach) (e : EngineId) (n : Fin 4) (c : Cmd) (ep : Nat) (h : Hold) : Mach :=
  let x := m.ctx e n
  m.setCtx e n { x with
    cmd := some c
    ep := BitVec.ofNat 64 ep
    hold := h
    st := match h with
      | .test _ => .waiting
      | .extend _ => .waiting
      | _ => .running }

/-- What a context's element has read so far is at hand in its next turn. -/
def Ctx.rewound (x : Ctx) : Ctx := { x with again := x.got }

/-- A context's element, or its command's start, is performed: it starts the next one with nothing read. -/
def Mach.readDone (m : Mach) (e : EngineId) (n : Fin 4) : Mach := m.setCtx e n { m.ctx e n with got := [], again := [] }

/-- A command that has met a fault at an element, which is delivered once what the fault does besides can be done: its `vals` hold 4, the
code and the information. -/
def Cmd.faulting (c : Cmd) (ep : Nat) (code : Byte) (i0 i1 : W64) : Cmd :=
  { c with started := true, total := max c.total (ep + 1), vals := [4, code.toNat, i0.toNat, i1.toNat] }

/-- A command stops, or holds, at element `ep`. -/
def Mach.stopCmd (m : Mach) (A : Access) (e : EngineId) (n : Fin 4) (sp : CmdSpec) (c : Cmd) (ep : Nat) : TStop → Mach
  | .fault code i0 i1 =>
    match sp.onFault A m c code with
    | some m => (m.setCtx e n { m.ctx e n with ep := BitVec.ofNat 64 ep }).faultCtx e n c code i0 i1
    | none => m.keepCmd e n (c.faulting ep code i0 i1) ep .none
  | .miss va kind => m.keepCmd e n c ep (.walk va kind)
  | .hold h => m.keepCmd e n c ep h
  | .later m' h => (m'.setCtx e n (m'.ctx e n).rewound).keepCmd e n c ep h

/-- Perform element `ep` of a started command, or end it. -/
def Mach.runElem (m : Mach) (k : Ctl) (long : Bool) (w : TArgs) (sp : CmdSpec) (c : Cmd) (ep : Nat) : Mach :=
  let e := k.eng
  let n := k.ctx
  if c.total ≤ ep then m.finishCmd e n long w sp c
  else
    let A := m.access k c
    match sp.elem k A m c ep with
    | .error t => m.stopCmd A e n sp c ep t
    | .ok (m', c', .next) =>
      let m' := m'.setCtx e n { m'.ctx e n with ep := BitVec.ofNat 64 (ep + 1), got := [], again := [], since := k.cyc }
      if c'.total ≤ ep + 1 then m'.finishCmd e n long w sp c' else m'.keepCmd e n c' (ep + 1) .none
    | .ok (m', c', .finish) => m'.finishCmd e n long w sp c'
    | .ok (m', c', .again) => (m'.readDone e n).keepCmd e n c' ep .none

/-- A turn of a context on a data command: start it if it has not started (R278, R279), then perform one element. -/
def Mach.runCmd (m : Mach) (k : Ctl) (long : Bool) (w : TArgs) (sp : CmdSpec) (c : Cmd) (ep : Nat) : Mach :=
  if c.started then m.runElem k long w sp c ep
  else
    let A := m.access k c
    match sp.start A m c with
    | .error t => m.stopCmd A k.eng k.ctx sp c 0 t
    | .ok (m', c') => (m'.readDone k.eng k.ctx).runElem k long w sp { c' with started := true } 0

/-- A data command's word. -/
def dataWord (s : State) (i : Instr) (long : Bool) (w : TArgs) (sp : CmdSpec) : Out :=
  onMach s fun k m =>
    let x := m.ctx k.eng k.ctx
    match x.cmd with
    | some c => m.runCmd k long w sp c x.ep.toNat
    | none =>
      if m.issueHeld k x w sp then m
      else ((m.tellFor k w).numberCmd k.eng k.ctx k.cyc).runCmd k long w sp (x.newCmd i (m.engine k.eng).nextId (tVc w)) 0

/-- A word that acts on its context's registers alone: it waits for results it reads or writes (R257). -/
def ctxWord (s : State) (rs : List Reg4) (f : Ctx → Ctx) : Out :=
  onMach s fun k m =>
    let x := m.ctx k.eng k.ctx
    if x.awaits rs then m else m.setCtx k.eng k.ctx (f x)

/-! ## Records and lists -/

/-- Read a shape record (R278), KIND 4. -/
def Mach.readRecord (m : Mach) (A : Access) (c : Cmd) (a : W64) : Except TStop (Mach × Shape) := do
  let ps ← m.reach A .read 4 c 0 (a.toNat : Int) 192
  let (m, v) ← m.readFor A (a.toNat : Int) ps
  let r := Shape.parse v
  if !r.valid || r.isRagged then .error (shapeFault a) else .ok (m, r)

/-- Read `n` bytes of data for element `e`, KIND 0. -/
def Mach.readData (m : Mach) (A : Access) (c : Cmd) (e : Nat) (a : Int) (n : Nat) : Except TStop (Mach × Nat) := do
  let ps ← m.reach A .read 0 c e a n
  m.readFor A a ps

/-- Read `n` bytes of a list, a block or a descriptor for element `e`, KIND 4. -/
def Mach.readPlain (m : Mach) (A : Access) (c : Cmd) (e : Nat) (a : Int) (n : Nat) : Except TStop (Mach × Nat) := do
  let ps ← m.reach A .read 4 c e a n
  m.readFor A a ps

/-- Read `n` 8-byte list entries from an address (R280). -/
def Mach.readList (m : Mach) (A : Access) (c : Cmd) (a : Int) : Nat → Except TStop (Mach × List Nat)
  | 0 => .ok (m, [])
  | n + 1 => do
    let (m, v) ← m.readPlain A c 0 a 8
    let (m, vs) ← m.readList A c (a + 8) n
    .ok (m, v :: vs)

/-- Read elements of a dense source (R67) from element number `i` on. -/
def Mach.readDense (m : Mach) (A : Access) (c : Cmd) (e : Nat) (base : Int) (w : Nat) (i : Nat) :
    Nat → Except TStop (Mach × List Nat)
  | 0 => .ok (m, [])
  | n + 1 => do
    let r ← m.reachBits A .read c e base ((i * w : Nat) : Int) w
    let (m, v) ← m.readBits A r
    let (m, vs) ← m.readDense A c e base w (i + 1) n
    .ok (m, v :: vs)

/-- Write bytes at places checked before. -/
def Mach.writePlain (m : Mach) (A : Access) (a : Int) (ps : Parts) (v : Nat) : Mach :=
  m.writeFor A a ps 0 (8 * (ps.map (·.2)).sum) v

/-- Write bytes at their home at once: the write of an indivisible access (R118). -/
def Mach.writeNow (m : Mach) (A : Access) (a : Int) (ps : Parts) (v : Nat) : Mach :=
  (((m.useTlb A (.rmw true) a ps.size).usePos A (ps ++ m.statusPlaces ps)).noteWrite A a ps).writeParts v ps

/-- The record at a register, checked against the limits its entry states (R278). -/
def Mach.recordAt (m : Mach) (A : Access) (c : Cmd) (r : Reg4) (ok : Shape → Bool) : Except TStop (Mach × Shape) := do
  let (m, h) ← m.readRecord A c (c.reg r)
  if ok h then .ok (m, h) else .error (shapeFault (c.reg r))

/-- A list's address must be 8-byte aligned (R280). -/
def listAligned (a : W64) : Except TStop Unit := if a.toNat % 8 == 0 then .ok () else .error (shapeFault a)

/-- A base register as an exact address. -/
def Cmd.base (c : Cmd) (r : Reg4) : Int := ((c.reg r).toNat : Int)

/-- The bit offset of an element of `w` bits (R93, R290: the strides count elements of that width). -/
def Shape.bitAt (r : Shape) (w : Nat) (ix : List Nat) : Int :=
  if r.layout == 1 then
    let l := r.lineOf ix
    let k := (ix[0]?).getD 0
    (((r.blkOf l k * 64 + l % 64) * 96 + k % 96) * w : Nat)
  else ((List.range 6).map fun d => (((ix[d]?).getD 0 : Nat) : Int) * r.stride d).sum * (w : Int)

/-! ## What a context does next (R257, R270) -/

/-- A context can take its engine's next turn. -/
def Ctx.runnable (x : Ctx) : Bool := x.st == .running && !x.ending && x.hold == .none

/-- The context whose turn it is (R257): the first that can take it after the one that issued last. -/
def Engine.turn (g : Engine) : Option Nat :=
  ((List.range 4).map fun i => (g.lastCtx + 1 + i) % 4).find? fun i => (vget g.ctxs i Ctx.init).runnable

/-- The engine has something to run for (R133, R255, R400): a core's engine the task that its core runs. -/
def Mach.engineLive (m : Mach) (e : EngineId) : Bool :=
  match engineCore e with
  | some n => (m.core n.val).task.any (·.running)
  | none => true

/-- What a context does when a turn is offered to it. -/
def Mach.ctxFetch (m : Mach) (e : EngineId) (n : Fin 4) : TFetch :=
  let g := m.engine e
  let x := g.ctx n
  if !m.engineLive e || g.turn != some n.val then .idle
  else match x.cmd with
    | some c => .run c.word
    | none =>
      let priv := match engineCore e with
        | some c => ((m.core c.val).task.map (·.priv)).getD false
        | none => true
      tFetchAt g.pstore g.plen priv m.mgmt.svc (engineCore e).isSome x.tpc

/-- The context has taken its engine's turn. -/
def Mach.noteTurn (m : Mach) (e : EngineId) (n : Fin 4) : Mach :=
  m.setEngine e { m.engine e with lastCtx := n.val }

/-- A decode stop (R59, R270). A FOLLOW in an engine without a core is reported to system software (R303). -/
def Mach.decodeStop (m : Mach) (e : EngineId) (n : Fin 4) (code : Byte) (i0 i1 : W64) : Mach :=
  let m := m.setCtx e n { m.ctx e n with st := .stopped, code := code, fault := some ⟨code, i0, i1⟩ }
  if (engineCore e).isNone && code == trIllegal && tOpAt i0.toNat == 0x10 then m.report code 0 0 i1 else m

/-! ## Events of contexts -/

/-- The entries of the emit pool that come before what X of an engine's core does now (R117, R121). -/
def Mach.knownUpd (m : Mach) (e : EngineId) : Nat :=
  match engineCore e with
  | some n => max (m.core n.val).lastQ6 (m.core n.val).lastSem
  | none => 0

/-- A context acquires: what the core's C has written to its emit pool comes before its later commands (R117, R121). -/
def Mach.ctxAcquires (m : Mach) (k : Ctl) : Mach :=
  match engineCore k.eng with
  | some n => m.setCtx k.eng k.ctx { m.ctx k.eng k.ctx with upd := (m.core n.val).emit.written }
  | none => m

/-- INVOCATION_START (R133, R197): the lowest-numbered free context takes the oldest queued invocation. -/
def execInvocationStart (s : State) : Out :=
  onMach s fun k m =>
    let g := m.engine k.eng
    if !m.engineLive k.eng then m
    else match g.invq, (List.range 4).find? fun i => (vget g.ctxs i Ctx.init).st == .free with
    | (entry, arg) :: rest, some i =>
      m.setEngine k.eng { g with
        invq := rest
        ctxs := vset g.ctxs i { Ctx.init with
          flight := (vget g.ctxs i Ctx.init).flight
          upd := m.knownUpd k.eng
          a := vset Ctx.init.a 0 arg, tpc := BitVec.ofNat 32 (8 * entry.toNat), st := .running } }
    | _, _ => m

/-- A context whose invocation has ended is free once every command is complete (R257, R311). -/
def Ctx.freed (x : Ctx) : Ctx := if x.ending && x.flight.isEmpty then Ctx.init else x

/-- Set a completion tag (R116, R145): a word of X sees it from the next clock on (R182). -/
def Mach.setTag (m : Mach) (e : EngineId) (t : BitVec 6) : Mach :=
  match engineCore e with
  | some n =>
    let c := m.core n.val
    m.setCore n.val { c with tagNew := c.tagNew ||| (1 : W64) <<< t.toNat }
  | none => m

/-- TRANSFER_COMMAND_COMPLETE (R116, R257, R279): `k` counts the command among those in flight; its accesses have been performed
at its scope. Its flags are merged, its register result is written, then its tag is set. -/
def execTransferCommandComplete (s : State) : Out :=
  onMach s fun k m =>
    let x := m.ctx k.eng k.ctx
    match x.flight[k.occ.k]? with
    | none => m
    | some f =>
      if (m.engine k.eng).cmdOut k.eng f.scope k.ctx.val f.id then m
      else
      let x := { x with flight := x.flight.eraseIdx k.occ.k }
      let x := match f.result with
        | some (r, v) => x.setReg r v
        | none => x
      let m := ((m.setCtx k.eng k.ctx x.freed).noteComplete k.eng k.ctx.val f.id).mergeFlags k.eng f.flags
      match f.tag with
      | some t => m.setTag k.eng t
      | none => m

/-- A suspension (R271) is recorded, what its element has read is dropped (R272), and it is reported to system software: CAUSE, the partition, the tid, VA (R410), with the ASID,
LEVEL and SUB. -/
def Mach.suspendCtx (m : Mach) (e : EngineId) (n : Fin 4) (u : Susp) : Mach :=
  let x := m.ctx e n
  let m := m.setCtx e n { x with st := .suspended, susp := u, hold := .none, got := [], again := [] }
  let b := m.boundOf e
  m.reportMore u.cause ((b.map fun b => b.part.toNat).getD 0) ((b.map (·.tid)).getD 0) u.va ⟨(m.engine e).asid, u.level, u.sub.toNat⟩

/-- PAGE_WALK_COMPLETE (R263-R265, R271): the walk that a context waits for gives a leaf, which the TLBs take, or a
fault, which suspends the context; a doorbell that arrived meanwhile has the walk made once more (R272). -/
def execPageWalkComplete (s : State) : Out :=
  onMach s fun k m =>
    let x := m.ctx k.eng k.ctx
    match x.hold with
    | .walk va kind =>
      let g := m.engine k.eng
      let cls := (segAt g.segs va).map Seg.cl
      match m.walk g.asid va cls with
      | .leaf v size p =>
        if m.heldByMove p then m
        else
        let m := if cls == some 2 then m.notePage g.asid v size p else m
        let t : TlbEntry := ⟨g.asid, v, size, p⟩
        let m := m.tlbPut k.eng t
        let d := engineDie k.eng
        let m := if d < 8 then { m with tlb2 := vset m.tlb2 d (tlb2Install t (vget m.tlb2 d [])) } else m
        m.setCtx k.eng k.ctx { m.ctx k.eng k.ctx with hold := .none, rung := false }
      | .notPresent l =>
        if x.rung then m.setCtx k.eng k.ctx { x with rung := false }
        else m.suspendCtx k.eng k.ctx ⟨trNotPresent, 1, l, kind, (x.cmd.map (·.off)).getD 0, x.ep, BitVec.ofNat 64 va, 0⟩
      | .badFormat l =>
        if x.rung then m.setCtx k.eng k.ctx { x with rung := false }
        else m.suspendCtx k.eng k.ctx ⟨trNotPresent, 2, l, kind, (x.cmd.map (·.off)).getD 0, x.ep, BitVec.ofNat 64 va, 0⟩
    | _ => m

end Sys2Proof.Machine
end

