-- ==== Sys2Proof/Machine/Updates.lean ====
section
/-!
DEFINITION. Machine/Updates.lean: emission of update triples (R349-R354), the drain unit (R355), and what the basins do by
themselves (R356-R361).
-/

namespace Sys2Proof.Machine

/-! ## The emit pool (R349) -/

/-- The checks of a target and its type (R352): the trap code, or none. `fmts` are the types the value may have. -/
def Core.emitFault (c : Core) (a : Nat) (fmts : List Nat) : Option Byte :=
  match c.emitSeg a with
  | none => some trUpdTarget
  | some (_, _, op) =>
    if a % updBytes op != 0 then some trUpdTarget
    else if fmts.any fun f => (updFmts op).contains f then none
    else some trUpdType

/-- The address of a lane's target (R352). -/
def Core.updAddr (c : Core) (q : VSeq) (w : VArgs) (n : Nat) : W64 :=
  (c.vs q).getK (w.imm.toNat % 8) + ((c.opBits w.a w.sa n).setWidth 64 <<< (w.imm.toNat / 8 % 4))

/-- The lanes of an UPD that emit, ascending. -/
def Core.updLanes (c : Core) (w : VArgs) : List Nat := (List.range 1024).filter (c.active w)

/-- The first lane that fails a check (R352). -/
def Core.updTrap (c : Core) (q : VSeq) (w : VArgs) : Option (Byte × W64 × W64) :=
  (c.updLanes w).findSome? fun n =>
    let a := c.updAddr q w n
    (c.emitFault a.toNat [w.fmt.toNat]).map fun code =>
      (code, a, if code == trUpdType then
          BitVec.ofNat 64 (((c.emitSeg a.toNat).map (·.2.2)).getD 0) else BitVec.ofNat 64 n)

/-- The bytes of a pool entry (R349). -/
def poolEntry (addr port : Nat) (wide cont : Bool) (ord val : Nat) : Nat :=
  addr % 2 ^ 48 + (port + cond wide 4 0 + cond cont 8 0) * 2 ^ 48 + ord * 2 ^ 64 + val % 2 ^ 32 * 2 ^ 96

/-- Append one entry to the pool; its bytes are written in C's positions (R353). -/
def Core.poolPut (c : Core) (port e : Nat) : Core :=
  { c with
    emit := { c.emit with
      todo := c.emit.todo ++ [(poolOff (c.emit.oldest + c.emit.count), e)]
      count := c.emit.count + 1
      ports := vset c.emit.ports port (vget c.emit.ports port 0 + 1)
      written := c.emit.written + 1 } }

/-- Emit a lane's triple (R352). -/
def Core.emitLane (c : Core) (q : VSeq) (w : VArgs) (n : Nat) : Core :=
  let p := w.d.toNat % 4
  let a := (c.updAddr q w n).toNat
  let o := (c.opBits w.c w.sc n).toNat
  let v := (c.opBits w.b w.sb n).toNat
  if w.fmt == 4 then
    (c.poolPut p (poolEntry a p true false o v)).poolPut p
      (poolEntry 0 p false true 0 (c.opBits (w.b + 1) w.sb n).toNat)
  else c.poolPut p (poolEntry a p false false o v)

/-- The tiles that an UPD reads (R351). -/
def updTiles (w : VArgs) : List Reg4 := if w.fmt == 4 then [w.a, w.b, w.b + 1, w.c] else [w.a, w.b, w.c]

/-- A word of C that stalls without a limit until `ready` holds (R353); an UPD that is still writing its entries holds it at issue, and a
tile of it that a MACCR is still to write (R233). -/
def updStall (s : State) (i : Instr) (w : VArgs) (tiles : List Reg4) (trap : VSeq → Core → Option (Byte × W64 × W64)) (ready : Core → Bool)
    (f : VSeq → Core → Core) : Out :=
  onMach s fun k m =>
    let n := k.cur.val
    let q := k.curV
    let c := m.core n
    if !c.vGuard q w.g then m.setCore n (c.vNext q k.cyc 12)
    else if c.emitting .c || c.maccrPending tiles then m
    else match trap q c with
      | some (code, i0, i1) => m.takeTrap k k.cur ⟨code, vSource q, (c.vs q).pc, i0, i1⟩
      | none =>
        if ready c then m.setCore n ((f q c).vNext q k.cyc 12)
        else m.setCore n (c.setVs q { c.vs q with wait := some ((c.vs q).wait.getD ⟨i, k.cyc, none⟩) })

/-- UPD (R351-R353). -/
def execUpd (w : VArgs) (s : State) : Out :=
  updStall s (.upd w) w (updTiles w) (fun q c => c.updTrap q w)
    (fun c => decide (c.emit.count + (c.updLanes w).length * (cond (w.fmt == 4) 2 1) ≤ 2048))
    fun q c => (c.updLanes w).foldl (fun c n => c.emitLane q w n) c

/-- UPDF (R354). -/
def execUpdf (w : VArgs) (s : State) : Out :=
  updStall s (.updf w) w [] (fun _ _ => none) (fun c => vget c.emit.ports (w.d.toNat % 4) 0 == 0) fun _ c => c

/-! ## The drain unit (R350, R355) -/

/-- An entry as it stands in the pool. -/
structure PoolEntry where
  addr : Nat
  port : Nat
  wide : Bool
  cont : Bool
  rsv : Bool
  ord : Nat
  val : Nat
deriving DecidableEq, Repr

/-- The 16 bytes at a pool index. -/
def Core.poolRaw (c : Core) (i : Nat) : Nat := c.sp.rd (poolOff i) 16

/-- The fields of 16 bytes of the pool (R349). -/
def poolFields (e : Nat) : PoolEntry :=
  ⟨e % 2 ^ 48, e / 2 ^ 48 % 4, e.testBit 50, e.testBit 51, e / 2 ^ 52 % 16 == 0 && e / 2 ^ 56 % 256 == 0,
    e / 2 ^ 64 % 2 ^ 32, e / 2 ^ 96 % 2 ^ 32⟩

/-- Read the entry at a pool index. -/
def Core.poolAt (c : Core) (i : Nat) : PoolEntry := poolFields (c.poolRaw i)

/-- The continuation of a WIDE entry is well formed (R349, R350). -/
def contOk (e x : PoolEntry) : Bool := x.rsv && x.cont && !x.wide && x.port == e.port && x.addr == 0 && x.ord == 0

/-- What the drain unit makes of the entry `e` at pool index `i`, of `left` entries from there on: a triple, or the code of
the failure (R350). -/
def Core.drainEntry (c : Core) (g : Engine) (e : PoolEntry) (i left : Nat) : Except Byte Triple :=
  let x := c.poolAt (i + 1)
  if !e.rsv || e.cont then .error trUpdTarget
  else if e.wide && (decide (left < 2) || !contOk e x) then .error trUpdTarget
  else
    match c.emitFault e.addr (if e.wide then [4] else [0, 1]) with
    | some code => .error code
    | none =>
      .ok ⟨i, cond e.wide 2 1, e.port, g.emitPa e.addr, BitVec.ofNat 32 e.ord,
        BitVec.ofNat 64 (e.val + cond e.wide (x.val * 2 ^ 32) 0), e.wide, false, none⟩

/-- Entries that the drain unit has read and not freed. -/
def Drain.taken (d : Drain) : Nat := (d.flight.map (·.entries)).sum

/-- Triples in flight: sent and not accepted (R355). -/
def Drain.unaccepted (d : Drain) : Nat := (d.flight.filter fun t => !t.accepted).length

/-- Read entries until one fails, 64 triples are in flight, `n` of 256 entries have been read, the pool area ends, or none is left
whose bytes are written (R353); the continuation of a WIDE entry at the end of the area is read in the unit's next position.
The failing entry's index and code come with the triples. -/
def Core.drainRead (c : Core) (g : Engine) : Nat → Drain → Drain × Option (Nat × Byte)
  | 0, d => (d, none)
  | n + 1, d =>
    let left := c.emit.count - c.emit.todo.length - d.taken
    let i := (c.emit.oldest + d.taken) % 2048
    if left == 0 || decide (64 ≤ d.unaccepted) then (d, none)
    else
      let raw := d.half.getD (c.poolRaw i)
      let e := poolFields raw
      if i == 2047 && e.wide && e.rsv && !e.cont && d.half.isNone && decide (2 ≤ left) then ({ d with half := some raw }, none)
      else match c.drainEntry g e i left with
        | .error code => (d, some (i, code))
        | .ok t =>
          let d := { d with flight := d.flight ++ [t], half := none }
          if i == 2047 && !e.wide then (d, none) else c.drainRead g n d

/-- DRAIN_UNIT_TAKE (R350, R355), in a free position of the transfer engine: a failing entry ends the task once every triple
before it has been accepted; its status record's PC is C's next word (log entry 14). -/
def execDrainUnitTake (s : State) : Out :=
  onMach s fun k m =>
    let n := k.cur.val
    let c := m.core n
    let e := EngineId.core k.cur
    let g := m.engine e
    if !c.task.any (·.running) || g.drain.susp.isSome || !c.xferFree k.cyc then m
    else
      let (d, bad) := c.drainRead g 256 g.drain
      let m := (m.setEngine e { g with drain := d }).setCore n { c with pos := (k.cyc + 1, 0) }
      match bad with
      | some (i, code) =>
        if d.unaccepted == 0 then m.stopTask k k.cur ⟨code, 2, c.c.pc, BitVec.ofNat 64 (poolOff i), 0xFFFFFFFF⟩ true else m
      | none => m

/-! ## Acceptance, spill and early apply (R356-R359) -/

/-- The operators whose triples may be applied at any time (R345, R347). -/
def opInsensitive (op : Nat) : Bool := op != 3

/-- Apply every pending granule of a region. -/
def Mach.applyRegion (m : Mach) (nd rid : Nat) : Mach :=
  match (vget m.basins nd []).find? fun r => r.rid == rid with
  | none => m
  | some r => r.pendingGranules.foldl (fun m g =>
      match (vget m.basins nd []).find? fun r => r.rid == rid with
      | some r => m.applyGranule nd r g
      | none => m) m

/-- Pending triples that a bin SRAM holds (R357). -/
def binCapacity : Nat := 2097152

/-- The triples that the partitions below `p` may hold in a die's bin SRAM. -/
def binEdge (nd : Fin 8) : Nat → Nat
  | 0 => 0
  | p + 1 => min binCapacity (binEdge nd p + Config.binQuota nd p)

/-- The quota of a partition (R357): the quotas divide the bin SRAM. -/
def binShare (nd part : Nat) : Nat :=
  let d : Fin 8 := ⟨nd % 8, Nat.mod_lt _ (by decide)⟩
  binEdge d (part + 1) - binEdge d part

/-- Triples of a partition in a die's bin SRAM (R357). -/
def Mach.sramUsed (m : Mach) (nd part : Nat) : Nat :=
  ((vget m.basins nd []).map fun r => if r.part == part then r.pend.length else 0).sum

/-- The region of a partition with the most triples in SRAM (R357). -/
def Mach.largestRegion (m : Mach) (nd part : Nat) : Option Region :=
  (vget m.basins nd []).foldl (fun best r =>
    if r.part != part || r.pend.isEmpty then best
    else match best with
      | some b => if b.pend.length < r.pend.length then some r else best
      | none => some r) none

/-- Free bytes of a region's spill space (R357, R359). -/
def Region.spillFree (r : Region) : Nat := r.spLen - r.tableBytes + r.xlen - r.spillUsed

/-- What making room in a full quota comes to. -/
inductive Room where
  | made (m : Mach)
  | refused (r : Region)
  /-- the partition has no share of the bin SRAM: none of its triples is accepted (log entry 14) -/
  | none

/-- Make room for one more triple of a partition (R357, R359): nothing while the quota has room; else the largest region's
triples become a run, or are applied early, or the triple is refused. A partition without a share has no room. -/
def Mach.makeRoom (m : Mach) (nd part : Nat) : Room :=
  if m.sramUsed nd part < binShare nd part then .made m
  else match m.largestRegion nd part with
    | none => .none
    | some r =>
      if 64 + 24 * r.pend.length ≤ r.spillFree then
        let r' := { r with pend := [], runs := r.runs ++ [sortRecs r.pend] }
        .made ((m.setRegion nd r').layRuns r' 0 r'.runs)
      else if opInsensitive r.op then .made ((m.applyRegion nd r.rid).orStatus r 2)
      else .refused r

/-- The suspension record names a pool index. -/
def Drain.stoppedAt (d : Drain) (index : Nat) : Bool := d.susp.any fun u => u.ep == BitVec.ofNat 64 index

/-- Mark a triple of the flight accepted; a suspension that it caused has ended. -/
def Drain.accept (d : Drain) (index : Nat) : Drain :=
  { d with
    flight := d.flight.map fun t => if t.index == index then { t with accepted := true, refused := none } else t
    susp := if d.stoppedAt index then none else d.susp
    caps := d.caps.filter fun x => x.1 != index }

/-- Mark a triple of the flight refused for the space of a region (R359); the first one that is refused suspends the drain unit. -/
def Drain.refuse (d : Drain) (index : Nat) (u : Susp) (r : Region) : Drain :=
  { d with
    flight := d.flight.map fun t => if t.index == index then { t with refused := some (r.base, r.retries) } else t
    susp := some (d.susp.getD u)
    caps := d.caps.filter (fun x => x.1 != index) ++ [(index, r.base)] }

/-- A refused triple waits for an event that lets it be retried (R359). -/
def Mach.tripleWaits (m : Mach) (t : Triple) : Bool :=
  match t.refused with
  | none => false
  | some (base, k) => match m.regionAt base with
    | some (_, r) => r.retries == k
    | none => false

/-- Every triple in flight is accepted, or is refused or waits behind a refused one of its basin (R359, R368). -/
def Drain.settled (d : Drain) : Bool :=
  d.flight.all fun t => t.accepted || d.flight.any fun u => u.refused.isSome && u.pa / 2 ^ 48 == t.pa / 2 ^ 48

/-- Free the accepted triples at the front of the pool (R355). -/
def freePool : List Triple → EmitState → List Triple × EmitState
  | [], e => ([], e)
  | t :: ts, e =>
    if t.accepted then
      freePool ts { e with
        oldest := (e.oldest + t.entries) % 2048, count := e.count - t.entries, freed := e.freed + t.entries }
    else (t :: ts, e)

/-- The suspension record of a drain unit (R359). -/
def drainSusp (r : Region) (index : Nat) : Susp :=
  ⟨0x83, 3, 0, 3, 0xFFFFFFFF, BitVec.ofNat 64 index, BitVec.ofNat 64 r.base, BitVec.ofNat 64 r.spillUsed⟩

/-- Report the suspension of a core's drain unit (R271, R410). -/
def Mach.reportDrain (m : Mach) (n : Fin 320) (r : Region) : Mach :=
  m.reportMore 0x83 r.part (((m.core n.val).task.map (·.tid)).getD 0) (BitVec.ofNat 64 r.base) ⟨(m.engine (.core n)).asid, 0, 3⟩

/-- A drain unit whose suspension has ended suspends again for another triple of its flight that is refused (R359). -/
def Mach.nextRefused (m : Mach) (n : Fin 320) : Mach :=
  let e := EngineId.core n
  let g := m.engine e
  if g.drain.susp.isSome then m
  else match g.drain.flight.findSome? fun t => t.refused.bind fun x => (m.regionAt x.1).map fun r => (t.index, r.2) with
    | none => m
    | some (i, r) => (m.setEngine e { g with drain := { g.drain with susp := some (drainSusp r i) } }).reportDrain n r

/-- A core's triple has been accepted (R354, R355). -/
def Mach.acceptedAt (m : Mach) (n : Fin 320) (t : Triple) : Mach :=
  let e := EngineId.core n
  let g := m.engine e
  let c := m.core n.val
  let (fl, em) := freePool (g.drain.accept t.index).flight
    { c.emit with ports := vset c.emit.ports t.port (vget c.emit.ports t.port 0 - t.entries) }
  let m := (m.setEngine e { g with drain := { g.drain.accept t.index with flight := fl } }).setCore n.val ({ c with emit := em }).notReplayable
  m.nextRefused n

/-- Clear CAPWAIT of a region (R359). -/
def Mach.clearCapwait (m : Mach) (r : Region) : Mach :=
  let key := r.descAt + 0x38
  let v := m.rd key 8
  m.wr key 8 (if v.testBit 3 then v - 8 else v)

/-- A region no longer asks for a spill extension. -/
def Mach.askDone (m : Mach) (base : Nat) : Mach := { m with capAsks := m.capAsks.filter fun x => x.2 != base }

/-- The first retry of a refused triple that is accepted clears the CAPWAIT that its refusal set (R359). -/
def Mach.retried (m : Mach) (n : Fin 320) (index : Nat) : Mach :=
  match (m.engine (.core n)).drain.caps.find? fun x => x.1 == index with
  | none => m
  | some (_, base) =>
    let m := m.askDone base
    match m.regionAt base with
    | some (_, r) => m.clearCapwait r
    | none => m

/-- A region's drain unit asks for an extension (R359). -/
def Mach.askExtension (m : Mach) (r : Region) : Mach :=
  if m.capAsks.any fun x => x.2 == r.base then m else { m with capAsks := m.capAsks ++ [(r.part, r.base)] }

/-- A basin takes a triple of a core's flight (R356, R357, R359). -/
def Mach.basinAccept (m : Mach) (n : Fin 320) (t : Triple) : Mach :=
  match m.regionAt t.pa with
  | none => m
  | some (nd, r0) =>
    match m.makeRoom nd r0.part with
    | .none => m
    | .refused r =>
      let e := EngineId.core n
      let g := m.engine e
      let m := ((m.setEngine e { g with drain := g.drain.refuse t.index (drainSusp r t.index) r }).orStatus r 8).askExtension r
      if g.drain.susp.isSome then m else m.reportDrain n r
    | .made m1 =>
      match m1.regionAt t.pa with
      | none => m1
      | some (nd, r) =>
        let m1 := m1.setRegion nd { r with pend := r.pend ++ [⟨t.pa - r.base, t.ord, t.wide, t.val⟩] }
        (m1.retried n t.index).acceptedAt n t

/-- What a basin does by itself waits, when it writes a descriptor that lies in a scratchpad, for a free position of that core (R24,
R26). -/
def Mach.inPositions (m : Mach) (cyc nd : Nat) (m' : Mach) : Mach :=
  let keys := (vget m.basins nd []).filterMap fun r =>
    if isSp r.descAt && m'.rd (r.descAt + 0x28) 24 != m.rd (r.descAt + 0x28) 24 then some (r.descAt + 0x38) else none
  if keys.all (m.placeFree cyc) then keys.foldl (fun m key => m.takeFree cyc key) m' else m

/-- A core has a triple at the port of a basin, of a partition: the first of its flight that the basin has not accepted, when it does not
wait for a retry event. -/
def Mach.basinWaits (m : Mach) (n nd part : Nat) : Bool :=
  (m.core n).task.any (fun b => b.part.toNat == part) &&
    (match (vget m.engines n Engine.init).drain.flight.find? fun t => !t.accepted && t.pa / 2 ^ 48 == nd with
    | some t => !m.tripleWaits t
    | none => false)

/-- The core whose drain unit a basin served last of a partition. -/
def Mach.lastServed (m : Mach) (nd part : Nat) : Nat :=
  ((m.basinTurns.find? fun x => x.1 == nd && x.2.1 == part).map (·.2.2)).getD 319

/-- The port of a basin serves a core's triple next: the clock is its partition's, and of the partition's drain units that wait its own
comes first after the one that was served last (R356; log entry 17). -/
def Mach.basinServes (m : Mach) (cyc n nd : Nat) : Bool :=
  match (m.core n).task with
  | none => true
  | some b =>
    let part := b.part.toNat
    let last := m.lastServed nd part
    m.slotServes 2 nd part cyc && ((List.range 320).find? fun i => m.basinWaits ((last + 1 + i) % 320) nd part) == some ((n + 319 - last) % 320)

/-- A basin has served a core's drain unit. -/
def Mach.noteServed (m : Mach) (n nd : Nat) : Mach :=
  match (m.core n).task with
  | none => m
  | some b =>
    let part := b.part.toNat
    { m with basinTurns := (nd, part, n) :: m.basinTurns.filter fun x => !(x.1 == nd && x.2.1 == part) }

/-- The number of a triple's entry among all that the core's C has written to the pool. -/
def Core.entryNo (c : Core) (t : Triple) : Nat := c.emit.freed + (t.index + 2048 - c.emit.oldest) % 2048

/-- A posted write that happens before a triple's UPD, and reaches a byte of its element, has not been performed (R109, R111). -/
def Mach.tripleHeld (m : Mach) (n : Fin 320) (t : Triple) (r : Region) : Bool :=
  let no := (m.core n.val).entryNo t
  (m.engine (.core n)).posts.any fun p => p.done.any (fun w => decide (w ≤ no)) && partsMeet p.parts [(t.pa, updBytes r.op)]

/-- BASIN_ACCEPT (R355, R356, R359): `k` counts the basin's triple in the flight; triples to one basin are presented in
pool order, so that behind a refused one none is. -/
def execBasinAccept (s : State) : Out :=
  onMach s fun k m =>
    let d := (m.engine (.core k.cur)).drain
    match d.flight[k.occ.k]? with
    | none => m
    | some t =>
      let nd := t.pa / 2 ^ 48
      let earlier := (d.flight.take k.occ.k).any fun x => !x.accepted && x.pa / 2 ^ 48 == nd
      let held := (m.regionAt t.pa).any fun r => m.tripleHeld k.cur t r.2
      if t.accepted || earlier || m.tripleWaits t || held || !m.basinServes k.cyc k.cur.val nd then m
      else m.inPositions k.cyc nd ((m.basinAccept k.cur t).noteServed k.cur.val nd)

/-! ## Spill extensions (R359) -/

/-- Free space of a partition's spill reserve for `n` bytes: the lowest base that overlaps no extension. -/
def Mach.reserveFind (m : Mach) (part n : Nat) : Option Nat :=
  match (vget m.parts part Partition.init).conf with
  | none => none
  | some f =>
    let used := m.reserve.filter fun x => x.1 == part
    if f.rsvBase == 0 then none
    else (f.rsvBase :: used.map fun x => x.2.2.1 + x.2.2.2).find? fun b =>
      decide (f.rsvBase ≤ b) && decide (b + n ≤ f.rsvBase + f.rsvLen) &&
        used.all fun x => decide (b + n ≤ x.2.2.1) || decide (x.2.2.1 + x.2.2.2 ≤ b)

/-- The region that a drain unit waits for: core `cur`'s, or that of the saved task `tid` (R275). -/
def Mach.drainWaits (m : Mach) (k : Ctl) : Option Nat :=
  match (m.engine (.core k.cur)).drain.susp with
  | some u => if u.cause == 0x83 then some u.va.toNat else none
  | none => (m.taskOf k.occ.tid).bind fun t => (t.waitDoorbell.find? fun w => w.1 == 512).map (·.2)

/-- The cause of the saved tasks that wait for a region's extension is cleared (R272, R275). -/
def Mach.extensionArrived (m : Mach) (base : Nat) : Mach :=
  { m with tasks := m.tasks.map fun t => { t with waitDoorbell := t.waitDoorbell.filter fun w => w != (512, base) } }

/-- The partition's first region that asks for an extension that its reserve can give (R359). -/
def Mach.nextAsk (m : Mach) (part : Nat) : Option Nat :=
  (m.capAsks.find? fun x => x.1 == part && (match m.regionAt x.2 with
    | some (_, r) => r.xlen == 0 && (m.reserveFind part r.spLen).isSome
    | none => false)).map (·.2)

/-- SPILL_EXTENSION_LINK (R359): the lock-keeper links one extension of SPLEN bytes for the region a drain unit waits
for, in the order of the suspensions. -/
def execSpillExtensionLink (s : State) : Out :=
  onMach s fun k m =>
    match m.drainWaits k with
    | none => m
    | some va =>
      match m.regionAt va with
      | none => m
      | some (nd, r) =>
        if r.xlen != 0 || m.nextAsk r.part != some r.base then m
        else match m.reserveFind r.part r.spLen with
          | none => m
          | some b =>
            let m1 := { m with reserve := m.reserve ++ [(r.part, r.base, b, r.spLen)] }
            let m1 := (m1.wr (r.descAt + 0x28) 8 b).wr (r.descAt + 0x30) 8 r.spLen
            let r' := { r with xspill := b, xlen := r.spLen, retries := r.retries + 1 }
            m.inPositions k.cyc nd ((((m1.setRegion nd r').orStatus r 4).extensionArrived r.base).askDone r.base)

/-! ## Applies of the basin (R360) -/

/-- A region of a die by its number. -/
def Mach.regionOf (m : Mach) (nd rid : Nat) : Option Region := (vget m.basins nd []).find? fun r => r.rid == rid

/-- GRANULE_SWEEP (R360): the sweep's next granule, in ascending address. -/
def execGranuleSweep (s : State) : Out :=
  onMach s fun k m =>
    match m.regionOf k.occ.nd.val k.occ.rid with
    | none => m
    | some r =>
      match r.sweep with
      | [] => m
      | g :: _ => m.inPositions k.cyc k.occ.nd.val (m.applyGranule k.occ.nd.val r g)

/-- BASIN_CHOSEN_APPLY (R347, R360): insensitive operators only, at a granule with pending triples. -/
def execBasinChosenApply (s : State) : Out :=
  onMach s fun k m =>
    match m.regionOf k.occ.nd.val k.occ.rid with
    | none => m
    | some r =>
      if opInsensitive r.op && r.pendingGranules.contains k.occ.granule then
        m.inPositions k.cyc k.occ.nd.val (m.applyGranule k.occ.nd.val r k.occ.granule)
      else m

end Sys2Proof.Machine
end

