-- ==== Sys2Proof/Machine/Bind.lean ====
section
/-!
DEFINITION. Machine/Bind.lean: what dispatch does with a bind record (R32 stage 5, R133, R396): the segment table (R259, R260,
R348), the copies, fills and preloads, the arguments, the start; the restoration of a frame (R141); the fast path (R398).
-/

namespace Sys2Proof.Machine

/-- Why a bind goes no further (R133): a page fault, which suspends it, a page that is being moved or a position, for which it waits
(R26, R377), or a fault, which ends the task. -/
inductive BindStop where
  | page (va level sub : Nat)
  | wait
  | fault (code : Byte) (info0 : W64)
deriving DecidableEq, Repr

/-- A bind's steps: the machine after them, with how far the bind has come, or the machine at the step that stopped, and why. -/
abbrev BindRes := Except (Mach × BindRun × BindStop) (Mach × BindRun)

/-- The stop of a read of `n` bytes at an address: of an access across two pages, at the page that faults. -/
def Mach.bindStop (m : Mach) (A : Access) (k : AccKind) (a : W64) (n : Nat) : Xl → BindStop
  | .page l u =>
    let room := 0x10000 - a.toNat % 0x10000
    let inFirst := match m.resolve A k a (min room n) with
      | .ok _ => false
      | _ => true
    .page (if inFirst then a.toNat else a.toNat + room) l u
  | .miss _ => .wait
  | .fault c => .fault c (if c == trUndeclared then Config.bindUndeclared a else a)
  | .ok _ => .fault 0 a

/-! ## The segment table (R259, R260, R348) -/

/-- The fields of a segment-table entry (R259, R260, R262, R381). -/
def Mach.segFieldsOk (m : Mach) (g : Seg) : Bool :=
  let u := g.rights.getLsbD 3
  g.vbase % 2 ^ 16 == 0 && g.vlen % 2 ^ 16 == 0 && decide (2 ^ 16 ≤ g.vlen) && decide (g.vbase + g.vlen ≤ 2 ^ 47) &&
    decide (g.rights.toNat < 16) && decide (g.cls.toNat < 32) && g.rsv && decide (g.cl ≤ 5) &&
    (!g.pageable || (g.phys == 0 && decide (g.cl ≤ 3))) && (g.cl != 2 || g.pageable) &&
    decide (g.phys.toNat < (if g.cl == 5 then 2 ^ 60 else 2 ^ 52)) && (u || g.uop == 0) && decide (g.uop.toNat ≤ 13) &&
    (g.pageable || g.cl == 5 || m.dockArea.all fun d => !overlapsAt d (g.phys.toNat, g.vlen))
where
  /-- two ranges share a byte -/
  overlapsAt (a b : Nat × Nat) : Bool := decide (a.1 < b.1 + b.2) && decide (b.1 < a.1 + a.2)

/-- A segment with U lies inside one region of its operator and its task's partition (R348). -/
def Mach.segUpdateOk (m : Mach) (part : Nat) (g : Seg) : Bool :=
  !g.rights.getLsbD 3 || (g.cl == 0 && !g.pageable && g.sync && (match m.regionAt g.phys.toNat with
    | some (_, r) => decide (g.phys.toNat + g.vlen ≤ r.base + r.len) && r.op == g.uop.toNat && r.part == part
    | none => false))

/-- Two segments overlap. -/
def Seg.meets (a b : Seg) : Bool := decide (a.vbase < b.vbase + b.vlen) && decide (b.vbase < a.vbase + a.vlen)

/-- The first failing entry (R260): each is checked alone and against those before it. -/
def Mach.badSeg (m : Mach) (part : Nat) (segs : List Seg) : Option Nat :=
  (segs.zipIdx.find? fun p =>
    !m.segFieldsOk p.1 || !m.segUpdateOk part p.1 || (segs.take p.2).any p.1.meets).map (·.2)

/-- A version of a declaration lies wholly inside a segment. -/
def Seg.holdsDecl (g : Seg) (d : Decl) : Bool :=
  !g.sync && decide (g.vbase ≤ d.base.toNat) && decide (d.base.toNat + d.extent ≤ g.vbase + g.vlen)

/-- The first declaration that does not lie, in all its versions, inside one task-scoped segment (R260): RD0-RD7 are
0-7, WR0-WR7 are 8-15. -/
def badDecl (segs : List Seg) (x : Ext) : Option Nat :=
  let ok (d : Decl) : Bool := segs.any fun g => d.versions.all g.holdsDecl
  let all : List (Decl × Nat) := x.rds.zipIdx ++ x.wrs.zipIdx 8
  all.findSome? fun p => if ok p.1 then none else some p.2

/-- Read the next `n` entries of a segment table through the system translation (R432). -/
def Mach.readSegs (m : Mach) (cyc : Nat) (A : Access) (tab : W64) : Nat → BindRun → BindRes
  | 0, r => .ok (m, r)
  | n + 1, r =>
    let a := tab + BitVec.ofNat 64 (32 * r.segs.length)
    if m.accessHeld cyc A .read a 32 then .error (m, r, .wait)
    else
      let ps := m.accessPlaces A .read a 32
      match m.readAt A .read a 32 with
      | (m, .error x) => .error (m, r, m.bindStop A .read a 32 x)
      | (m, .ok v) => (m.takeFrees cyc ps).readSegs cyc A tab n { r with segs := r.segs ++ [Seg.parse v] }

/-- Load and check a task's segment table (R260). -/
def Mach.loadSegs (m : Mach) (cyc : Nat) (b : Bound) (r : BindRun) : BindRes :=
  match m.readSegs cyc (Access.system b.asid.toNat b.part.toNat) b.desc.segTab (b.desc.segCnt - r.segs.length) r with
  | .error e => .error e
  | .ok (m, r) =>
    match m.badSeg b.part.toNat r.segs with
    | some i => .error (m, r, .fault trAccess (BitVec.ofNat 64 i))
    | none =>
      match badDecl r.segs b.ext with
      | some i => .error (m, r, .fault trAccess (BitVec.ofNat 64 (0x100 + i)))
      | none => .ok (m, r)

/-! ## Copies (R131, R133) -/

/-- Copy the next `n` pieces of 64 bytes from a virtual address into cells, `i` being copied; an address outside window 0 lies in no
segment (R261). What is copied when a piece stops comes with the stop. -/
def Mach.copyIn (m : Mach) (A : Access) (k : AccKind) (a : Nat) (dst : Cells) (off i : Nat) :
    Nat → Mach × Cells × Nat × Option BindStop
  | 0 => (m, dst, i, none)
  | n + 1 =>
    let at0 := a + 64 * i
    if 2 ^ 47 ≤ at0 then (m, dst, i, some (.fault trAccess (BitVec.ofNat 64 at0)))
    else match m.readAt A k (BitVec.ofNat 64 at0) 64 with
      | (m, .error x) => (m, dst, i, some (m.bindStop A k (BitVec.ofNat 64 at0) 64 x))
      | (m, .ok v) => m.copyIn A k a (dst.wr (off + 64 * i) 64 v) off (i + 1) n

/-- The task's own translation at bind. -/
def bindAccess (b : Bound) (segs : List Seg) (n : Nat) : Access :=
  { eng := none, asid := b.asid.toNat, segs := segs, part := b.part.toNat, own := some n, anyPart := false, bound := some b, sys := false }

/-- Write a discardable region with its FILL repeated. -/
def fillWords (sp : Cells) (off : Nat) (fill : W32) : Nat → Cells
  | 0 => sp
  | n + 1 => fillWords (sp.wr off 4 fill.toNat) (off + 4) fill n

/-- The discard fills (R133 step 4). -/
def Core.discards (c : Core) (x : Ext) : Core :=
  { c with sp := x.discs.foldl (fun sp d => fillWords sp d.spOff d.fill (d.len / 4)) c.sp }

/-- The CSRs of the object table, which every bind writes from the partition's configuration (R96, R146; log entry 35). -/
def Mach.objectCsrs (m : Mach) (n part : Nat) : Mach :=
  let c := m.core n
  let f := (m.partition part).conf
  m.setCore n { c with
    otbase := BitVec.ofNat 22 ((f.map (·.otBase)).getD 0)
    otlen := BitVec.ofNat 16 ((f.map (·.otLen)).getD 0) }

/-- The object table (R96): its CSRs, and its copy when OTSRC names an image. -/
def Mach.objectTable (m : Mach) (n part : Nat) : Mach :=
  let m := m.objectCsrs n part
  match (m.partition part).conf with
  | none => m
  | some f =>
    if f.otSrc == 0 then m
    else
      let c := m.core n
      m.setCore n { c with sp := c.sp.wr f.otBase (256 * f.otLen) (m.rd f.otSrc (256 * f.otLen)) }

/-- The source of a preload, SRC to SRC + LEN (R131): in window 0 and in one segment that grants R; in a task-scoped segment within one
declared set as well. The code of the check that fails. -/
def Mach.preloadFault (m : Mach) (b : Bound) (segs : List Seg) (p : Preload) : Option Byte :=
  let a := p.src.toNat
  if p.len == 0 then none
  else match segAt segs a with
    | none => some trAccess
    | some g =>
      if g.vbase + g.vlen < a + p.len then some trAccess
      else match rightsFault g .read with
        | some code => some code
        | none => if !g.sync && (m.declared b .read a p.len).isNone then some trUndeclared else none

/-- The preloads that are left, in ascending index (R131, R133 step 5). -/
def Mach.preloads (m : Mach) (b : Bound) (A : Access) (n : Nat) (r : BindRun) : List Preload → BindRes
  | [] => .ok (m, r)
  | p :: ps =>
    match m.preloadFault b A.segs p with
    | some code => .error (m, r, .fault code (if code == trUndeclared then Config.bindUndeclared p.src else p.src))
    | none =>
      match m.copyIn A .read p.src.toNat (m.core n).sp p.spOff r.prePieces (p.len / 64 - r.prePieces) with
      | (m, sp, i, x) =>
        let m := m.setCore n { m.core n with sp := sp }
        match x with
        | some stop => .error (m, { r with prePieces := i }, stop)
        | none => m.preloads b A n { r with pres := r.pres + 1, prePieces := 0 } ps

/-! ## The core and the engine at bind -/

/-- A core's registers at bind (R133 step 6, R134): arguments in s1-s8, each stream at its entry, everything else of the
task zero. -/
def Core.start (c : Core) (b : Bound) (n cyc : Nat) : Core :=
  let at0 (ent : Nat) : VState := { VState.init with pc := BitVec.ofNat 32 (4 * ent), ready := cyc + 1 }
  { Core.init 0 with
    phys := c.phys
    released := c.released
    task := some b
    coreNo := BitVec.ofNat 9 n
    warm := c.warm
    x := { XState.init with
      pc := BitVec.ofNat 32 (4 * b.desc.entX)
      ready := cyc + 1
      s := tab 32 fun i => if i == 0 then 0 else (b.desc.args[i - 1]?).getD 0 }
    l := at0 b.desc.entL
    c := at0 b.desc.entC
    s := at0 b.desc.entS
    mat := { MatEng.init with lastBusy := c.mat.lastBusy }
    otbase := c.otbase
    otlen := c.otlen
    sp := c.sp
    istore := c.istore }

/-- The engine at bind (R255, R256): contexts free, the store and the segment cache loaded. -/
def Engine.bound (g : Engine) (b : Bound) (segs : List Seg) (pstore : Cells) : Engine :=
  { g with
    ctxs := tab 4 fun _ => Ctx.init
    invq := if b.desc.entM == 0xFFFF then [] else [(BitVec.ofNat 13 b.desc.entM, 0)]
    pstore := pstore
    plen := b.desc.codeLen - b.desc.moveOff
    segs := segs
    asid := b.asid.toNat
    drain := Drain.init }

/-- The emit check table of a segment table (R348). -/
def emitTable (segs : List Seg) : List (Nat × Nat × Nat) :=
  (segs.filter fun g => g.rights.getLsbD 3).map fun g => (g.vbase, g.vlen, g.uop.toNat)

/-- What a task takes with it to a core (R133, R142, R396). -/
def Task.bound (t : Task) (tick0 : Nat) : Bound where
  tid := t.tid
  desc := t.desc
  ext := t.ext
  part := BitVec.ofNat 6 t.part
  asid := BitVec.ofNat 9 t.asid
  depth := BitVec.ofNat 5 t.depth
  priv := t.priv
  vers := t.vers
  tick0 := tick0
  running := true
  vstop := false
  doneIssued := false
  stop := none
  replayable := t.ext.wrs.all fun w => decide (1 ≤ w.nren) || t.ext.rds.all fun r => !w.clash r

/-- Copy the code and the move program (R133 steps 1 and 2) with X rights. -/
def Mach.copyCode (m : Mach) (n : Nat) (b : Bound) (r : BindRun) : BindRes :=
  match m.copyIn (bindAccess b r.segs n) .exec b.desc.codeBase.toNat r.image 0 r.pieces (b.desc.codeLen / 64 - r.pieces) with
  | (m, image, i, x) =>
    let r := { r with image := image, pieces := i }
    match x with
    | some stop => .error (m, r, stop)
    | none => .ok (m, r)

/-- Steps 1-3 of R133: the segment table, the code and the move program, the segment cache. -/
def Mach.bindImage (m : Mach) (cyc : Nat) (n : Fin 320) (b : Bound) (r : BindRun) : BindRes :=
  let m := m.setCore n.val { m.core n.val with warm := none }
  match m.loadSegs cyc b r with
  | .error e => .error e
  | .ok (m, r) =>
    match m.copyCode n.val b r with
    | .error e => .error e
    | .ok (m, r) =>
      let e := EngineId.core n
      let code := r.image.filter fun p => decide (p.1 < b.desc.moveOff)
      let prog := (r.image.filter fun p => decide (b.desc.moveOff ≤ p.1)).map fun p => (p.1 - b.desc.moveOff, p.2)
      let m := m.setCore n.val { m.core n.val with istore := code, warm := some b.key }
      .ok (m.setEngine e ((m.engine e).bound b r.segs prog), r)

/-- The task starts (R134): the registers of R133 step 6, and the emit check table. -/
def Mach.startTask (m : Mach) (k : Ctl) (n : Fin 320) (b : Bound) : Mach :=
  m.setCore n.val { (m.core n.val).start b n.val k.cyc with emitTab := emitTable (m.engine (.core n)).segs }

/-- What precedes the preloads of a fresh bind (R133 steps 1-4), unless it is in place. -/
def Mach.bindLay (m : Mach) (cyc : Nat) (n : Fin 320) (b : Bound) (r : BindRun) : BindRes :=
  if r.laid then .ok (m, r)
  else match m.bindImage cyc n b r with
    | .error e => .error e
    | .ok (m, r) => .ok ((m.setCore n.val ((m.core n.val).discards b.ext)).objectTable n.val b.part.toNat, { r with laid := true })

/-- A fresh bind or a replay (R133), from where it stopped. -/
def Mach.bindFresh (m : Mach) (k : Ctl) (n : Fin 320) (b : Bound) (r : BindRun) : BindRes :=
  match m.bindLay k.cyc n b r with
  | .error e => .error e
  | .ok (m, r) =>
    match m.preloads b (bindAccess b (m.engine (.core n)).segs n.val) n.val r (b.ext.pres.drop r.pres) with
    | .error e => .error e
    | .ok (m, r) => .ok (m.startTask k n b, r)

/-! ## Frames (R141, R368, R400) -/

/-- A context as its frame holds it: a walk, a test or the reads of an element in progress are made again after the restoration
(R275). -/
def Ctx.saved (x : Ctx) : Ctx :=
  let x := { x with got := [], again := [] }
  match x.hold with
  | .walk _ _ => { x with hold := .none }
  | .test _ => { x with hold := .none, st := .running }
  | .extend _ => { x with hold := .none, st := .running }
  | _ => x

/-- A context as a bind restores it: one whose cause is cleared retries its element (R275). -/
def Ctx.restored (x : Ctx) : Ctx := if x.st == .suspended then { x with st := .running, susp := Susp.none } else x

/-- A drain unit as a bind restores it (R275, R368): it resumes from the oldest entry of the pool, whose triples go through the segment
cache again; those that a basin has accepted are not sent again. -/
def Core.resumeDrain (c : Core) (g : Engine) (d : Drain) : Drain :=
  let again (t : Triple) : Triple := match c.drainEntry g (c.poolAt t.index) t.index t.entries with
    | .ok u => u
    | .error _ => { t with refused := none }
  { d with susp := none, half := none, flight := d.flight.map fun t => if t.accepted then t else again t }

/-- A core as a bind restores it from a frame: the frame's registers, on this physical core, with the bind's image; the
record cache is empty (R95). -/
def Core.restored (c : Core) (f : Core) (b : Bound) (n cyc : Nat) : Core :=
  let at0 (v : VState) : VState := { v with ready := cyc + 1 }
  { f with
    phys := c.phys
    released := c.released
    warm := c.warm
    istore := c.istore
    cache := []
    coreNo := BitVec.ofNat 9 n
    x := { f.x with ready := cyc + 1 }
    l := at0 f.l
    c := at0 f.c
    s := at0 f.s
    mat := { f.mat with idle := true, lastBusy := cyc, run := f.mat.run.map fun r => { r with since := cyc } }
    task := some { b with
      vstop := ((f.task.map (·.vstop)).getD false)
      doneIssued := ((f.task.map (·.doneIssued)).getD false)
      replayable := ((f.task.map (·.replayable)).getD false) } }

/-- A restore (R396 KIND 1): steps 1-3 of R133, then the frame, with the object table's CSRs of the partition. -/
def Mach.bindRestore (m : Mach) (k : Ctl) (n : Fin 320) (b : Bound) (r : BindRun) (f : Frame) : BindRes :=
  match m.bindImage k.cyc n b r with
  | .error e => .error e
  | .ok (m, r) =>
    let e := EngineId.core n
    let g := m.engine e
    let c := { ((m.core n.val).restored f.core b n.val k.cyc).discards b.ext with emitTab := emitTable g.segs }
    let m := m.setEngine e { g with
      ctxs := f.ctxs.map Ctx.restored
      invq := f.invq
      drain := c.resumeDrain g f.drain }
    .ok ((m.setCore n.val c).objectCsrs n.val b.part.toNat, r)

/-! ## Dispatch -/

/-- What a bind that has been carried out changes for the lock-keeper (R386, R396): the task is BOUND, VALID is clear, its
frame is free. -/
def Mach.bindDone (m : Mach) (n : Nat) (t : Task) : Mach :=
  let m := m.mapTask t.tid fun u =>
    { u with st := .bound, frame := none, replay := false, waitDoorbell := [], fast := none, binds := u.binds + 1 }
  { m with
    slots := vset m.slots n { vget m.slots n BindRec.init with valid := false, waitVa := none, since := none, run := BindRun.init }
    frames := match t.frame with
      | some a => m.frames.filter fun f => f.1 != a
      | none => m.frames }

/-- A bind that has failed ends its task, once the status record and the increment can be made (R133, R139, R140), with tsrc 4 and X's
entry as the address (log entry 29). -/
def Mach.endBind (m : Mach) (k : Ctl) (n : Fin 320) (t : Task) (b : Bound) : Mach :=
  match (vget m.slots n.val BindRec.init).failed with
  | none => m
  | some (code, i0) =>
    if !m.mayEnd k.cyc n b then m
    else
      let m := { m with frames := match t.frame with
        | some a => m.frames.filter fun f => f.1 != a
        | none => m.frames }
      m.endTask k n.val b 2 ⟨code, 4, BitVec.ofNat 32 (4 * b.desc.entX), i0, 0, false⟩

/-- A bind that stops (R133): a page fault is reported and holds the core, and its read alone is made again; any other fault ends the
task before its first instruction. -/
def Mach.bindStopped (m : Mach) (k : Ctl) (n : Fin 320) (t : Task) (b : Bound) (run : BindRun) (x : BindStop) : Mach :=
  let r := { vget m.slots n.val BindRec.init with since := some b.tick0, run := run }
  let put (r : BindRec) : Mach := { m with slots := vset m.slots n.val r }
  match x with
  | .page va l u => (put { r with waitVa := some va }).reportMore trNotPresent t.part t.tid (BitVec.ofNat 64 va) ⟨t.asid, l, u⟩
  | .wait => put r
  | .fault code i0 => (put { r with failed := some (code, i0) }).endBind k n t b

/-- Carry out the bind record of a core. TICKS counts from the tick count that is reached here: a tick that falls in the very clock in
which dispatch begins is not counted (R140; DESIGN CHOICE, notes/assumptions/35.md). -/
def Mach.dispatch (m : Mach) (k : Ctl) (n : Fin 320) (r : BindRec) (t : Task) : Mach :=
  let b := t.bound (r.since.getD k.tick)
  if r.failed.isSome then m.endBind k n t b
  else
    let res := match r.kind.toNat, t.frame.bind fun a => (m.frames.find? fun f => f.1 == a).map (·.2) with
      | 1, some f => m.bindRestore k n b r.run f
      | _, _ => m.bindFresh k n b r.run
    match res with
    | .error (m, run, x) => m.bindStopped k n t b run x
    | .ok (m, _) =>
      let m := m.bindDone n.val t
      if r.kind == 1 then m else m.mapTask t.tid fun u => { u with replayAt := 0 }

/-- BIND_DISPATCH (R133, R396): the record of core `cur` is valid and its bind is not suspended. -/
def execBindDispatch (s : State) : Out :=
  onMach s fun k m =>
    let n := k.cur
    let r := vget m.slots n.val BindRec.init
    match m.taskOf r.tid with
    | none => m
    | some t => if r.valid && r.waitVa.isNone && (m.core n.val).task.isNone then m.dispatch k n r t else m

/-! ## Candidates (R393) and the fast path (R398) -/

/-- Bind on a warm core (R398): the code, move-program and segment-cache copies are skipped, the check of the task's declarations is
not (R260). -/
def Mach.bindFast (m : Mach) (k : Ctl) (n : Fin 320) (t : Task) : Mach :=
  let b := t.bound k.tick
  let e := EngineId.core n
  let g := m.engine e
  let m := m.unmoor t
  match badDecl g.segs t.ext with
  | some i =>
    let m := m.mapTask t.tid fun u => { u with fast := none, st := .binding }
    let m := { m with slots := vset m.slots n.val (BindRec.new t.tid t.descAddr 0 t.vers 0) }
    m.bindStopped k n t b BindRun.init (.fault trAccess (BitVec.ofNat 64 (0x100 + i)))
  | none =>
  let m := m.setEngine e (g.bound b g.segs g.pstore)
  let m := (m.objectTable n.val t.part).startTask k n b
  let r : BindRec := { BindRec.new t.tid t.descAddr 0 t.vers 0 with valid := false }
  { m with slots := vset m.slots n.val r }.bindDone n.val t

/-- FAST_PATH_BIND (R398): the task `tid` is bound on the core that its enqueue gave it; when that core has failed, or has been
invalidated, since, the task is left to selection. -/
def execFastPathBind (s : State) : Out :=
  onMach s fun k m =>
    match m.taskOf k.occ.tid with
    | none => m
    | some t =>
      match t.fast with
      | none => m
      | some (n, _) =>
        if h : n < 320 then
          if m.coreOpen n && m.isWarm t n then m.bindFast k ⟨n, h⟩ t else m.mapTask t.tid fun u => { u with fast := none }
        else m

end Sys2Proof.Machine
end

