-- ==== Sys2Proof/Machine/XSystem.lean ====
section
/-!
DEFINITION. Machine/XSystem.lean: X's control and status registers (R146-R150, R192), traps (R193, R194) and address
conversion (R100, R195).
-/

namespace Sys2Proof.Machine

/-! ## Control and status registers (R146, R192) -/

/-- The value of `tstat` (R138): HM, and PEND while a transfer fault is pending. -/
def tstat (c : Core) (g : Engine) : W64 := BitVec.ofNat 64 (cond c.trap.hm 1 0 + cond g.pendFault.isSome 2 0)

/-- The value a CSRR of an assigned address returns (R146, R150). -/
def csrRead (k : Ctl) (m : Mach) (a : BitVec 12) : W64 :=
  let c := m.core k.cur.val
  let ofTask (f : Bound → Nat) : W64 := match c.task with
    | some b => BitVec.ofNat 64 (f b)
    | none => 0
  match a.toNat with
  | 0x001 => c.x.fcr
  | 0x002 => c.x.fsr
  | 0x005 => BitVec.ofNat 64 c.x.lc
  | 0x006 => (c.x.p ||| 0x80#8).setWidth 64
  | 0x011 => c.csrFcrL
  | 0x012 => c.l.fsr
  | 0x021 => c.csrFcrC
  | 0x022 => c.c.fsr
  | 0x023 => c.csrSrkey
  | 0x024 => c.csrSridx.setWidth 64
  | 0x025 => (c.csrSridx >>> 64).setWidth 64
  | 0x031 => c.csrFcrS
  | 0x032 => c.s.fsr
  | 0x100 => ofTask (·.tid)
  | 0x101 => BitVec.ofNat 64 k.tick
  | 0x102 => BitVec.ofNat 64 k.cyc
  | 0x103 => BitVec.ofNat 64 m.ownPkg
  | 0x104 => c.coreNo.setWidth 64
  | 0x105 => c.tagr
  | 0x106 => ofTask (·.part.toNat)
  | 0x107 => ofTask (·.asid.toNat)
  | 0x108 => ofTask (·.depth.toNat)
  | 0x110 => c.trap.tcause.setWidth 64
  | 0x111 => c.trap.tsrc.setWidth 64
  | 0x112 => c.trap.tepc.setWidth 64
  | 0x113 => c.trap.tinfo0
  | 0x114 => c.trap.tinfo1
  | 0x115 => tstat c (m.engine (.core k.cur))
  | 0x800 => c.otbase.setWidth 64
  | 0x801 => c.otlen.setWidth 64
  | _ => 0

/-- Write a CSR's RW fields (R146-R150); a write to a read-only register changes nothing. -/
def csrWrite (c : Core) (a : BitVec 12) (v : W64) : Core :=
  match a.toNat with
  | 0x001 => { c with x := { c.x with fcr := writeFcr c.x.fcr v } }
  | 0x002 => { c with x := { c.x with fsr := writeFsr v } }
  | 0x006 => { c with x := { c.x with p := v.setWidth 8 ||| 0x80#8 } }
  | 0x011 =>
    let f := writeFcr c.csrFcrL v
    { c with csrFcrL := f }.qAppend 0 (.fcr f)
  | 0x012 => { c with l := { c.l with fsr := writeFsr v } }
  | 0x021 =>
    let f := writeFcr c.csrFcrC v
    { c with csrFcrC := f }.qAppend 1 (.fcr f)
  | 0x022 => { c with c := { c.c with fsr := writeFsr v } }
  | 0x023 => { c with csrSrkey := v }.qAppend 1 (.srkey v)
  | 0x024 => { c with csrSridx := c.csrSridx.extractLsb' 64 32 ++ v }.qAppend 1 (.sridxLo v)
  | 0x025 =>
    let h : W32 := v.setWidth 32
    { c with csrSridx := h ++ c.csrSridx.extractLsb' 0 64 }.qAppend 1 (.sridxHi h)
  | 0x031 =>
    let f := writeFcr c.csrFcrS v
    { c with csrFcrS := f }.qAppend 2 (.fcr f)
  | 0x032 => { c with s := { c.s with fsr := writeFsr v } }
  | 0x105 => { c with tagr := v }
  | 0x112 => { c with trap := { c.trap with tepc := v.setWidth 32 } }
  | 0x800 => { c with otbase := v.setWidth 22 }
  | 0x801 => { c with otlen := v.setWidth 16 }
  | _ => c

/-- CSRR and CSRW (R192): `f` gives the value to write from the old one and s[A], or none for CSRR. -/
def xCsr (s : State) (g : Guard) (d a : SReg) (csr : BitVec 12) (f : W64 → W64 → Option W64) : Out :=
  onMach s fun k m =>
    let n := k.cur.val
    let c := m.core n
    if !guardHolds g c.x.p then m.setCore n { c with x := c.x.next k.cyc 8 }
    else if [d, a].any c.x.busy then m
    else
      let old := csrRead k m csr
      let c := match f old (c.x.getS a) with
        | some v => csrWrite c csr v
        | none => c
      m.setCore n { c with x := (c.x.setS d old).next k.cyc 8 }

/-- CSRR (R192). -/
def execCsrr (g : Guard) (d : SReg) (csr : BitVec 12) (s : State) : Out := xCsr s g d 0 csr fun _ _ => none

/-- CSRW (R192). -/
def execCsrw (g : Guard) (d a : SReg) (csr : BitVec 12) (s : State) : Out := xCsr s g d a csr fun _ v => some v

/-- CSRW.SET (R192). -/
def execCsrwSet (g : Guard) (d a : SReg) (csr : BitVec 12) (s : State) : Out := xCsr s g d a csr fun o v => some (o ||| v)

/-- CSRW.CLR (R192). -/
def execCsrwClr (g : Guard) (d a : SReg) (csr : BitVec 12) (s : State) : Out :=
  xCsr s g d a csr fun o v => some (o &&& ~~~v)

/-! ## Traps (R193, R194) -/

/-- TRAP (R193). -/
def execTrap (g : Guard) (code : Byte) (s : State) : Out :=
  xTry s 4 g [] fun _ _ => .trap trSoftware (code.setWidth 64) 0

/-- TRET (R138, R194): outside handler mode it is an illegal word. -/
def execTret (g : Guard) (s : State) : Out :=
  onMach s fun k m =>
    let n := k.cur.val
    let c := m.core n
    if !guardHolds g c.x.p then m.setCore n { c with x := c.x.next k.cyc 4 }
    else if c.trap.hm then m.trapReturn k k.cur
    else
      m.takeTrap k k.cur ⟨trIllegal, 0, c.x.pc, BitVec.ofNat 64 (((encode (.tret g)).map (·.2)).getD 0), c.x.pc.setWidth 64⟩

/-! ## Address conversion (R100, R195) -/

/-- An own-window address as a global one, naming this package and this core (R100); all ones for any other input. -/
def toGlobal (m : Mach) (n : Nat) (a : W64) : W64 :=
  if windowCode a == 1 then
    BitVec.ofNat 64 (0xFE * 2 ^ 56 + m.ownPkg * 2 ^ 32 + n / 40 * 2 ^ 28 + n % 40 * 2 ^ 22 + a.toNat % 2 ^ 22)
  else BitVec.allOnes 64

/-- A global address that names the issuing core as an own-window one (R100); all ones for any other input. -/
def toOwn (m : Mach) (n : Nat) (a : W64) : W64 :=
  if a.toNat / 2 ^ 40 == 0xFE0000 && (gPkg a == 0xFF || gPkg a == m.ownPkg) && gDie a == n / 40 && gCore a == n % 40 then
    BitVec.ofNat 64 (0xFF * 2 ^ 56 + gOff a)
  else BitVec.allOnes 64

/-- A word that computes a register from an address and the machine (R195). -/
def xAddr (s : State) (g : Guard) (d a : SReg) (f : Mach → Nat → W64 → W64) : Out :=
  onMach s fun k m =>
    let n := k.cur.val
    let c := m.core n
    if !guardHolds g c.x.p then m.setCore n { c with x := c.x.next k.cyc 4 }
    else if [d, a].any c.x.busy then m
    else m.setCore n { c with x := (c.x.setS d (f m n (c.x.getS a))).next k.cyc 4 }

/-- APCVT.GLOB (R100, R195). -/
def execApcvtGlob (g : Guard) (d a : SReg) (s : State) : Out := xAddr s g d a toGlobal

/-- APCVT.OWN (R100, R195). -/
def execApcvtOwn (g : Guard) (d a : SReg) (s : State) : Out := xAddr s g d a toOwn

/-- APTST (R100, R195): the window code. -/
def execAptst (g : Guard) (d a : SReg) (s : State) : Out :=
  xAddr s g d a fun m _ v => BitVec.ofNat 64 (m.window v)

end Sys2Proof.Machine
end

