-- ==== Sys2Proof/Machine/Fibres.lean ====
section
/-!
DEFINITION. Machine/Fibres.lean: L's fibres (R90, R215-R219).
-/

namespace Sys2Proof.Machine

/-- A fibre register of L. -/
def Core.fibre (c : Core) (n : Nat) : Option Fibre := vget c.f n none

/-- Write a fibre register. -/
def Core.setFibre (c : Core) (n : Nat) (x : Option Fibre) : Core := { c with f := vset c.f n x }

/-- The coordinate at a position (R90). -/
def FibDesc.coord (d : FibDesc) (sp : Cells) (p : Nat) : Nat := sp.rd (d.crds + 4 * p) 4

/-- The value bits at a position (R90). -/
def FibDesc.value (d : FibDesc) (sp : Cells) (p : Nat) : Nat := sp.rd (d.vals + p * (fmtBits d.fmt / 8)) (fmtBits d.fmt / 8)

/-- The first position from `p` on, among `n`, whose coordinate lies outside the data area, or breaks the order (R216). -/
inductive RowScan where
  | good
  | outside (p : Nat)
  | order (p coord : Nat)
deriving DecidableEq, Repr

/-- Read a row's coordinates in ascending position (R216). -/
def FibDesc.scan (d : FibDesc) (sp : Cells) : Nat → Option Nat → Nat → RowScan
  | 0, _, _ => .good
  | n + 1, prev, p =>
    if !inData ((d.crds + 4 * p : Nat) : Int) 4 then .outside p
    else
      let x := d.coord sp p
      let bad := decide (d.clim ≤ x) || (match prev with
        | some y => decide (x ≤ y)
        | none => false)
      if bad then
        -- every coordinate of the row is read, whatever the order (R216)
        match d.scan sp n (some x) (p + 1) with
        | .outside j => .outside j
        | _ => .order p x
      else d.scan sp n (some x) (p + 1)

/-- The coordinates of a row from position `b` up to `e` that lie in the data area: how many. -/
def FibDesc.crdsIn (d : FibDesc) (b e : Nat) : Nat := min (e - b) ((0x3E0000 - (d.crds + 4 * b)) / 4)

/-- The units that FOPEN reads (R216): the descriptor, the two row offsets, the row's coordinates in ascending position. -/
def fibUnits (sp : Cells) (o : Nat) : List Nat :=
  let d := FibDesc.parse (sp.rd o 32)
  let at0 := d.offs + 4 * d.row
  if !d.valid || !inData (at0 : Int) 8 then unitsOf o 32
  else unitsOf o 32 ++ unitsOf at0 8 ++
    (let b := sp.rd at0 4
     unitsOf (d.crds + 4 * b) (4 * d.crdsIn b (sp.rd (at0 + 4) 4)))

/-- FOPEN (R216). The position of a failing OFFS read is taken to be ROW or ROW + 1, and tinfo1 of its STREAM_BOUND the register's number
plus 8, as R217 has it (DESIGN CHOICE, notes/assumptions/35.md). -/
def execFopen (w : VArgs) (s : State) : Out :=
  vLoad s (.fopen w) 12 w.g ownPosition
    (fun k c =>
      let o := openOffset w k c
      if o.toNat % 4 != 0 || !inData (o.toNat : Int) 32 then some (trShapeInvalid, o, 0) else none)
    (fun k c => (fibUnits c.sp (openOffset w k c).toNat).eraseDups)
    fun k c =>
    let o := openOffset w k c
    let reg := BitVec.ofNat 64 (w.d.toNat + 8)
    let d := FibDesc.parse (c.sp.rd o.toNat 32)
    if !d.valid then .trap trShapeInvalid o 0
    else if !inData ((d.offs + 4 * d.row : Nat) : Int) 4 then .trap trStreamBound (BitVec.ofNat 64 d.row) reg
    else if !inData ((d.offs + 4 * (d.row + 1) : Nat) : Int) 4 then .trap trStreamBound (BitVec.ofNat 64 (d.row + 1)) reg
    else
      let b := c.sp.rd (d.offs + 4 * d.row) 4
      let e := c.sp.rd (d.offs + 4 * (d.row + 1)) 4
      if e < b then .ok (c.setFibre w.d.toNat (some (.row d b e b b (some e))))
      else
        match d.scan c.sp (e - b) none b with
        | .outside p => .trap trStreamBound (BitVec.ofNat 64 p) reg
        | .order p x => .ok (c.setFibre w.d.toNat (some (.row d b e b p (some x))))
        | .good => .ok (c.setFibre w.d.toNat (some (.row d b e b e none)))

/-- An entry of a fibre: its coordinate, and the descriptor and position of its value. -/
structure FibEntry where
  coord : Nat
  desc : FibDesc
  pos : Nat

/-- Merge two ascending entry lists on their coordinates (R219); `n` bounds the steps. -/
def mergeEntries : Nat → List FibEntry → List FibEntry → List FibEntry
  | 0, _, _ => []
  | _, [], _ => []
  | _, _, [] => []
  | n + 1, a :: as, b :: bs =>
    if a.coord == b.coord then a :: mergeEntries n as bs
    else if a.coord < b.coord then mergeEntries n as (b :: bs)
    else mergeEntries n (a :: as) bs

/-- The entries from the position to the stop (R215, R219). -/
def Fibre.entries (sp : Cells) : Fibre → List FibEntry
  | .row d _ _ p q _ => (List.range (q - p)).map fun i => ⟨d.coord sp (p + i), d, p + i⟩
  | .meet a b n =>
    let x := a.entries sp
    let y := b.entries sp
    (mergeEntries (x.length + y.length) x y).drop n

/-- The order flag's trap information: the position and the coordinate; none with the flag clear (R217, R219). -/
def Fibre.orderInfo : Fibre → Option (Nat × Nat)
  | .row _ _ _ _ q bad => bad.map fun x => (q, x)
  | .meet a b _ => match a.orderInfo with
    | some i => some i
    | none => b.orderInfo

/-- STREAM_CLOSED of a fibre: the register's number plus 8 (R217). -/
def fibClosed (n : Nat) : CoreRes := .trap trStreamClosed (BitVec.ofNat 64 (n + 8)) 0

/-- The units that hold the coordinates of a fibre from its position to its stop. -/
def Fibre.crdUnits : Fibre → List Nat
  | .row d _ _ p q _ => unitsOf (d.crds + 4 * p) (4 * (q - p))
  | .meet a b _ => a.crdUnits ++ b.crdUnits

/-- The units that finding the matches of an intersection takes; a row's positions need none. -/
def Core.matchUnits (c : Core) (n : Nat) : List Nat :=
  match c.fibre n with
  | some (.meet a b _) => (a.crdUnits ++ b.crdUnits).eraseDups
  | _ => []

/-- FADV (R217, R219). -/
def execFadv (w : VArgs) (s : State) : Out :=
  vLoad s (.fadv w) 12 w.g ownPosition (fun _ _ => none) (fun _ c => c.matchUnits w.d.toNat) fun _ c =>
    let d := w.d.toNat
    match c.fibre d with
    | none => fibClosed d
    | some x =>
      match x.orderInfo with
      | some (p, y) => .trap trFibreOrder (BitVec.ofNat 64 p) (BitVec.ofNat 64 y)
      | none =>
        let x' := match x with
          | .row ds b e p q bad => Fibre.row ds b e (min (p + w.imm.toNat) q) q bad
          | .meet a b n => .meet a b (n + min w.imm.toNat (x.entries c.sp).length)
        .ok (c.setFibre d (some x'))

/-- FEND (R217). -/
def execFend (w : VArgs) (s : State) : Out :=
  vLoad s (.fend w) 12 w.g ownPosition (fun _ _ => none) (fun _ c => c.matchUnits w.a.toNat) fun k c =>
    .ok (c.setVPred k.curV (w.d.extractLsb' 0 3) (match c.fibre w.a.toNat with
      | some (.row _ _ _ p q _) => decide (q ≤ p)
      | some (.meet a b n) => ((Fibre.meet a b n).entries c.sp).isEmpty
      | none => true))

/-- FCLOSE (R217). -/
def execFclose (w : VArgs) (s : State) : Out := vDo s 12 w.g fun _ c => c.setFibre w.d.toNat none

/-- FISECT (R219). -/
def execFisect (w : VArgs) (s : State) : Out :=
  vTry s 12 w.g fun _ c =>
    match c.fibre w.a.toNat, c.fibre w.b.toNat with
    | none, _ => fibClosed w.a.toNat
    | _, none => fibClosed w.b.toNat
    | some a, some b => .ok (c.setFibre w.d.toNat (some (.meet a b 0)))

/-- The bytes of an entry's value. -/
def FibEntry.valueAt (e : FibEntry) : Nat × Nat := (e.desc.vals + e.pos * (fmtBits e.desc.fmt / 8), fmtBits e.desc.fmt / 8)

/-- The entries that the lanes of FLDV take. -/
def Core.fibLanes (c : Core) (n : Nat) : List FibEntry :=
  match c.fibre n with
  | none => []
  | some x => (x.entries c.sp).take 1024

/-- The units that FLDV reads: what finding the entries takes, and their values in the data area. -/
def Core.valueUnits (c : Core) (n : Nat) : List Nat :=
  let of (e : FibEntry) : List Nat :=
    if inData (e.valueAt.1 : Int) e.valueAt.2 then unitsOf e.valueAt.1 e.valueAt.2 else []
  (c.matchUnits n ++ ((c.fibLanes n).map of).flatten).eraseDups

/-- FLDV (R218): values. Of a value outside the data area the spec says nothing: STREAM_BOUND, with the position and the register's number
plus 8 (DESIGN CHOICE, notes/assumptions/35.md). -/
def execFldv (w : VArgs) (s : State) : Out :=
  vLoad s (.fldv w) 12 w.g ownPosition (fun _ _ => none) (fun _ c => c.valueUnits w.a.toNat) fun _ c =>
    let n := w.a.toNat
    match c.fibre n with
    | none => fibClosed n
    | some x =>
      let es := (x.entries c.sp).take 1024
      match es.find? fun e => !inData (e.valueAt.1 : Int) e.valueAt.2 with
      | some e => .trap trStreamBound (BitVec.ofNat 64 e.pos) (BitVec.ofNat 64 (n + 8))
      | none =>
        let v : Tile := tab 1024 fun i => match es[i]? with
          | some e => (laneOf e.desc.fmt .rne (e.desc.value c.sp e.pos) 0 0).1
          | none => 0
        .ok (c.setTile w.d.toNat v)

/-- FLDV.CRD (R218): coordinates. -/
def execFldvCrd (w : VArgs) (s : State) : Out :=
  vLoad s (.fldvCrd w) 12 w.g ownPosition (fun _ _ => none)
    (fun _ c => ((c.fibre w.a.toNat).map fun x => x.crdUnits.eraseDups).getD []) fun _ c =>
    let n := w.a.toNat
    match c.fibre n with
    | none => fibClosed n
    | some x =>
      let es := (x.entries c.sp).take 1024
      .ok (c.setTile w.d.toNat (tab 1024 fun i => match es[i]? with
        | some e => BitVec.ofNat 32 e.coord
        | none => 0xFFFFFFFF))

end Sys2Proof.Machine
end

