-- ==== Sys2Proof/Machine/Matrix.lean ====
section
/-!
DEFINITION. Machine/Matrix.lean: the matrix words of C (R327-R341) and the events of the matrix engine.
-/

namespace Sys2Proof.Machine

/-! ## Issue -/

/-- The running word is still to write an accumulator (R331): a tile step that targets it is still to run, or its result is not yet
written. -/
def MRun.owes (r : MRun) (a : Nat) : Bool :=
  let w := r.entry.word.args
  r.entry.names a && (r.entry.steps == 0 || decide (r.step ≤ w.ks.toNat * (w.acn.toNat + 1) + (a - w.acc.toNat)) ||
    r.ends.any fun x => x.1 == a)

/-- A word of C is still to write a named accumulator (R233, R331). MACCR writes none. -/
def Core.accBusy (c : Core) (w : MArgs) : Bool :=
  (argAccs w).any fun a =>
    (c.mat.queue.any fun e => e.word.op != mopMaccr && e.names a) || (match c.mat.run with
      | some r => !r.entry.port && r.entry.word.op != mopMaccr && r.owes a
      | none => false)

/-- The queue of 2 behind the running word is full (R331). -/
def Core.matQueueFull (c : Core) : Bool := decide (2 ≤ c.mat.queue.length)

/-- The named accumulators that the port owns (R333), lowest first. -/
def Core.ownedOf (c : Core) (w : MArgs) : List Nat := (argAccs w).filter fun a => c.mat.owned.getLsbD a

/-- A wheel position of the matrix engine: 3 or 7 (R26). -/
def matPosition (cyc : Nat) : Bool := cyc % 4 == 3

/-- A matrix word of C but MWAIT (R233, R331, R333): a false guard passes it; a follow-owned accumulator holds it under the limit of
R333; `hold` is a timing stall; `reads` are the units that it reads while it holds C (R338); `pre` is a trap at issue; then it enters
the queue as `entry` says. -/
def matIssue (s : State) (i : Instr) (w : MArgs) (hold : Core → Bool) (reads : Core → List Nat) (pre : Core → Option (Byte × W64 × W64))
    (entry : Core → Nat → MEntry) : Out :=
  onMach s fun k m =>
    let n := k.cur.val
    let c := m.core n
    if !guardHolds w.g c.c.p then m.setCore n { c with c := c.c.next k.cyc 24 }
    else if !(c.ownedOf w).isEmpty || (c.c.wait.any fun x => x.expired k.cyc) then
      m.setCore n { c with c := { c.c with wait := some (c.c.wait.getD ⟨i, k.cyc, some 255⟩) } }
    else if c.accBusy w || c.matQueueFull || hold c then m
    else match c.loadStep .c i k.cyc (matPosition k.cyc) reads with
      | .wait c' => m.setCore n c'
      | .done view =>
        match pre view with
        | some (code, i0, i1) => m.takeTrap k k.cur ⟨code, 2, c.c.pc, i0, i1⟩
        | none => m.setCore n { c with
            pos := view.pos
            mat := { c.mat with queue := c.mat.queue ++ [entry view k.cyc] }
            c := c.c.next k.cyc 24 }

/-- ILLEGAL_ENCODING of a word at issue (R37, R135). -/
def illegalAt (i : Instr) (pc : W32) : Byte × W64 × W64 :=
  (trIllegal, BitVec.ofNat 64 (((encode i).map (·.2)).getD 0), pc.setWidth 64)

/-- A queue entry of a word that captures lanes. -/
def plainEntry (op : BitVec 6) (w : MArgs) (cyc : Nat) (cap : List W32) : MEntry :=
  { (default : MEntry) with word := ⟨op, w⟩, port := false, arrived := cyc, cap := cap }

/-- Nothing holds a matrix word. -/
def noHold : Core → Bool := fun _ => false

/-- The word reads no scratchpad at issue. -/
def noReads : Core → List Nat := fun _ => []

/-- No trap at issue. -/
def noTrap : Core → Option (Byte × W64 × W64) := fun _ => none

/-- The formats of the buffers that a buffer-mode MMA names (R328): A's, and the B buffers'. -/
def Core.bufFormats (c : Core) (w : MArgs) : BitVec 4 × List (BitVec 4) :=
  ((vget c.oa (w.opsAt 0 2) OpBuf.init).fmt,
    (List.range (w.acn.toNat + 1)).map fun i => (vget c.ob (w.opsAt (2 + 2 * i) 2) OpBuf.init).fmt)

/-- MMA in buffer mode (R327, R328, R336): the pair of each accumulator is checked and fixed at issue. -/
def execMma (w : MArgs) (s : State) : Out :=
  matIssue s (.mma w) w noHold noReads
    (fun c =>
      let (a, bs) := c.bufFormats w
      if bs.all fun b => pairOk a.toNat b.toNat then none else some (illegalAt (.mma w) c.c.pc))
    fun c cyc =>
      let (a, bs) := c.bufFormats w
      { plainEntry mopMma w cyc [] with fmtA := a, fmtBs := bs }

/-- MMA in direct mode (R329, R330, R336). -/
def execMmaD (w : MArgs) (s : State) : Out :=
  matIssue s (.mmaD w) w noHold noReads noTrap fun _ cyc => { plainEntry mopMma w cyc [] with
    fmtA := w.fmta
    fmtBs := List.replicate (w.acn.toNat + 1) w.fmtb }

/-- MZERO (R339). -/
def execMzero (w : MArgs) (s : State) : Out :=
  matIssue s (.mzero w) w noHold noReads noTrap fun _ cyc => plainEntry mopMzero w cyc []

/-- MACCR (R339): it waits for an earlier MACCR that writes one of its tiles (R233). -/
def execMaccr (w : MArgs) (s : State) : Out :=
  matIssue s (.maccr w) w (fun c => (List.range 4).any fun t => c.tileBusy (w.opsAt 0 4 + t)) noReads noTrap
    fun _ cyc => plainEntry mopMaccr w cyc []

/-- MACCW (R339): it reads its tiles in its issue clock. -/
def execMaccw (w : MArgs) (s : State) : Out :=
  matIssue s (.maccw w) w (fun c => (List.range 4).any fun t => c.tileBusy (w.opsAt 0 4 + t)) noReads noTrap
    fun c cyc => plainEntry mopMaccw w cyc
      (((List.range 4).map fun t => (vget c.v (w.opsAt 0 4 + t) (tab 1024 fun _ => 0)).toList).flatten)

/-- MSCALE (R340). -/
def execMscale (w : MArgs) (s : State) : Out :=
  matIssue s (.mscale w) w (fun c => c.tileBusy (w.opsAt 0 4)) noReads noTrap
    fun c cyc => plainEntry mopMscale w cyc (c.scaleRow w)

/-! ## MMAS (R337, R338) -/

/-- The descriptor of a fibre register: an intersection has that of the fibre whose values it gives (R219). -/
def Fibre.desc : Fibre → FibDesc
  | .row d _ _ _ _ _ => d
  | .meet a _ _ => a.desc

/-- The first byte of `n` bytes from `a` that lies outside the data area. -/
def outsideAt (a n : Nat) : Option Nat :=
  if n == 0 then none else if 0x3E0000 ≤ a then some a else if 0x3E0000 < a + n then some 0x3E0000 else none

/-- The entries of a matrix row: OFFS[r] and OFFS[r + 1]. -/
def FibDesc.rowRange (d : FibDesc) (sp : Cells) (r : Nat) : Nat × Nat :=
  (sp.rd (d.offs + 4 * r) 4, sp.rd (d.offs + 4 * (r + 1)) 4)

/-- The array bytes of a row that lie outside the data area: offsets, coordinates, values (R338; log entry 27). -/
def FibDesc.rowOutside (d : FibDesc) (sp : Cells) (r : Nat) : Option Nat :=
  match outsideAt (d.offs + 4 * r) 8 with
  | some x => some x
  | none =>
    let (b, e) := d.rowRange sp r
    let sz := fmtWidth d.fmt / 8
    (outsideAt (d.crds + 4 * b) (4 * (e - b))) <|> (outsideAt (d.vals + sz * b) (sz * (e - b)))

/-- A row that breaks the order (R338): the entry position, and the coordinate or OFFS[r + 1]. -/
def FibDesc.rowOrder (d : FibDesc) (sp : Cells) (r : Nat) : Option (Nat × Nat) :=
  let (b, e) := d.rowRange sp r
  if e < b then some (b, e)
  else match d.scan sp (e - b) none b with
    | .order p x => some (p, x)
    | _ => none

/-- The coordinates of a row with their positions. -/
def FibDesc.rowEntries (d : FibDesc) (sp : Cells) (r : Nat) : List (Nat × Nat) :=
  let (b, e) := d.rowRange sp r
  (List.range (e - b)).map fun i => (d.coord sp (b + i), b + i)

/-- The fibres of an MMAS. -/
def Core.mmasFibres (c : Core) (w : MArgs) : Option Fibre × Option Fibre := (c.fibre (w.opsAt 0 2), c.fibre (w.opsAt 2 2))

/-- The rows of both matrices that an MMAS reads, A's first (R337). -/
def mmasRows (w : MArgs) (a b : FibDesc) : List (FibDesc × Nat) :=
  (List.range 64).map (fun i => (a, a.row + i)) ++ (List.range (64 * (w.acn.toNat + 1))).map fun i => (b, b.row + i)

/-- What an MMAS raises at issue (R53, R338). -/
def Core.mmasFault (c : Core) (w : MArgs) : Option (Byte × W64 × W64) :=
  match c.mmasFibres w with
  | (none, _) => some (trStreamClosed, BitVec.ofNat 64 (w.opsAt 0 2 + 8), 0)
  | (_, none) => some (trStreamClosed, BitVec.ofNat 64 (w.opsAt 2 2 + 8), 0)
  | (some a, some b) =>
    if !pairOk a.desc.fmt b.desc.fmt then some (illegalAt (.mmas w) c.c.pc)
    else
      let rows := mmasRows w a.desc b.desc
      match rows.findSome? fun x => x.1.rowOutside c.sp x.2 with
      | some at0 => some (trStreamBound, BitVec.ofNat 64 at0, 0)
      | none => (rows.findSome? fun x => x.1.rowOrder c.sp x.2).map fun x =>
          (trFibreOrder, BitVec.ofNat 64 x.1, BitVec.ofNat 64 x.2)

/-- The units that an MMAS reads at issue (R338): the row offsets, and the coordinates, of all its rows, but for bytes outside the data
area. -/
def Core.mmasUnits (c : Core) (w : MArgs) : List Nat :=
  let rowUnits (x : FibDesc × Nat) : List Nat :=
    let at0 := x.1.offs + 4 * x.2
    if (outsideAt at0 8).isSome then []
    else
      let (b, e) := x.1.rowRange c.sp x.2
      unitsOf at0 8 ++ unitsOf (x.1.crds + 4 * b) (4 * x.1.crdsIn b e)
  match c.mmasFibres w with
  | (some a, some b) =>
    if pairOk a.desc.fmt b.desc.fmt then (((mmasRows w a.desc b.desc).map rowUnits).flatten).eraseDups else []
  | _ => []

/-- MMAS (R337, R338). -/
def execMmas (w : MArgs) (s : State) : Out :=
  matIssue s (.mmas w) w noHold (fun c => c.mmasUnits w) (fun c => c.mmasFault w) fun c cyc =>
    match c.mmasFibres w with
    | (some a, some b) =>
      let d := a.desc
      let e := b.desc
      { plainEntry mopMmas w cyc [] with
        fmtA := BitVec.ofNat 4 d.fmt
        fmtBs := List.replicate (w.acn.toNat + 1) (BitVec.ofNat 4 e.fmt)
        fibA := d
        fibB := e
        rowsA := (List.range 64).map fun i => d.rowEntries c.sp (d.row + i)
        rowsB := (List.range (64 * (w.acn.toNat + 1))).map fun i => e.rowEntries c.sp (e.row + i) }
    | _ => plainEntry mopMmas w cyc []

/-! ## MWAIT (R341) -/

/-- A word that the port accepted for a named accumulator is unfinished. -/
def Core.portBusy (c : Core) (w : MArgs) : Bool :=
  (argAccs w).any fun a => c.mat.port.any (·.names a) || (match c.mat.run with
    | some r => r.entry.port && r.entry.names a
    | none => false)

/-- MWAIT (R341). -/
def execMwait (w : MArgs) (s : State) : Out :=
  onCore s fun k c =>
    let leave (c : Core) (b : Bool) : Core :=
      { c with c := ({ c.c with p := setPred c.c.p (mwaitReport w) b } : VState).next k.cyc 24 }
    if !guardHolds w.g c.c.p then { c with c := c.c.next k.cyc 24 }
    else match blkStep (.mwait w) (mwaitLimit w) k.cyc true c.c.wait (!c.portBusy w) with
      | .act =>
        let keep := (argAccs w).foldl (fun (o : BitVec 4) a => o &&& ~~~((1 : BitVec 4) <<< a)) c.mat.owned
        leave { c with mat := { c.mat with owned := keep } } true
      | .giveUp => leave c false
      | .hold x => { c with c := { c.c with wait := some x } }

/-! ## Events of the engine -/

/-- An event of the core's matrix engine; nothing happens where its condition fails (log entry 6). -/
def matEvent (s : State) (f : Ctl → Core → Option Core) : Out := onCore s fun k c => (f k c).getD c

/-- MATRIX_WORD_START (R331, R34). -/
def execMatrixWordStart (s : State) : Out :=
  onMach s fun k m =>
    let n := k.cur.val
    let c := m.core n
    match c.matStart k.cyc k.cyc with
    | none => m
    | some c' =>
      if c.mat.leavesIdle k.cyc then (if m.mayStart (n / 40) k.cyc then (m.setCore n c').noteStart (n / 40) k.cyc else m)
      else m.setCore n c'

/-- A matrix engine starts tile steps in this lock cycle (R428): in as many of every eight as the throttle level says. -/
def Mach.stepsOpen (m : Mach) (tick : Nat) : Bool := decide ((tick + Config.throttlePhase) % 8 < m.mgmt.level)

/-- TILE_STEP_START (R327, R331, R334, R428): an engine that goes on with the word of a restored frame leaves idle (R34). -/
def execTileStepStart (s : State) : Out :=
  onMach s fun k m =>
    let n := k.cur.val
    let c := m.core n
    match c.matStep k.cyc with
    | none => m
    | some c' =>
      if !m.stepsOpen k.tick then m
      else if c.mat.idle then
        if m.mayStart (n / 40) k.cyc then
          (m.setCore n { c' with mat := { c'.mat with idle := false } }).noteStart (n / 40) k.cyc
        else m
      else m.setCore n c'

/-- MATRIX_WORD_COMPLETE (R331, R332). -/
def execMatrixWordComplete (s : State) : Out := matEvent s fun k c => c.matComplete k.cyc

/-- MATRIX_ENGINE_IDLE (R331). -/
def execMatrixEngineIdle (s : State) : Out :=
  matEvent s fun k c =>
    if c.mat.run.isNone && c.mat.queue.isEmpty && c.mat.port.isEmpty && c.mat.isIdle k.cyc then
      some { c with mat := { c.mat with idle := true } }
    else none

end Sys2Proof.Machine
end

