-- ==== Sys2Proof/Machine/XferRmw.lean ====
section
/-!
DEFINITION. Machine/XferRmw.lean: the commands that read, modify and write at the home (R118, R290-R296).
-/

namespace Sys2Proof.Machine

/-! ## Operators (R290) -/

/-- IEEE addition of F32 patterns with RNE (R290, R296). -/
def addF32 (x y : Nat) : Nat × Flags :=
  let (v, f) := (f32.decode x).add .rne (f32.decode y)
  let (r, g) := f32.round .rne false v
  (r, f ||| g)

/-- Width in bits of an operator's elements (R290). -/
def opBitsOf (op : Nat) : Nat := if op == 3 then 64 else 32

/-- Combine two elements under an operator other than ADD.F32X (R290). -/
def combineElem (op x y : Nat) : Nat × Flags :=
  match op with
  | 0 => addF32 x y
  | 2 => ((x + y) % 2 ^ 32, 0)
  | 3 => ((x + y) % 2 ^ 64, 0)
  | 4 => fminmax f32 false x y
  | 5 => fminmax f32 true x y
  | 6 => ((smin32 false (BitVec.ofNat 32 x) (BitVec.ofNat 32 y)).toNat, 0)
  | 7 => ((smin32 true (BitVec.ofNat 32 x) (BitVec.ofNat 32 y)).toNat, 0)
  | _ => (x, 0)

/-- Combine elements with a start value, in order. -/
def combineAll (op : Nat) (x : Nat) (ys : List Nat) : Nat × Flags :=
  ys.foldl (fun a y =>
    let (v, f) := combineElem op a.1 y
    (v, a.2 ||| f)) (x, 0)

/-! ## The admission table (R293, R294) -/

/-- The entry that covers a place, with its partition. -/
def Mach.admEntry (m : Mach) (key : Nat) : Option (Nat × AdmEntry) :=
  if 8 * 2 ^ 48 ≤ key then none
  else (List.range 64).findSome? fun p =>
    ((vget m.parts p Partition.init).admission.find? fun a =>
      a.nsrc != 0 && decide (a.lo ≤ key) && decide (key < a.hi)).map fun a => (p, a)

/-- The rank of an engine among the sources of an entry. -/
def AdmEntry.rank (a : AdmEntry) (e : EngineId) : Option Nat :=
  let srcs := a.srcs.take a.nsrc
  let k := srcs.findIdx fun s => s.1 == engineLocal e && s.2 == engineDie e
  if k < srcs.length then some k else none

/-- Contributions that a source has made to an element. -/
def Mach.admCount (m : Mach) (p key k : Nat) : Nat :=
  ((m.admitted.find? fun x => x.1 == p && x.2.1 == key && x.2.2.1 == k).map (·.2.2.2)).getD 0

/-- A contribution of an engine to an element waits for an earlier source (R294). -/
def Mach.admHeld (m : Mach) (e : EngineId) (key : Nat) : Bool :=
  match m.admEntry key with
  | none => false
  | some (p, a) => match a.rank e with
    | none => false
    | some k => (List.range k).any fun i => decide (m.admCount p key i ≤ m.admCount p key k)

/-- Count a contribution of a listed source (R294). -/
def Mach.admNote (m : Mach) (e : EngineId) (key : Nat) : Mach :=
  match m.admEntry key with
  | none => m
  | some (p, a) => match a.rank e with
    | none => m
    | some k =>
      let n := m.admCount p key k
      { m with admitted :=
          (p, key, k, n + 1) :: m.admitted.filter fun x => !(x.1 == p && x.2.1 == key && x.2.2.1 == k) }

/-- The place of the first byte of an access. -/
def firstKey : Parts → Nat
  | (k, _) :: _ => k
  | [] => 0

/-- One indivisible access at a destination: admission, then a new value from the old one (R118, R294). -/
def Mach.rmwElem (m : Mach) (A : Access) (a : Int) (ps : Parts) (f : Nat → Nat × Flags) : Except TStop (Mach × Flags) :=
  let key := firstKey ps
  match A.eng with
  | some e =>
    if m.admHeld e key then .error (.later m .admission)
    else do
      m.mayRmw A a ps
      let (m, old) := m.readParts ps
      let (v, fl) := f old
      .ok ((m.writeNow A a ps v).admNote e key, fl)
  | none => .error (.hold .admission)

/-! ## REDUCE, ACCW (R291, R292) -/

/-- The record of an operator's elements: FMT 0 (R290). -/
def opRecord (m : Mach) (A : Access) (c : Cmd) (r : Reg4) : Except TStop (Mach × Shape) :=
  m.recordAt A c r fun h => h.fmt == 0

/-- Address of element `e` at a base, in bytes, for elements of `w` bits. -/
def Cmd.elemAddr (c : Cmd) (w : Nat) (base : Int) (e : Nat) : Int := base + c.recd.bitAt w (c.recd.indices e) / 8

/-- Read the sources of REDUCE at element `e`: patterns, or long accumulators where bit 0 of an entry says so. -/
def Mach.readSources (m : Mach) (A : Access) (c : Cmd) (op e : Nat) : List Nat → Except TStop (Mach × List (Bool × Nat))
  | [] => .ok (m, [])
  | b :: bs => do
    let long := op == 1 && b % 2 == 1
    let base : Int := ((if long then b - 1 else b : Nat) : Int)
    let a := if long then base + ((48 * e : Nat) : Int) else c.elemAddr (opBitsOf op) base e
    let ps ← m.reach A .read 0 c e a (if long then 48 else opBitsOf op / 8)
    let (m, v) ← m.readFor A a ps
    let (m, vs) ← m.readSources A c op e bs
    .ok (m, (long, v) :: vs)

/-- Add a source to a long accumulator (R84, R291). -/
def LongAcc.addSource (a : LongAcc) (s : Bool × Nat) : LongAcc :=
  if s.1 then a.addAcc (LongAcc.ofNat s.2) else a.addF32 (BitVec.ofNat 32 s.2)

/-- REDUCE (R291). `vals` holds the source list. -/
def reduceSpec (w : TArgs) : CmdSpec where
  regs := [w.d, w.h, w.x]
  start A m c := do
    let (m, h) ← opRecord m A c w.h
    listAligned (c.reg w.x)
    let (m, bs) ← m.readList A c (c.base w.x) w.imm16.toNat
    .ok (m, { c with recd := h, total := h.count, vals := bs })
  elem _ A m c e := do
    let op := w.fn.toNat
    let wd := opBitsOf op
    let (m, ss) ← m.readSources A c op e c.vals
    let a := c.elemAddr wd (c.base w.d) e
    let ps ← m.reach A (.rmw false) 2 c e a (wd / 8)
    let (m, f) ← m.rmwElem A a ps fun old =>
      if op == 1 then
        let (v, f) := (ss.foldl LongAcc.addSource (LongAcc.empty.addF32 (BitVec.ofNat 32 old))).readout
        (v.toNat, f)
      else combineAll op old (ss.map (·.2))
    .ok (m, { c with flags := c.flags ||| f }, .next)

/-- REDUCE (R291). -/
def execReduce (w : TArgs) (s : State) : Out := dataWord s (.reduce w) false w (reduceSpec w)

/-- ACCW (R292). -/
def accwSpec (w : TArgs) : CmdSpec where
  regs := [w.d, w.s, w.h]
  start A m c := do
    let (m, h) ← opRecord m A c w.h
    .ok (m, { c with recd := h, total := h.count })
  elem _ A m c e := do
    let op := w.fn.toNat
    let wd := opBitsOf op
    let sa := c.elemAddr wd (c.base w.s) e
    let ss ← m.reach A .read 0 c e sa (wd / 8)
    let a := if op == 1 then c.base w.d + ((48 * e : Nat) : Int) else c.elemAddr wd (c.base w.d) e
    let ps ← m.reach A (.rmw false) 2 c e a (if op == 1 then 48 else wd / 8)
    let (m, x) ← m.readFor A sa ss
    let (m, f) ← m.rmwElem A a ps fun old =>
      if op == 1 then (((LongAcc.ofNat old).addF32 (BitVec.ofNat 32 x)).toNat, 0) else combineElem op old x
    .ok (m, { c with flags := c.flags ||| f }, .next)

/-- ACCW (R292). -/
def execAccw (w : TArgs) (s : State) : Out := dataWord s (.accw w) false w (accwSpec w)

/-! ## ATOM (R295, R296) -/

/-- Bytes of an ATOM's operand: FN[43:42] is I32 0, I64 1, F32 2. -/
def atomBytes (w : TArgs) : Nat := if w.fn.toNat / 4 == 1 then 8 else 4

/-- The value ATOM stores, and its flags. -/
def atomValue (w : TArgs) (old x cmp : Nat) : Nat × Flags :=
  let n := 2 ^ (8 * atomBytes w)
  match w.fn.toNat % 4 with
  | 0 => if w.fn.toNat / 4 == 2 then addF32 old (x % n) else ((old + x) % n, 0)
  | 1 => (x % n, 0)
  | _ => (if old == cmp % n then x % n else old, 0)

/-- The register result of ATOM. -/
def atomResult (w : TArgs) (old : Nat) : W64 :=
  if w.fn.toNat / 4 == 0 then (BitVec.ofNat 32 old).signExtend 64 else BitVec.ofNat 64 old

/-- ATOM (R295). `vals` holds the value read. -/
def atomSpec (w : TArgs) : CmdSpec where
  regs := [w.d, w.s, w.x, w.h]
  start _ m c := .ok (m, { c with total := 1 })
  elem _ A m c e := do
    let n := atomBytes w
    let a : Int := (((c.reg w.d).toNat / n * n : Nat) : Int)
    let ps ← m.reach A (.rmw (w.fn.toNat / 4 != 2)) 2 c e a n
    m.mayRmw A a ps
    let (m, old) := m.readParts ps
    let (v, f) := atomValue w old (c.reg w.s).toNat (c.reg w.x).toNat
    .ok (m.writeNow A a ps v, { c with flags := c.flags ||| f, vals := [old] }, .next)
  result c := c.vals[0]?.map fun old => (w.h, atomResult w old)

/-- ATOM (R295). -/
def execAtom (w : TArgs) (s : State) : Out := dataWord s (.atom w) false w (atomSpec w)

/-! ## Admission (R294) -/

/-- ADMISSION_GRANT (R294): a context that waits for admission tries its element again. -/
def execAdmissionGrant (s : State) : Out :=
  let x := s.mc.ctx s.ctl.eng s.ctl.ctx
  if !s.mc.engineLive s.ctl.eng then .next s
  else match x.hold, x.cmd with
  | .admission, some c =>
    match c.word with
    | .accw w => execAccw w s
    | .reduce w => execReduce w s
    | _ => .next s
  | _, _ => .next s

end Sys2Proof.Machine
end

