-- ==== Sys2Proof/Machine/XferSync.lean ====
section
/-!
DEFINITION. Machine/XferSync.lean: the commands that count, wait, synchronise, offer follow-on words and manage update
regions (R297-R306, R363-R365).
-/

namespace Sys2Proof.Machine

/-- The clock is one of the transfer-engine positions 0 and 4 (R26). -/
def xferPosition (cyc : Nat) : Bool := cyc % 4 == 0

/-- The clock since which the context's element waits. -/
def Mach.heldSince (m : Mach) (k : Ctl) : Nat :=
  match (m.ctx k.eng k.ctx).hold with
  | .test t => t
  | _ => k.cyc

/-- A test at clock `cyc` comes before the deadline of a wait-limit code (R43). -/
def inTime (lim since cyc : Nat) : Bool := lim == 0 || decide (cyc < since + 256 * lim)

/-! ## SIGNAL and SEMWT (R297, R298) -/

/-- A generic address in window 1 or 2 within a range of scratchpad offsets, aligned; else APERTURE. The word there is acted on in
a position (R26), which its command looks for itself. -/
def Mach.reachFixed (m : Mach) (A : Access) (c : Cmd) (a : W64) (lo hi align : Nat) : Except TStop Parts :=
  let off := a.toNat % 2 ^ 22
  if (windowCode a == 1 || windowCode a == 2) && decide (lo ≤ off) && decide (off < hi) && a.toNat % align == 0 then
    m.reach { A with eng := none } .read 0 c 0 (a.toNat : Int) align
  else .error (accFault c 0 trAperture a)

/-- The semaphore that a register names. -/
def Mach.reachSem (m : Mach) (A : Access) (c : Cmd) (r : Reg4) : Except TStop Parts :=
  m.reachFixed A c (c.reg r) 0x3E0000 0x3E8000 8

/-- SIGNAL (R297). -/
def signalSpec (w : TArgs) : CmdSpec where
  regs := [w.d]
  alone := true
  start _ m c := .ok (m, { c with total := 1 })
  elem _ A m c _ := do
    let ps ← m.reachSem A c w.d
    if m.mustWait A (c.base w.d) ps then .error (.hold .none)
    else .ok (((m.usePos A ps).noteWrite A (c.base w.d) ps).addSem (firstKey ps) (w.imm16.signExtend 64), c, .next)

/-- SIGNAL (R297). -/
def execSignal (w : TArgs) (s : State) : Out := dataWord s (.signal w) false w (signalSpec w)

/-- The wait-limit code of a transfer word. -/
def tLim (w : TArgs) : Nat := w.imm64.toNat / 2 ^ 32

/-- The count of SEMWT. -/
def tCount (w : TArgs) : Nat := w.imm64.toNat % 2 ^ 16

/-- The clock gives the command the position that serves a semaphore or a ring block (R26, R298, R300): nothing that is ordered
before it is still on its way (R104). -/
def Mach.mayTest (m : Mach) (A : Access) (a : Int) (ps : Parts) : Bool := !m.mustWait A a ps

/-- SEMWT (R298): a test that finds its count takes the position and acquires (R117). `vals` holds the compare flag. -/
def semwtSpec (w : TArgs) : CmdSpec where
  regs := [w.d]
  start _ m c := .ok (m, { c with total := 1 })
  elem k A m c _ := do
    let ps ← m.reachSem A c w.d
    let key := firstKey ps
    let v := BitVec.ofNat 64 (m.rd key 8)
    let since := m.heldSince k
    let opp := m.mayTest A (c.base w.d) ps
    let m := m.usePos A ps
    if opp && decide ((tCount w : Int) ≤ v.toInt) && inTime (tLim w) since k.cyc then
      let m := m.ctxAcquires k
      let m := if w.fn.getLsbD 0 then (m.noteWrite A (c.base w.d) ps).addSem key (0 - BitVec.ofNat 64 (tCount w)) else m
      .ok (m, { c with vals := [1] }, .next)
    else if opp && tLim w == 0 then .ok (m, { c with vals := [0] }, .finish)
    else .error (.hold (.test since))
  flag c := some (c.vals == [1])

/-- SEMWT (R298). -/
def execSemwt (w : TArgs) (s : State) : Out := dataWord s (.semwt w) true w (semwtSpec w)

/-! ## RFILL and RDRAIN (R299, R300) -/

/-- The ring control block that a register names. -/
def Mach.reachRing (m : Mach) (A : Access) (c : Cmd) (r : Reg4) : Except TStop Parts :=
  m.reachFixed A c (c.reg r) 0x3E8000 0x3F0000 32

/-- The index of the ring at an address. -/
def ringIndexAt (a : W64) : Nat := (a.toNat % 2 ^ 22 - 0x3E8000) / 32

/-- A fault of a ring command faults its ring, in a position (R220, R221, R269, R300). At the raise of TAIL, `vals` is 1, the fault
is CLAIM's. -/
def ringOnFault (fill : Bool) (w : TArgs) (A : Access) (m : Mach) (c : Cmd) (code : Byte) : Option Mach :=
  match m.reachRing A c w.x with
  | .error _ => some m
  | .ok ps =>
    let key := firstKey ps
    let b := m.rd key 32
    if m.mustWait A (c.base w.x) ps then none
    else
      let put (b' : Nat) : Mach := ((m.usePos A ps).noteWrite A (c.base w.x) ps).wr key 32 b'
      if code == trRingFaulted then
        if c.vals == [1] then some (put (ringFault b 3))
        else match ringCheck b with
        | some (b', _) => some (if ringState b == 2 then m else put b')
        | none => some (if fill then put (ringFault b 3) else m)
      else some (put (ringFault b (0x100 + code.toNat)))

/-- Elements of one slot. -/
def Cmd.slotItems (c : Cmd) : Nat := c.recd.count / c.recd.bound (c.recd.rank - 1)

/-- The start of a ring command: the block's address, the record, the size of a slot (R299). -/
def ringStart (w : TArgs) (A : Access) (m : Mach) (c : Cmd) : Except TStop (Mach × Cmd) := do
  let ps ← m.reachRing A c w.x
  let (m, h) ← m.recordAt A c w.h fun _ => true
  let (m, b) ← m.readFor A (c.base w.x) ps
  let c := { c with recd := h, total := h.bound (h.rank - 1), vals := [0] }
  if 8 * ringSlotSz b < c.slotItems * h.width then .error (shapeFault (c.reg w.h))
  else .ok (m, c)

/-- The places of one slot's packed bytes. -/
def Mach.reachSlot (m : Mach) (A : Access) (k : AccKind) (c : Cmd) (e : Nat) (ring : W64) (off : Nat) : Except TStop BitRef :=
  m.reachBits A k c e ((ring.toNat / 2 ^ 22 * 2 ^ 22 + off : Nat) : Int) 0 (c.slotItems * c.recd.width)

/-- The elements of sub-array `e` on the side that is not the ring. -/
def Mach.reachItems (m : Mach) (A : Access) (k : AccKind) (c : Cmd) (e : Nat) (base : Int) : Except TStop (List BitRef) :=
  (List.range c.slotItems).mapM fun i =>
    m.reachBits A k c e base (c.recd.bitOff (c.recd.indices (e * c.slotItems + i))) c.recd.width

/-- Read elements, packed densely. -/
def Mach.readItems (m : Mach) (A : Access) (wd : Nat) : List BitRef → Except TStop (Mach × Nat)
  | [] => .ok (m, 0)
  | r :: rs => do
    let (m, v) ← m.readBits A r
    let (m, vs) ← m.readItems A wd rs
    .ok (m, v % 2 ^ wd + 2 ^ wd * vs)

/-- Write densely packed elements. -/
def Mach.writeItems (m : Mach) (A : Access) (wd : Nat) (v : Nat) : List BitRef → Mach
  | [] => m
  | r :: rs => (m.writeBits A r (v % 2 ^ wd)).writeItems A wd (v / 2 ^ wd) rs

/-- Move one slot: RFILL writes count TAIL's slot, RDRAIN reads count HEAD's. -/
def ringMove (fill : Bool) (w : TArgs) (A : Access) (m : Mach) (c : Cmd) (e b : Nat) : Except TStop Mach := do
  let wd := c.recd.width
  if fill then
    let ss ← m.reachItems A .read c e (c.base w.s)
    let d ← m.reachSlot A .write c e (c.reg w.x) (ringSlot b (ringTail b))
    let (m, v) ← m.readItems A wd ss
    .ok (m.writeBits A d v)
  else
    let s ← m.reachSlot A .read c e (c.reg w.x) (ringSlot b (ringHead b))
    let ds ← m.reachItems A .write c e (c.base w.d)
    let (m, v) ← m.readBits A s
    .ok (m.writeItems A wd v ds)

/-- The test of a ring command, in a position (R300); one that finds its slot acquires (R117). -/
def ringTest (fill : Bool) (w : TArgs) (k : Ctl) (A : Access) (m : Mach) (c : Cmd) (ps : Parts) (b : Nat) :
    Except TStop (Mach × Cmd × After) :=
  let j := BitVec.ofNat 64 (ringIndexAt (c.reg w.x))
  let since := m.heldSince k
  if m.mustWait A (c.base w.x) ps then .error (.hold (.test since))
  else match ringCheck b with
    | some (_, err) => .error (.fault trRingFaulted j (BitVec.ofNat 64 err))
    | none =>
      if fill && ringClaim b != 0 then .error (.fault trRingFaulted j 3)
      else
        let ok := if fill then decide (1 ≤ ringFree b) else decide (1 ≤ ringFilled b)
        if ok && inTime (tLim w) since k.cyc then .ok ((m.usePos A ps).ctxAcquires k, { c with vals := [3, b] }, .again)
        else if (!fill && ringState b == 1 && !ok) || tLim w == 0 then .ok (m.usePos A ps, { c with vals := [2] }, .finish)
        else .error (.hold (.test since))

/-- The raise of a ring command's count, in a position, once the element is performed (R300). -/
def ringRaise (fill : Bool) (w : TArgs) (k : Ctl) (A : Access) (m : Mach) (c : Cmd) (ps : Parts) (b : Nat) :
    Except TStop (Mach × Cmd × After) :=
  if m.mustWait A (c.base w.x) ps || (m.engine k.eng).cmdOut k.eng 3 k.ctx.val c.id then .error (.hold .none)
  else if fill && ringClaim b != 0 then .error (.fault trRingFaulted (BitVec.ofNat 64 (ringIndexAt (c.reg w.x))) 3)
  else
    let b' := if fill then putFld b 16 4 (ringTail b + 1) else putFld b 12 4 (ringHead b + 1)
    .ok (((m.usePos A ps).noteWrite A (c.base w.x) ps).wr (firstKey ps) 32 b', { c with vals := [0] }, .next)

/-- One slot of a ring command (R300): the test; the move; the raise of the count. `vals` holds 0 before the test, 3 and the block
that the test found before the move, 1 before the raise, 2 when the command ended without its elements, 4 and a fault that is to be
delivered. -/
def ringElem (fill : Bool) (w : TArgs) (k : Ctl) (A : Access) (m : Mach) (c : Cmd) (e : Nat) :
    Except TStop (Mach × Cmd × After) :=
  match c.vals with
  | [4, code, i0, i1] => .error (.fault (BitVec.ofNat 8 code) (BitVec.ofNat 64 i0) (BitVec.ofNat 64 i1))
  | [3, b] => do
    let m ← ringMove fill w A m c e b
    .ok (m, { c with vals := [1] }, .again)
  | vs => do
    let ps ← m.reachRing A c w.x
    let b := m.rd (firstKey ps) 32
    if vs == [1] then ringRaise fill w k A m c ps b else ringTest fill w k A m c ps b

/-- RFILL and RDRAIN (R299, R300). -/
def ringSpec (fill : Bool) (w : TArgs) : CmdSpec where
  regs := if fill then [w.s, w.h, w.x] else [w.d, w.h, w.x]
  start := ringStart w
  elem := ringElem fill w
  onFault := ringOnFault fill w
  flag c := some (c.vals != [2])

/-- RFILL (R299, R300). -/
def execRfill (w : TArgs) (s : State) : Out := dataWord s (.rfill w) true w (ringSpec true w)

/-- RDRAIN (R299, R300). -/
def execRdrain (w : TArgs) (s : State) : Out := dataWord s (.rdrain w) true w (ringSpec false w)

/-- CONTEXT_WAIT_SATISFIED (R298, R300): a waiting context tests its condition. -/
def execContextWaitSatisfied (s : State) : Out :=
  let x := s.mc.ctx s.ctl.eng s.ctl.ctx
  if !s.mc.engineLive s.ctl.eng then .next s
  else match x.hold, x.cmd with
  | .test _, some c =>
    match c.word with
    | .semwt w => execSemwt w s
    | .rfill w => execRfill w s
    | .rdrain w => execRdrain w s
    | _ => .next s
  | _, _ => .next s

/-! ## TAGSET and the fences (R301, R302) -/

/-- TAGSET (R301): it has no element; its tag is set when it completes. -/
def tagsetSpec : CmdSpec where
  regs := []
  alone := true
  start _ m c := .ok (m, c)
  elem _ _ m c _ := .ok (m, c, .next)

/-- TAGSET (R301). -/
def execTagset (w : TArgs) (s : State) : Out := dataWord s (.tagset w) false w tagsetSpec

/-- A transfer fence (R114): it waits until what happens before it is performed at its scope, from package scope on the triples of
earlier UPDs too (R121), and whoever acquires from it has that before it (R110). -/
def xferFence (s : State) (w : TArgs) : Out :=
  onMach s fun k m =>
    if m.scopeHeld k w.scope.toNat then m
    else
      let m := m.tell k.eng (some k.ctx.val) w.scope.toNat
      m.setCtx k.eng k.ctx ((m.ctx k.eng k.ctx).past false)

/-- TREL (R114, R302). -/
def execTrel (w : TArgs) (s : State) : Out := xferFence s w

/-- TFENCE (R114, R302). -/
def execTfence (w : TArgs) (s : State) : Out := xferFence s w

/-- TACQ (R114, R302): the reads of earlier commands are performed when their elements are. -/
def execTacq (_w : TArgs) (s : State) : Out := ctxWord s [] fun x => x.past false

/-! ## FOLLOW (R120, R303, R333) -/

/-- FOLLOW (R303): the word is read and checked at the start, then offered. `vals` holds the word. -/
def followSpec (w : TArgs) : CmdSpec where
  regs := [w.s]
  start A m c := do
    let a := c.reg w.s
    if windowCode a != 1 || a.toNat % 8 != 0 then .error (accFault c 0 trAperture a)
    else
      let (m, v) ← m.readPlain A c 0 (a.toNat : Int) 24
      if followWordOk v then .ok (m, { c with total := 1, vals := [v] })
      else .error (.fault trIllegal (BitVec.ofNat 64 v) a)
  elem _ _ _ _ _ := .error (.hold .port)

/-- FOLLOW (R303). -/
def execFollow (w : TArgs) (s : State) : Out := dataWord s (.follow w) false w (followSpec w)

/-- The port's entry for a word (R331, R336). -/
def portEntry (v cyc : Nat) : MEntry :=
  let a := MArgs.ofNat v
  let e := plainEntry (opAt v) a cyc []
  { e with
    port := true
    fmtA := a.fmta
    fmtBs := List.replicate (a.acn.toNat + 1) a.fmtb }

/-- The port may take a context's word (R120): the writes of the commands before it have been performed in the core's scratchpad,
and of the contexts that offer a word it is the one whose preceding command was done first. -/
def Engine.mayFollow (g : Engine) (e : EngineId) (n : Nat) : Bool :=
  !g.ctxOut e 0 n && (List.range 4).all fun i =>
    let y := vget g.ctxs i Ctx.init
    y.hold != .port || g.ctxOut e 0 i || decide ((vget g.ctxs n Ctx.init).doneNo ≤ y.doneNo)

/-- FOLLOW_ACCEPT (R303, R333): the port takes the word that a context offers; the accumulators it names become
follow-owned and FOLLOW completes. -/
def execFollowAccept (s : State) : Out :=
  onMach s fun k m =>
    let x := m.ctx k.eng k.ctx
    match x.hold, x.cmd, engineCore k.eng with
    | .port, some cmd, some n =>
      let c := m.core n.val
      match cmd.word, cmd.vals with
      | .follow w, [v] =>
        if !m.engineLive k.eng || 4 ≤ c.mat.port.length || !(m.engine k.eng).mayFollow k.eng k.ctx.val then m
        else
          let e := portEntry v k.cyc
          let own := (argAccs e.word.args).foldl (fun (o : BitVec 4) a => o ||| ((1 : BitVec 4) <<< a)) c.mat.owned
          let m := m.setCore n.val { c with mat := { c.mat with port := c.mat.port ++ [e], owned := own } }
          m.finishCmd k.eng k.ctx false w (followSpec w) cmd
      | _, _ => m
    | _, _, _ => m

/-! ## UDRAIN and URGN (R305, R306, R363-R365) -/

/-- The place of an address that a command with R or U rights names (R305). -/
def Mach.reachUpdate (m : Mach) (A : Access) (c : Cmd) (a : W64) : Except TStop Parts :=
  match windowCode a with
  | 0 => match segAt A.segs a.toNat with
    | none => .error (accFault c 0 trAccess a)
    | some g =>
      if g.rights.getLsbD 0 || g.rights.getLsbD 3 then
        match m.inSegment A g a.toNat 1 with
        | .ok ps => .ok ps
        | .miss va => .error (.miss va 0)
        | .fault code => .error (accFault c 0 code a)
        | .page _ _ => .error (accFault c 0 trNotPresent a)
      else .error (accFault c 0 trAccess a)
  | 3 => .error (accFault c 0 trAperture a)
  | _ => .error (accFault c 0 trAccess a)

/-- UDRAIN (R305): the pending triples of the region are applied. -/
def udrainSpec (w : TArgs) : CmdSpec where
  regs := [w.d]
  start _ m c := .ok (m, { c with total := 1 })
  elem _ A m c _ := do
    let ps ← m.reachUpdate A c (c.reg w.d)
    match m.regionAt (firstKey ps) with
    | none => .error (accFault c 0 trAccess (c.reg w.d))
    | some (nd, r) =>
      let status := m.statusPlaces ps
      m.mayRmw A (c.base w.d) status
      .ok ((m.usePos A status).applyRegion nd r.rid, c, .next)

/-- UDRAIN (R305). -/
def execUdrain (w : TArgs) (s : State) : Out := dataWord s (.udrain w) false w (udrainSpec w)

/-- Two ranges of bytes share a byte. -/
def overlaps (a b : Nat × Nat) : Bool := decide (a.1 < b.1 + b.2) && decide (b.1 < a.1 + a.2)

/-- The areas of a region (R365): the region, the spill area, the shadow, a linked extension. -/
def Region.areas (r : Region) : List (Nat × Nat) :=
  [(r.base, r.len), (r.spill, r.spLen), (r.shadow, r.len / 4 * updShadow r.op), (r.xspill, r.xlen)]

/-- Memory of a home that the tug manages (R377): its free and freed frames, the frames of TIERED pages, and those that pages are being
moved to. -/
def Mach.tugAreas (m : Mach) (home : Nat) : List (Nat × Nat) :=
  let frame (f : Nat × Bool) : Nat × Nat := (f.1, cond f.2 (2 ^ 21) (2 ^ 16))
  (vget m.free home []).map frame ++ (vget m.freed home []).map frame ++ (m.pages.map fun p => (p.pa, p.size)) ++
    m.moves.map fun v => (v.dst, v.size)

/-- The spill reserves of the partitions (R385). -/
def Mach.reserveAreas (m : Mach) : List (Nat × Nat) :=
  (List.range 64).filterMap fun p => (vget m.parts p Partition.init).conf.map fun f => (f.rsvBase, f.rsvLen)

/-- The region that a descriptor of 64 bytes describes (R363). -/
def regionOfDesc (n base at0 rid : Nat) : Region where
  rid := rid
  base := base
  len := fld n 0 8
  op := fld n 0x20 1
  part := fld n 0x21 1
  spill := fld n 8 8
  spLen := fld n 0x10 8
  shadow := fld n 0x18 8
  descAt := at0
  xspill := 0
  xlen := 0
  pend := []
  runs := []
  sweep := []
  retries := 0

/-- The requirements of a creating URGN (R365), `a` being a(D). -/
def Mach.createOk (m : Mach) (a n : Nat) (r : Region) : Bool :=
  let nd := a / 2 ^ 48
  let within (x : Nat × Nat) : Bool := x.2 == 0 || (x.1 / 2 ^ 48 == nd && decide (x.1 % 2 ^ 48 + x.2 ≤ homeBytes nd))
  let own := r.areas
  let apart (x : Nat × Nat) (l : List (Nat × Nat)) : Bool := l.all fun y => !overlaps x y
  a % 4096 == 0 && decide (nd < 8) &&
    (r.len % 4096 == 0 && decide (4096 ≤ r.len) && decide (r.len ≤ 2 ^ 30)) &&
    (r.spill % 2 ^ 16 == 0 && r.spLen % 2 ^ 16 == 0 && decide (r.tableBytes + 2 ^ 16 ≤ r.spLen)) &&
    (r.shadow % 64 == 0 && (updShadow r.op != 0 || r.shadow == 0)) &&
    decide (r.op ≤ 13) && decide (r.part < 64) &&
    (fld n 0x22 6 == 0 && fld n 0x28 24 == 0) &&
    own.all within &&
    own.zipIdx.all (fun x => own.zipIdx.all fun y => x.2 == y.2 || !overlaps x.1 y.1) &&
    own.all (fun x => apart x ((vget m.basins nd []).map Region.areas).flatten && apart x (m.tugAreas nd) &&
      apart x m.reserveAreas) &&
    decide ((vget m.basins nd []).length < 1024)

/-- Places of which one lies in a semaphore area (R24). -/
def inSemPlace (ps : Parts) : Bool := ps.any fun p => isSp p.1 && inSemArea (p.1 % 2 ^ 22) p.2

/-- The lowest region number that a basin does not use. -/
def Mach.freeRid (m : Mach) (nd : Nat) : Nat :=
  ((List.range 1025).find? fun i => i != 0 && !(vget m.basins nd []).any fun r => r.rid == i).getD 0

/-- Create a region (R365): the table, the shadows, STATUS and RID. -/
def Mach.createRegion (m : Mach) (nd : Nat) (r : Region) : Mach :=
  let m := m.wr r.spill (r.len / 4096 * 8) 0
  let m := (List.range (r.len / 4)).foldl (fun m i =>
    if r.op == 4 then
      m.wr (r.shadow + 48 * i) 48 (LongAcc.empty.addF32 (BitVec.ofNat 32 (m.rd (r.base + 4 * i) 4))).toNat
    else if r.op == 13 then m.wr (r.shadow + 8 * i) 8 (m.rd (r.shadow + 8 * i) 8 % 2 ^ 32)
    else m) m
  let m := (m.wr (r.descAt + 0x38) 8 0).wr (r.descAt + 0x22) 2 r.rid
  { m with basins := vset m.basins nd (vget m.basins nd [] ++ [r]) }

/-- The segment table that a task runs under (R259, R260): its engine's once it is bound, else what memory holds. -/
def Mach.segsOf (m : Mach) (t : Task) : List Seg :=
  match (List.finRange 320).find? fun n => (m.core n.val).task.any (·.tid == t.tid) with
  | some n => (m.engine (.core n)).segs
  | none => m.taskSegs t

/-- A task that is bound, moored or swapped out (R365): it is in the dependence table (R386). -/
def Task.mapsRegions (t : Task) : Bool := t.st != .overflow && t.st != .lost

/-- A task that is bound, moored or swapped out maps a region with a U segment (R365). -/
def Mach.mapsRegion (m : Mach) (r : Region) : Bool :=
  m.tasks.any fun t => t.mapsRegions && (m.segsOf t).any fun g =>
    g.rights.getLsbD 3 && overlaps (g.phys.toNat, g.vlen) (r.base, r.len)

/-- Delete a region (R359, R365). -/
def Mach.deleteRegion (m : Mach) (nd : Nat) (r : Region) : Mach :=
  let m := ((m.applyRegion nd r.rid).wr (r.descAt + 0x22) 2 0).askDone r.base
  { m with
    basins := vset m.basins nd ((vget m.basins nd []).filter fun x => x.rid != r.rid)
    reserve := m.reserve.filter fun x => x.2.1 != r.base }

/-- URGN has written to memory outside the task's declarations (R142). -/
def Mach.noteUrgn (m : Mach) (A : Access) : Mach :=
  match A.own with
  | some n => m.setCore n (m.core n).notReplayable
  | none => m

/-- URGN (R306, R363-R365). A descriptor in a semaphore area cannot take what the basin writes to it (R24); one in a scratchpad is
read, and written, in positions (R26). -/
def urgnSpec (w : TArgs) : CmdSpec where
  regs := [w.d, w.s]
  start _ m c := .ok (m, { c with total := 1 })
  elem _ A m c _ := do
    let a := (c.reg w.d).toNat
    let nd := a / 2 ^ 48
    let ps ← m.reach A .read 4 c 0 (c.base w.s) 64
    let (m, n) ← m.readFor A (c.base w.s) ps
    let fail := TStop.fault trAccess (c.reg w.d) 0
    if (c.reg w.s).toNat % 64 != 0 then .error fail
    else if fld n 0x20 1 == 0 then
      match (vget m.basins nd []).find? fun r => r.base == a with
      | none => .error fail
      | some r =>
        if 8 ≤ nd || m.mapsRegion r then .error fail
        else
          let at0 : Parts := [(r.descAt + 0x22, 2)]
          m.mayRmw A (c.base w.s) at0
          .ok (((m.usePos A at0).deleteRegion nd r).noteUrgn A, c, .next)
    else
      let r := regionOfDesc n a (firstKey ps) (m.freeRid nd)
      if m.createOk a n r && !inSemPlace ps then
        m.mayRmw A (c.base w.s) ps
        .ok (((m.usePos A ps).createRegion nd r).noteUrgn A, c, .next)
      else .error fail

/-- URGN (R306). -/
def execUrgn (w : TArgs) (s : State) : Out := dataWord s (.urgn w) false w (urgnSpec w)

/-! ## The end of a suspension (R269, R272) -/

/-- What a fault of a word's command does besides (R269): the ring of RFILL and RDRAIN is faulted. -/
def wordFault (i : Instr) : CmdSpec :=
  match i with
  | .rfill w => ringSpec true w
  | .rdrain w => ringSpec false w
  | _ => tagsetSpec

/-- SUSPENSION_ENDED_AS_FAULT (R269, R272, R359): a suspended command stops as a transfer fault; `num` 1 names the drain
unit, whose task is terminated. -/
def execSuspensionEndedAsFault (s : State) : Out :=
  onMach s fun k m =>
    if k.occ.num == 1 then
      match (m.engine k.eng).drain.susp, engineCore k.eng with
      | some u, some n => m.stopTask k n ⟨trCapacity, 2, (m.core n.val).c.pc, u.va, u.aux⟩ true
      | _, _ => m
    else
      let x := m.ctx k.eng k.ctx
      match x.st, x.cmd with
      | .suspended, some c =>
        if x.susp.cause == trNotPresent || x.susp.cause == trCapacity then
          (m.setCtx k.eng k.ctx { x with susp := Susp.none }).stopCmd (m.access k c) k.eng k.ctx (wordFault c.word) c x.ep.toNat
            (.fault x.susp.cause x.susp.va x.ep)
        else m
      | _, _ => m

end Sys2Proof.Machine
end

