-- ==== Sys2Proof/Machine/XEvents.lean ====
section
/-!
DEFINITION. Machine/XEvents.lean: the events of the sequencers: load data (R173-R175), the end of FENCESC (R186), waits
that end or expire (R43, R137, R178), the delivery of a transfer fault (R136), ring extensions (R224).
-/

namespace Sys2Proof.Machine

/-- LDS_COMPLETE (R173-R175): the load of X that completes in this clock. -/
def execLdsComplete (s : State) : Out :=
  onCore s fun k c =>
    match c.x.loadDone k.cyc with
    | none => c
    | some (d, v, rest) =>
      let x := match v with
        | some y => c.x.setS d y
        | none => c.x
      { c with x := { x with pend := rest, lastDone := k.cyc } }

/-- FENCESC_COMPLETE (R115, R186): a tick later than the clock in which the last awaited access was performed. -/
def execFencescComplete (s : State) : Out :=
  onCore s fun k c =>
    match c.x.wait, c.x.fsc with
    | some ⟨.fencesc _, _, _⟩, some t =>
      if k.cyc % 96 == 0 && decide (t < k.cyc) then { c with x := { c.x.next k.cyc 4 with fsc := none } } else c
    | _, _ => c

/-- TRAP_DELIVERY (R136): the first pending transfer fault of the core's contexts. -/
def execTrapDelivery (s : State) : Out := onMach s fun k m => m.deliverFault k k.cur

/-! ## Waits that find their condition (R178) -/

/-- Look again at the condition of a blocking word; words that do not wait are left alone. -/
def lookAgain (i : Instr) (s : State) : Out :=
  match i with
  | .waitlc64 g n rp lim => execWaitlc64 g n rp lim s
  | .waitlc96 g n rp lim => execWaitlc96 g n rp lim s
  | .semwait64 g a b off take rp lim => execSemwait64 g a b off take rp lim s
  | .semwait96 g a b off take rp lim => execSemwait96 g a b off take rp lim s
  | .tagwait64 g d a all clr rp lim => execTagwait64 g d a all clr rp lim s
  | .tagwait96 g d a all clr rp lim => execTagwait96 g d a all clr rp lim s
  | .qput64 g q a rp lim => execQput64 g q a rp lim s
  | .qput96 g q a rp lim => execQput96 g q a rp lim s
  | .qget64 g q d rp lim => execQget64 g q d rp lim s
  | .qget96 g q d rp lim => execQget96 g q d rp lim s
  | .txgo64 g a e rp lim => execTxgo64 g a e rp lim s
  | .txgo96 g a e rp lim => execTxgo96 g a e rp lim s
  | .fenceFull g sc => execFenceFull g sc s
  | .fenceRelease g sc => execFenceRelease g sc s
  | .fenceAcquire g sc => execFenceAcquire g sc s
  | .rwaitf w => execRwaitf w s
  | .rwaite w => execRwaite w s
  | .qputVw w => execQputVw w s
  | .qgetVw w => execQgetVw w s
  | .semwaitVw w => execSemwaitVw w s
  | .gldOa w => execGldOa w s
  | .gldOb w => execGldOb w s
  | .mwait w => execMwait w s
  | .mma w => execMma w s
  | .mmaD w => execMmaD w s
  | .mmas w => execMmas w s
  | .mzero w => execMzero w s
  | .maccr w => execMaccr w s
  | .maccw w => execMaccw w s
  | .mscale w => execMscale w s
  | .gopen w => execGopen w s
  | .gopenX w => execGopenX w s
  | .gld w => execGld w s
  | .gldm w => execGldm w s
  | .gldr w => execGldr w s
  | .fopen w => execFopen w s
  | .fadv w => execFadv w s
  | .fend w => execFend w s
  | .fldv w => execFldv w s
  | .fldvCrd w => execFldvCrd w s
  | _ => .next s

/-- A sequencer's waiting word may act: its task runs, no trap of it waits to be taken, and the sequencer is not stopped. -/
def Core.mayLook (c : Core) (q : SeqName) : Bool := c.task.any fun b => b.running && b.stop.isNone && (q == .x || !b.vstop)

/-- The word that a sequencer waits in, or whose scratchpad reads are in progress (R27, R178). -/
def Core.waiting (c : Core) (q : SeqName) : Option Instr :=
  match c.waitOf q with
  | some w => some w.word
  | none => if q == .x then none else (c.vs (seqV q)).acc.map (·.word)

/-- BLOCKING_CONDITION_MET (R178): the sequencer's waiting word tests its condition; a load goes on reading (R27). -/
def execBlockingConditionMet (s : State) : Out :=
  let q := s.ctl.occ.seq
  let c := s.mc.core s.ctl.cur.val
  match c.waiting q with
  | some i => if c.mayLook q then lookAgain i { s with ctl := { s.ctl with curV := seqV q } } else .next s
  | none => .next s

/-! ## Waits that expire (R43, R137) -/

/-- What a timeout reports: kind, index, required value, observed value. -/
structure WaitInfo where
  kind : Nat
  index : Nat
  req : Nat
  seen : W64
deriving DecidableEq, Repr

/-- tinfo0 of a timeout (R137). -/
def WaitInfo.info0 (w : WaitInfo) : W64 := BitVec.ofNat 64 (w.kind + w.index % 2 ^ 24 * 2 ^ 8 + w.req % 2 ^ 32 * 2 ^ 32)

/-- A queue's occupancy as a timeout observes it. -/
def Core.qSeen (c : Core) (q : Nat) : W64 := BitVec.ofNat 64 (c.qCount q)

/-- HEAD and TAIL as a timeout observes them. -/
def ringSeen (b : Nat) : W64 := BitVec.ofNat 64 (ringHead b * 2 ^ 32 + ringTail b)

/-- A timeout of a semaphore wait. -/
def Core.semInfo (c : Core) (i n : Nat) : WaitInfo := ⟨1, i, n, c.sem i⟩

/-- A timeout of a C word on accumulators that the port owns: the lowest one still owned (R333, R341). -/
def Core.accInfo (c : Core) (w : MArgs) : WaitInfo := ⟨8, ((c.ownedOf w)[0]?).getD w.acc.toNat, 0, 1⟩

/-- What the timeout of a waiting word reports (R137, R178, R223, R226, R227, R327, R333, R341). -/
def Core.waitInfo (c : Core) (q : VSeq) (i : Instr) : Option WaitInfo :=
  match i with
  | .waitlc64 _ n _ _ => some ⟨7, 0, n.toNat, BitVec.ofNat 64 c.x.lc⟩
  | .waitlc96 _ n _ _ => some ⟨7, 0, n.toNat, BitVec.ofNat 64 c.x.lc⟩
  | .semwait64 _ a b off _ _ _ => some (c.semInfo (indexOf (c.x.getS a) off).toNat ((c.x.getS b).toNat % 2 ^ 32))
  | .semwait96 _ a b off _ _ _ => some (c.semInfo (indexOf (c.x.getS a) off).toNat ((c.x.getS b).toNat % 2 ^ 32))
  | .tagwait64 _ _ a _ _ _ _ => some ⟨6, 0, 0, c.x.getS a⟩
  | .tagwait96 _ _ a _ _ _ _ => some ⟨6, 0, 0, c.x.getS a⟩
  | .qput64 _ n _ _ _ => some ⟨3, n.toNat, 1, c.qSeen n.toNat⟩
  | .qput96 _ n _ _ _ => some ⟨3, n.toNat, 1, c.qSeen n.toNat⟩
  | .qget64 _ n _ _ _ => some ⟨2, n.toNat, 1, c.qSeen n.toNat⟩
  | .qget96 _ n _ _ _ => some ⟨2, n.toNat, 1, c.qSeen n.toNat⟩
  | .txgo64 _ _ _ _ _ => some ⟨3, 8, 1, 16⟩
  | .txgo96 _ _ _ _ _ => some ⟨3, 8, 1, 16⟩
  | .rwaitf w => some ⟨4, (c.k q w.a).toNat, 1, ringSeen (c.ring (c.k q w.a).toNat)⟩
  | .rwaite w => some ⟨5, (c.k q w.a).toNat, 1, ringSeen (c.ring (c.k q w.a).toNat)⟩
  | .qputVw w => some ⟨3, w.fn.toNat, 1, c.qSeen w.fn.toNat⟩
  | .qgetVw w => some ⟨2, w.fn.toNat, 1, c.qSeen w.fn.toNat⟩
  | .semwaitVw w => some (c.semInfo (c.k q w.a).toNat ((c.k q w.b).toNat % 2 ^ 32))
  | .gldOa w => some ⟨9, w.d.toNat, 0, cond (vget c.oa w.d.toNat OpBuf.init).full 1 0⟩
  | .gldOb w => some ⟨9, 4 + w.d.toNat, 0, cond (vget c.ob w.d.toNat OpBuf.init).full 1 0⟩
  | .mwait w => some (c.accInfo w)
  | .mma w => some (c.accInfo w)
  | .mmaD w => some (c.accInfo w)
  | .mmas w => some (c.accInfo w)
  | .mzero w => some (c.accInfo w)
  | .maccr w => some (c.accInfo w)
  | .maccw w => some (c.accInfo w)
  | .mscale w => some (c.accInfo w)
  | _ => none

/-- A ring wait that R224 lets the lock-keeper serve in place of a timeout: the ring's index. -/
def Core.extensible (c : Core) (q : VSeq) (i : Instr) : Option Nat :=
  match i with
  | .rwaite w =>
    let j := (c.k q w.a).toNat
    if j < 1024 && ringLinkable (c.ring j) then some j else none
  | _ => none

/-- The clocks a tile step waits for its buffers before it times out (R327). -/
def stepLimit : Nat := 65280

/-- The buffer that a tile step has waited for past its limit (R327). -/
def Core.stepExpired (c : Core) (cyc : Nat) : Option Nat :=
  match c.mat.run with
  | some r => if r.since + stepLimit ≤ cyc then c.missing r else none
  | none => none

/-- The word that a sequencer waits in past its limit. -/
def Core.expiredWait (c : Core) (q : SeqName) (cyc : Nat) : Option Wait :=
  match c.waitOf q with
  | some w => if w.expired cyc then some w else none
  | none => none

/-- A timeout of a sequencer: its waiting word's, or for C the tile step's that waits for a fill. A wait for a slot of a ring that
may be extended is kept for its extension (R224). -/
def Mach.seqTimeout (m : Mach) (k : Ctl) (n : Fin 320) (q : SeqName) : Mach :=
  let c := m.core n.val
  let v := c.vs (seqV q)
  let trap (pc : W32) (w : WaitInfo) : Mach := m.takeTrap k n ⟨trWaitTimeout, seqSource q, pc, w.info0, w.seen⟩
  if !c.mayLook q || (q != .x && v.ext.isSome) then m
  else match c.expiredWait q k.cyc with
    | some w =>
      if q != .x && (c.extensible (seqV q) w.word).isSome then m.setCore n.val (c.setVs (seqV q) { v with ext := some k.cyc })
      else match c.waitInfo (seqV q) w.word with
        | some i => trap (c.pcOf q) i
        | none => m
    | none =>
      if q != .c then m
      else match c.stepExpired k.cyc with
        | some b => trap c.c.pc ⟨9, b, 1, 0⟩
        | none => m

/-- The wait of a context has reached its deadline: its word's limit code and the clock it started at. -/
def Ctx.expired (x : Ctx) (cyc : Nat) : Bool :=
  match x.hold, x.cmd with
  | .test t, some c =>
    let lim (w : TArgs) : Bool := tLim w != 0 && decide (t + 256 * tLim w ≤ cyc)
    match c.word with
    | .semwt w => lim w
    | .rfill w => lim w
    | .rdrain w => lim w
    | _ => false
  | _, _ => false

/-- The place of the ring that a waiting RFILL fills, if its extension may be linked (R224, R300). -/
def Mach.fillExtensible (m : Mach) (k : Ctl) (c : Cmd) : Option Nat :=
  match c.word with
  | .rfill w => match m.reachRing (m.access k c) c w.x with
    | .ok ps => if ringLinkable (m.rd (firstKey ps) 32) then some (firstKey ps) else none
    | .error _ => none
  | _ => none

/-- The control part with a context of an engine as the agent. -/
def Ctl.forCtx (k : Ctl) (e : EngineId) (n : Fin 4) : Ctl := { k with eng := e, ctx := n }

/-- A timeout of a waiting context is a transfer fault (R298, R300); an RFILL that waits for a slot of a ring that may be extended
is kept for the extension (R224). -/
def Mach.ctxTimeout (m : Mach) (k : Ctl) (e : EngineId) (n : Fin 4) : Mach :=
  let k := k.forCtx e n
  let x := m.ctx e n
  match x.cmd with
  | none => m
  | some c =>
    let A := m.access k c
    if !m.engineLive e || !x.expired k.cyc then m
    else if (m.fillExtensible k c).isSome then m.setCtx e n { x with hold := .extend k.cyc }
    else
      let stop (sp : CmdSpec) (w : WaitInfo) : Mach := m.stopCmd A e n sp c x.ep.toNat (.fault trWaitTimeout w.info0 w.seen)
      let ring (w : TArgs) (fill : Bool) : Mach := match m.reachRing A c w.x with
        | .ok ps => stop (ringSpec fill w) ⟨if fill then 5 else 4, ringIndexAt (c.reg w.x), 1, ringSeen (m.rd (firstKey ps) 32)⟩
        | .error _ => m
      match c.word with
      | .semwt w => match m.reachSem A c w.d with
        | .ok ps =>
          stop (semwtSpec w) ⟨1, ((c.reg w.d).toNat % 2 ^ 22 - 0x3E0000) / 8, tCount w, BitVec.ofNat 64 (m.rd (firstKey ps) 8)⟩
        | .error _ => m
      | .rfill w => ring w true
      | .rdrain w => ring w false
      | _ => m

/-- WAIT_TIMEOUT (R43, R178, R298, R300, R327). -/
def execWaitTimeout (s : State) : Out :=
  onMach s fun k m =>
    match k.occ.waiter with
    | .seq n q => m.seqTimeout k n q
    | .ctx e n => m.ctxTimeout k e n

/-! ## Ring extensions (R224, R300) -/

/-- The clocks within which the lock-keeper links an extension (R224). -/
def linkLimit : Nat := 2000

/-- Link a ring's extension unless it is linked already (R224). -/
def ringExtend (b : Nat) : Nat := if ringExtended b then b else ringLink b

/-- A vector sequencer's wait goes on with a limit of its own once the extension of its ring is linked (R224). -/
def Core.linkWait (c : Core) (v : VSeq) (cyc : Nat) : Core :=
  match (c.vs v).ext, (c.vs v).wait with
  | some _, some ⟨.rwaite a, _, l⟩ =>
    let j := (c.k v a.a).toNat
    let c := c.setRing j (ringExtend (c.ring j))
    c.setVs v { c.vs v with ext := none, wait := some ⟨.rwaite a, cyc, l⟩ }
  | _, _ => c

/-- RING_EXTENSION_LINK (R224, R300): in a position of the ring's core (R26), EXTAT ← TAIL and EXTENDED ← 1; the wait goes on with a
limit of its own. -/
def execRingExtensionLink (s : State) : Out :=
  onMach s fun k m =>
    match k.occ.waiter with
    | .seq n q =>
      let c := m.core n.val
      let v := c.vs (seqV q)
      if v.ext.isSome && v.wait.isSome && c.xferFree k.cyc then
        (m.setCore n.val (c.linkWait (seqV q) k.cyc)).takeFree k.cyc (spKey n.val 0)
      else m
    | .ctx e n =>
      let k := k.forCtx e n
      let x := m.ctx e n
      match x.hold, x.cmd with
      | .extend _, some c =>
        match c.word with
        | .rfill w => match m.reachRing (m.access k c) c w.x with
          | .ok ps =>
            let key := firstKey ps
            if m.placeFree k.cyc key then
              ((m.wr key 32 (ringExtend (m.rd key 32))).takeFree k.cyc key).setCtx e n { x with hold := .test k.cyc }
            else m
          | .error _ => m
        | _ => m
      | _, _ => m

end Sys2Proof.Machine
end

