-- ==== Sys2Proof/Machine/Keeper.lean ====
section
/-!
DEFINITION. Machine/Keeper.lean: LAUNCH, DONE and YIELD (R187-R191) and what the lock-keeper decides by itself: retirement
(R134), selection (R393), pre-emption (R395, R400, R401), swap-out (R274).
-/

namespace Sys2Proof.Machine

/-- The core that a task is bound to. -/
def Mach.coreOf (m : Mach) (tid : Nat) : Option Nat := (List.range 320).find? fun n => (m.core n).task.any (·.tid == tid)

/-- A task's own clock of a word of X that waits without a limit. -/
def XState.await (x : XState) (i : Instr) (cyc : Nat) : XState := { x with wait := some (x.wait.getD ⟨i, cyc, none⟩) }

/-! ## LAUNCH (R187-R189) -/

/-- The result that an earlier attempt of the same bind was given for this LAUNCH (R402): the child's tid. -/
def Task.launched (t : Task) : Option Nat :=
  match t.launches[t.replayAt]? with
  | some c => if c == 0 then none else some c
  | none => none

/-- Record the result of a task's next LAUNCH: the child's tid, or 0. -/
def Task.noteLaunch (t : Task) (c : Nat) : Task :=
  { t with launches := t.launches.take t.replayAt ++ [c] ++ t.launches.drop (t.replayAt + 1), replayAt := t.replayAt + 1 }

/-- D of an accepted LAUNCH (R188): status 0 and the child's tid. -/
def launchAccepted (tid : Nat) : W64 := BitVec.ofNat 64 (tid % 2 ^ 56 * 2 ^ 8)

/-- D of a refused LAUNCH (R188). -/
def launchRefused (r : Refused) : W64 := BitVec.ofNat 64 (r.status + r.code.toNat * 2 ^ 8)

/-- Step 5 of R187: the child is placed, or refused. -/
def Mach.placeChild (m : Mach) (cyc : Nat) (n : Fin 320) (b : Bound) (a : W64) (d : Desc) (x : Ext) : Mach × W64 :=
  match m.place cyc (launchRank n.val) (Task.fresh a d x (b.depth.toNat + 1) b.tid b.priv) with
  | (m, none) => (m.mapTask b.tid fun t => t.noteLaunch 0, launchRefused ⟨1, 0⟩)
  | (m, some tid) => (m.mapTask b.tid fun t => t.noteLaunch tid, launchAccepted tid)

/-- Steps 3-5 of R187 for the task on core `n`: the machine, and the value of D or what the reads have given while they wait. -/
def Mach.launchChild (m : Mach) (cyc : Nat) (n : Fin 320) (b : Bound) (a : W64) : Mach × Except (Option Nat) W64 :=
  match ((m.taskOf b.tid).bind Task.launched) with
  | some c => (m.mapTask b.tid fun t => t.noteLaunch c, .ok (launchAccepted c))
  | none =>
    match m.fetchTask cyc (bindAccess b (m.engine (.core n)).segs n.val) (some b.part.toNat) a (m.core n.val).x.descGot with
    | (m, .wait got) => (m, .error got)
    | (m, .bad r) => (m.mapTask b.tid fun t => t.noteLaunch 0, .ok (launchRefused r))
    | (m, .task d x) =>
      let (m, v) := m.placeChild cyc n b a d x
      (m, .ok v)

/-- Everything that happens before a LAUNCH of X has been performed at package scope (R117, R121, R187): the triples of UPDs that X
has synchronised with, through a semaphore or a tag besides the queue, among it. -/
def Mach.launchReady (m : Mach) (n : Fin 320) : Bool :=
  m.xReleased 2 n && decide ((m.core n.val).lastSem ≤ (m.core n.val).emit.freed)

/-- LAUNCH (R187-R189): its result is outstanding until LAUNCH_RESULT. -/
def execLaunch (g : Guard) (d a : SReg) (rp : PReg) (s : State) : Out :=
  onMach s fun k m =>
    let n := k.cur
    let c := m.core n.val
    if !guardHolds g c.x.p then m.setCore n.val { c with x := c.x.next k.cyc 8 }
    else if [d, a].any c.x.busy || c.x.launch.isSome then m
    else match c.task with
      | none => m
      | some b =>
        let addr := c.x.getS a
        if b.depth == 24 then m.takeTrap k n ⟨trLaunchDepth, 0, c.x.pc, addr, 24⟩
        else
          let x := c.x.await (.launch g d a rp) k.cyc
          if !m.launchReady n || !m.mayEnqueue k.cyc (launchRank n.val) then m.setCore n.val { c with x := x }
          else
            let (m, v) := (m.xTell 2 n).launchChild k.cyc n b addr
            let c := m.core n.val
            match v with
            | .error got => m.setCore n.val { c with x := { c.x with wait := x.wait, descGot := got } }
            | .ok v => m.setCore n.val { c with x := { c.x with wait := x.wait, launch := some ⟨d, rp, v⟩, descGot := none } }

/-- LAUNCH_RESULT (R189): D and the acceptance predicate are written, and X goes on. -/
def execLaunchResult (s : State) : Out :=
  onCore s fun k c =>
    if c.x.launch.isSome then { c.launchDone with x := { c.x.takeLaunch with ready := k.cyc + 1 } } else c

/-! ## DONE (R134, R190) -/

/-- DONE (R134, R190): X waits; L, C and S issue nothing more, and what they wait in is discarded. -/
def execDone (g : Guard) (s : State) : Out :=
  onCore s fun k c =>
    if !guardHolds g c.x.p then { c with x := c.x.next k.cyc 4 }
    else
      { c with
        x := c.x.await (.done g) k.cyc
        l := { c.l with wait := none, acc := none, ext := none }
        c := { c.c with wait := none, acc := none, ext := none }
        s := { c.s with wait := none, acc := none, ext := none }
        task := c.task.map fun b => { b with vstop := true, doneIssued := true } }

/-- X waits in DONE. -/
def Core.inDone (c : Core) : Bool :=
  match c.x.wait with
  | some ⟨.done _, _, _⟩ => true
  | _ => false

/-- Condition 1 of R134: every invocation has ended or stopped, and none is queued; TEND has executed once every command of its context
is complete (R257, R320). -/
def Engine.invocationsOver (g : Engine) : Bool := g.invq.isEmpty && g.ctxs.toList.all fun x => x.st == .free || x.st == .stopped

/-- A fault of a context waits to be delivered. -/
def Engine.faultWaits (g : Engine) (hm : Bool) : Bool := !hm && g.ctxs.toList.any fun x => x.fault.isSome

/-- The matrix engine holds nothing. -/
def MatEng.empty (g : MatEng) : Bool := g.run.isNone && g.queue.isEmpty && g.port.isEmpty

/-- Condition 3 of R134: what X, L, C and S have issued is complete, and the matrix engine holds nothing. -/
def Core.issuedDone (c : Core) : Bool := c.x.pend.isEmpty && c.s.store.isNone && c.emit.todo.isEmpty && c.mat.empty

/-- TASK_RETIREMENT (R134, R140): DONE completes on core `cur`. -/
def execTaskRetirement (s : State) : Out :=
  onMach s fun k m =>
    let n := k.cur
    let c := m.core n.val
    let g := m.engine (.core n)
    match c.task with
    | none => m
    | some b =>
      let ready := c.inDone && b.doneIssued && b.stop.isNone && g.invocationsOver && !g.faultWaits c.trap.hm && c.emit.count == 0 &&
        c.issuedDone && m.mayEnd k.cyc n b
      if ready then m.endTask k n.val b 1 TrapRegs.none else m

/-! ## Pre-emption (R395) -/

/-- Request the pre-emption of a core's task; a second request merges with the first (R401). -/
def Mach.requestPreempt (m : Mach) (n : Nat) : Mach := if m.preReqs.contains n then m else { m with preReqs := m.preReqs ++ [n] }

/-- The core to pre-empt for a passed-over candidate (R395): of the BOUND tasks of its partition with a lower priority, on a
core of its affinity, and without a request, the one of the lowest priority and then of the highest tid. For the task that yields an
equal priority counts as lower (R191). -/
def Mach.victim (m : Mach) (yielder : Option Nat) (t : Task) : Option Nat :=
  let ok (u : Task) : Option (Task × Nat) :=
    match m.coreOf u.tid with
    | some n =>
      let below := decide (u.prio < t.prio) || (yielder == some u.tid && u.prio == t.prio)
      if u.st == .bound && u.part == t.part && below && t.desc.affinity.getLsbD (n / 40) &&
        !m.preReqs.contains n then some (u, n) else none
    | none => none
  let better (a b : Task) : Bool := decide (a.prio < b.prio) || (a.prio == b.prio && decide (b.tid < a.tid))
  ((m.tasks.filterMap ok).foldl (fun (best : Option (Task × Nat)) x =>
    match best with
    | some y => if better x.1 y.1 then some x else best
    | none => some x) none).map (·.2)

/-- Pre-empt for each passed-over candidate in turn (R395). -/
def Mach.preemptFor (m : Mach) (yielder : Option Nat) (passed : List Task) : Mach :=
  passed.foldl (fun (m : Mach) t => match m.victim yielder t with
    | some n => m.requestPreempt n
    | none => m) m

/-! ## Selection (R393) -/

/-- The tid that places a candidate among those of its priority: a task saved by YIELD stands behind those that waited
then (R191, R393). -/
def Mach.placeTid (m : Mach) (t : Task) : Nat :=
  (m.tasks.filter fun u => t.behind.contains u.tid && u.candidate && u.prio == t.prio).foldl (fun a u => max a u.tid) t.tid

/-- The order of candidates (R393): replays, then the highest priority, then the lowest tid. -/
def Mach.before (m : Mach) (t u : Task) : Bool :=
  if t.replay != u.replay then t.replay
  else if t.prio != u.prio then decide (u.prio < t.prio)
  else
    let a := m.placeTid t
    let b := m.placeTid u
    decide (a < b) ||
      (a == b && (if t.behind.isEmpty == u.behind.isEmpty then decide (t.tid < u.tid) else t.behind.isEmpty))

/-- Insert a candidate in selection order. -/
def Mach.insertCand (m : Mach) (t : Task) : List Task → List Task
  | [] => [t]
  | u :: us => if m.before t u then t :: u :: us else u :: m.insertCand t us

/-- The candidates of a partition in selection order. -/
def Mach.candidates (m : Mach) (p : Nat) : List Task :=
  (m.tasks.filter fun t => t.part == p && t.candidate).foldl (fun l t => m.insertCand t l) []

/-- The core a candidate takes (R393): a warm one first, then the lowest number. -/
def Mach.chooseCore (m : Mach) (t : Task) : Option Nat :=
  match m.warmCore t with
  | some n => some n
  | none => (List.range 320).find? (m.eligible t)

/-- Write a candidate's bind record (R396, R402). -/
def Mach.writeBind (m : Mach) (t : Task) (n : Nat) : Mach :=
  let kind : BitVec 2 := if t.st == .saved then 1 else if t.replay then 2 else 0
  let r := BindRec.new t.tid t.descAddr (t.frame.getD 0) t.vers kind
  { m.unmoor t with slots := vset m.slots n r }.mapTask t.tid fun u => { u with st := .binding }

/-- One selection of a partition: each candidate in turn takes a core; those that find none are passed over. -/
def Mach.selectAll (m : Mach) : List Task → Mach × List Task
  | [] => (m, [])
  | t :: ts =>
    match m.chooseCore t with
    | some n => (m.writeBind t n).selectAll ts
    | none =>
      let (m, l) := m.selectAll ts
      (m, t :: l)

/-- The order of a yielded task holds for one selection only (R393). -/
def Mach.forgetYields (m : Mach) (p : Nat) : Mach :=
  { m with tasks := m.tasks.map fun t => if t.part == p && t.st == .saved then { t with behind := [] } else t }

/-- SELECTION (R393, R395): the partition `part`. Promotion, and the fast path, which keeps its cores from selection, have gone first
(R384). -/
def execSelection (s : State) : Out :=
  onMach s fun k m =>
    let p := k.occ.part.val
    let m := m.promoteAll
    if m.selStopped p then m
    else
      let cs := m.candidates p
      let (m, passed) := (m.forgetYields p).selectAll cs
      m.preemptFor none passed

/-- A tick whose count is a multiple of 16 falls in this clock. -/
def Ctl.window (k : Ctl) : Bool := k.cyc % 96 == 0 && k.tick % 16 == 0

/-- The candidates of a partition that no eligible core is free for, in selection order (R395). -/
def Mach.passedOver (m : Mach) (p : Nat) : List Task :=
  if m.selStopped p then [] else (m.candidates p).filter fun t => (m.chooseCore t).isNone

/-- PREEMPTION_EVALUATION (R395): once at each tick that is a multiple of 16. -/
def execPreemptionEvaluation (s : State) : Out :=
  onMach s fun k m =>
    if k.window && m.evalAt != k.tick + 1 then { m with evalAt := k.tick + 1 }.preemptFor none ((List.range 64).map m.passedOver).flatten
    else m

/-! ## YIELD (R191) -/

/-- X waits in YIELD for its pre-emption. -/
def Core.inYield (c : Core) : Bool :=
  match c.x.wait with
  | some ⟨.yield _, _, _⟩ => true
  | _ => false

/-- YIELD (R191, R395): the partition's evaluation is made at once; unless it pre-empts this task, X goes on. -/
def execYield (g : Guard) (s : State) : Out :=
  onMach s fun k m =>
    let n := k.cur.val
    let c := m.core n
    let on : Mach := m.setCore n { c with x := c.x.next k.cyc 4 }
    if !guardHolds g c.x.p then on
    else if c.inYield && m.preReqs.contains n then m
    else match c.task.bind fun b => m.taskOf b.tid with
      | none => on
      | some t =>
        let had := m.preReqs.contains n
        let m := m.preemptFor (some t.tid) (m.passedOver t.part)
        if had || !m.preReqs.contains n then m.setCore n { c with x := c.x.next k.cyc 4 }
        else
          let peers := (m.tasks.filter fun u => u.part == t.part && u.candidate && u.prio == t.prio).map (·.tid)
          let m := m.mapTask t.tid fun u => { u with behind := peers }
          m.setCore n { c with x := c.x.await (.yield g) k.cyc }

/-! ## Saving a task (R141, R400, R401) -/

/-- Bytes of a frame. -/
def frameBytes : Nat := 0x480000

/-- A free frame of a partition (R385, R400). -/
def Mach.freeFrame (m : Mach) (p : Nat) : Option Nat :=
  match (m.partition p).conf with
  | none => none
  | some f => ((List.range f.frameCnt).map fun i => f.frameBase + frameBytes * i).find? fun a => !m.frames.any fun x => x.1 == a

/-- The entries of cells in a range. -/
def Cells.slice (c : Cells) (a n : Nat) : Cells := c.filter fun p => decide (a ≤ p.1) && decide (p.1 < a + n)

/-- Cells without the entries in a range. -/
def Cells.clear (c : Cells) (a n : Nat) : Cells := c.filter fun p => !(decide (a ≤ p.1) && decide (p.1 < a + n))

/-- Lay `n` bytes of other cells, from their address `src` on, over a range. -/
def Cells.lay (c : Cells) (dst n : Nat) (from0 : Cells) (src : Nat) : Cells :=
  (from0.slice src n).foldl (fun (c : Cells) p => c.set (p.1 - src + dst) p.2) (c.clear dst n)

/-- Note the near-tier pages of a range as written (R421). -/
def Mach.noteRange (m : Mach) (a n : Nat) : Mach :=
  (List.range ((a + n + 0xFFFF) / 0x10000 - a / 0x10000)).foldl (fun (m : Mach) i => m.noteDirty (a + 0x10000 * i)) m

/-- Write the words of lanes one after the other. -/
def wrLanes (c : Cells) (a : Nat) : List W32 → Cells
  | [] => c
  | x :: xs => wrLanes (c.wr a 4 x.toNat) (a + 4) xs

/-- The bytes of an operand buffer in a frame (R141): data, scales, format tag. -/
def wrBuf (c : Cells) (a : Nat) (b : OpBuf) : Cells :=
  ((c.put a b.data).put (a + 24576) b.scales).wr (a + 25408) 1 (b.fmt.toNat + cond b.full 16 0)

/-- A suspension record's 32 bytes (R271). -/
def Susp.bytes (u : Susp) : Nat :=
  u.cause.toNat + u.sub.toNat * 2 ^ 8 + u.level * 2 ^ 16 + u.kind * 2 ^ 21 + u.cmd.toNat * 2 ^ 32 + u.ep.toNat * 2 ^ 64 +
    u.va.toNat * 2 ^ 128 + u.aux.toNat * 2 ^ 192

/-- What a frame shows of a context (R141, R256). -/
def Ctx.view (x : Ctx) : CtxView := ⟨x.a.toList, x.c.toList, x.tpc, x.ep, x.flag, x.status, x.susp.bytes⟩

/-- The discardable regions of a frame's task are not saved (R131, R141): their bytes of the image stay as they were. -/
def Frame.keepDiscards (f : Frame) (old c : Cells) (a : Nat) : Cells :=
  match f.core.task with
  | some b => b.ext.discs.foldl (fun c d => c.lay (a + 0x80000 + d.spOff) d.len old (a + 0x80000 + d.spOff)) c
  | none => c

/-- The frame's bytes (R141): the header and the contexts, whose layout the spec leaves open, tiles, accumulators, operand buffers, the
invocation queue, the drain unit's record, the scratchpad image but for discardable regions (log entry 10). -/
def Frame.bytes (f : Frame) (c0 : Cells) (a : Nat) : Cells :=
  let c := c0.clear a frameBytes
  let c := c.put a ((List.range 0x4000).map (Config.frameHeader f))
  let c := f.ctxs.toList.zipIdx.foldl
    (fun c p => c.put (a + 0x56000 + 0x400 * p.2) ((List.range 0x400).map (Config.frameContext p.1.view))) c
  let c := (List.range 16).foldl (fun c i => wrLanes c (a + 0x4000 + 0x1000 * i) (f.core.tile i).toList) c
  let c := (List.range 4).foldl (fun c i => wrLanes c (a + 0x14000 + 0x4000 * i) (f.core.accum i).toList) c
  let bufs := f.core.oa.toList ++ f.core.ob.toList
  let c := bufs.zipIdx.foldl (fun c p => wrBuf c (a + 0x24000 + 0x6400 * p.2) p.1) c
  let c := f.invq.zipIdx.foldl
    (fun c p => c.wr (a + 0x57000 + 16 * p.2) 16 (p.1.1.toNat + p.1.2.toNat * 2 ^ 64)) c
  let c := c.wr (a + 0x57100) 8 f.invq.length
  let c := c.wr (a + 0x57200) 32 ((f.drain.susp.getD Susp.none).bytes)
  f.keepDiscards c0 (c.lay (a + 0x80000) 0x400000 f.core.sp 0) a

/-- What must arrive before a saved task is bound again (R275): the ASID and address of each suspended context; for the
drain unit the mark 512 and its region's address. -/
def frameWaits (f : Frame) (asid : Nat) : List (Nat × Nat) :=
  ((f.ctxs.toList.filter fun x => x.st == .suspended).map fun x => (asid, x.susp.va.toNat)) ++
    (match f.drain.susp with
     | some u => [(512, u.va.toNat)]
     | none => [])

/-- A core whose task stops for its pre-emption (R400): the sequencers stop and a YIELD completes; a DONE whose conditions are not met
waits on, so that the task may still retire until it is saved. -/
def Core.haltSeqs (c : Core) : Core :=
  let d := c.stopSeqs
  { d with
    x := if c.inYield then { d.x with pc := d.x.pc + 4 } else if c.inDone then { d.x with wait := c.x.wait } else d.x
    task := d.task.map fun b => { b with running := false } }

/-- Steps 1-3 of R400: a transfer fault that is pending is delivered first (R401); the sequencers stop, and the
contexts stop at an element boundary: until it is saved, the task does not run. -/
def Mach.haltTask (m : Mach) (k : Ctl) (n : Fin 320) : Mach :=
  let m := m.deliverFault k n
  m.setCore n.val (m.core n.val).haltSeqs

/-- A core as its frame holds it: a DONE counts as not issued (R401). -/
def Core.saved (c : Core) : Core := { c.mergeNew with x := { c.mergeNew.x with wait := none } }

/-- The frame of a core's task that has stopped (R141, R401): contexts at an element boundary. -/
def Mach.frameOf (m : Mach) (n : Fin 320) : Frame :=
  let g := m.engine (.core n)
  ⟨(m.core n.val).saved, g.ctxs.map Ctx.saved, g.invq, g.drain⟩

/-- Save the task of a core that has stopped to a frame and free the core (R400 steps 5 and 6). -/
def Mach.saveTask (m : Mach) (k : Ctl) (n : Fin 320) (b : Bound) (a : Nat) : Mach :=
  let f := m.frameOf n
  let m := { m with mem := f.bytes m.mem a, frames := m.frames ++ [(a, f)] }.noteRange a frameBytes
  let m := m.freeCore n.val
  m.mapTask b.tid fun t => { t with
    st := .saved
    frame := some a
    ticks := t.ticks + (k.tick - b.tick0)
    waitDoorbell := frameWaits f b.asid.toNat }

/-- The task of a core is stopped for its pre-emption. -/
def Mach.halted (m : Mach) (k : Ctl) (n : Fin 320) : Mach := if (m.core n.val).task.any (·.running) then m.haltTask k n else m

/-- What a core's task has issued before it stopped is complete: the words of its sequencers, the writes of its contexts, the triples in
flight (R400 steps 2-4); no trap is about to be taken. -/
def Mach.stoppedDone (m : Mach) (n : Fin 320) (b : Bound) : Bool :=
  b.stop.isNone && (m.core n.val).wordsDone && (m.engine (.core n)).posts.isEmpty && (m.engine (.core n)).drain.settled

/-- Carry out a request (R400): the task stops; what it has issued completes, and a fault that has waited for that is delivered (R107,
R401); step 5 waits for a free frame. -/
def Mach.preempt (m0 : Mach) (k : Ctl) (n : Fin 320) : Mach :=
  let m := m0.halted k n
  match (m.core n.val).task with
  | none => m
  | some b =>
    if !m.stoppedDone n b then m
    else if (m.engine (.core n)).faultWaits (m.core n.val).trap.hm then m.deliverFault k n
    else match m.freeFrame b.part.toNat with
      | none => m
      | some a => m.saveTask k n b a

/-- PREEMPTION (R400, R401): core `cur` has a request and runs a task. -/
def execPreemption (s : State) : Out :=
  onMach s fun k m => if m.preReqs.contains k.cur.val then m.preempt k k.cur else m

/-- The clocks of the swap-out time T (R274, R385): SWAPT in microseconds, 0 means 20. -/
def Mach.swapClocks (m : Mach) (p : Nat) : Nat :=
  match (m.partition p).conf with
  | some f => (if f.swapT == 0 then 20 else f.swapT) * 1500
  | none => 20 * 1500

/-- A sequencer is halted, stopped, or waits in a word (R199, R274, R353). -/
def Core.quietSeq (c : Core) (b : Bound) (q : SeqName) : Bool :=
  (c.waitOf q).isSome || (q != .x && (b.vstop || decide (b.endOf q ≤ (c.pcOf q).toNat)))

/-- The conditions of R274: a context, or the drain unit (R359), is suspended, and every sequencer is halted or waits. -/
def Mach.swapReady (m : Mach) (n : Fin 320) : Bool :=
  let c := m.core n.val
  let g := m.engine (.core n)
  match c.task with
  | none => false
  | some b => (g.drain.susp.isSome || g.ctxs.toList.any fun x => x.st == .suspended) &&
      [SeqName.x, .l, .c, .s].all (c.quietSeq b)

/-- SWAP_OUT (R274): the conditions have held on core `cur` for T; it runs the way a pre-emption does (R400). -/
def execSwapOut (s : State) : Out :=
  onMach s fun k m =>
    let n := k.cur.val
    match (m.core n).task, vget m.swapSince n none with
    | some b, some t => if t + m.swapClocks b.part.toNat ≤ k.cyc && m.swapReady k.cur then (m.requestPreempt n).preempt k k.cur else m
    | _, _ => m

end Sys2Proof.Machine
end

