-- ==== Sys2Proof/Machine/XferColl.lean ====
section
/-!
DEFINITION. Machine/XferColl.lean: the collectives (R123, R307, R308; notes/assumptions/28.md).
-/

namespace Sys2Proof.Machine

/-! ## A participant -/

/-- Kind and operator of a COLL (R308). -/
def collKind (w : TArgs) : Nat := w.fn.toNat % 8
def collOp (w : TArgs) : Nat := w.fn.toNat / 8

/-- The operator code of R290 for an operator of COLL. -/
def collCombine (op : Nat) : Nat := if op ≤ 2 then op else op + 1

/-- The bits of a collective's elements: the operator's type for kinds 0 and 1, the record's format for the others. -/
def collBits (kind : Nat) (r : Shape) : Nat := if kind ≤ 1 then 32 else r.width

/-- The record meets the limits of R290 and R308. -/
def collRecordOk (kind np : Nat) (r : Shape) : Bool :=
  (decide (2 ≤ kind) || r.fmt == 0) && (kind == 0 || kind == 3 || r.bound (r.rank - 1) % np == 0)

/-- A participant's entry in a group descriptor names an engine of the package (R307). -/
def partNames (m : Mach) (e : EngineId) (v : Nat) : Bool :=
  m.pkgIsOwn (v % 256) && v / 256 % 16 == engineDie e && v / 4096 % 64 == engineLocal e && decide (engineDie e < 8)

/-- An entry of a group descriptor is well formed. -/
def partOk (v : Nat) : Bool := decide (v < 2 ^ 18) && decide (v / 256 % 16 < 8) && decide (v / 4096 < 48)

/-- A participant as its command holds it. `vals` are GID, which COLL of the group it is, NP, ME, the status and the NP
participants. Status: 0 waits for the exchange, 1 its descriptor breaks R307, 2 the participants have exchanged, 3 its record
breaks R92, R278 or R308. -/
structure CollView where
  gid : Nat
  nth : Nat
  np : Nat
  me : Nat
  status : Nat
deriving DecidableEq, Repr

/-- The view of a command. -/
def Cmd.coll (c : Cmd) : CollView :=
  let v (i : Nat) : Nat := (c.vals[i]?).getD 0
  ⟨v 0, v 1, v 2, v 3, v 4⟩

/-- A participant whose descriptor or record ends the collective. -/
def CollView.bad (v : CollView) : Bool := v.status == 1 || v.status == 3

/-- The participants have exchanged. -/
def Cmd.exchanged (c : Cmd) : Bool := c.coll.status == 2

/-- COLLs that an engine has started in a group. -/
def Mach.collStarted (m : Mach) (gid eng : Nat) : Nat :=
  ((m.collSeen.find? fun x => x.1 == gid && x.2.1 == eng).map (·.2.2)).getD 0

/-- The `nth` collective of a group, once its participants have exchanged or it has failed. -/
def Mach.collRun (m : Mach) (gid nth : Nat) : Option CollRun := m.colls.find? fun r => r.gid == gid && r.nth == nth

/-- Change a collective. -/
def Mach.setRun (m : Mach) (r : CollRun) : Mach :=
  { m with colls := m.colls.map fun x => if x.gid == r.gid && x.nth == r.nth then r else x }

/-- A collective of a group ended with a fault at the participants that had started (R307). -/
def Mach.collFailed (m : Mach) (gid nth : Nat) : Bool := ((m.collRun gid nth).map (·.failed)).getD false

/-- The stop of a participant of a collective that fails (R307): the record's address when its own record is at fault, else the
descriptor's. -/
def Cmd.collStop (c : Cmd) (w : TArgs) : TStop := shapeFault (c.reg (if c.coll.status == 3 then w.h else w.x))

/-- The start of a COLL (R307): a descriptor or record that breaks a rule takes part, and ends the collective. The receive
elements are followed by the wait for every participant's writes (R123). A collective that includes a package which is reached no
longer ends with ACCESS_RIGHTS (R413). -/
def collStart (w : TArgs) (A : Access) (m : Mach) (c : Cmd) : Except TStop (Mach × Cmd) := do
  let (m, hv) ← m.readPlain A c 0 (c.base w.h) 192
  let h := Shape.parse hv
  let (m, d) ← m.readPlain A c 0 (c.base w.x) 8
  let gid := fld d 0 4
  let np := fld d 4 1
  let me := fld d 5 1
  let (m, ps) ← m.readList A c (c.base w.x + 8) (if 64 < np then 0 else np)
  match A.eng with
  | none => .error (shapeFault (c.reg w.x))
  | some e =>
    if ps.any fun v => !m.pkgIsOwn (v % 256) && m.pkgLost (v % 256) then .error (accFault c 0 trAccess (c.reg w.d)) else
    let bad := fld d 6 2 != 0 || decide (np < 2) || decide (64 < np) || decide (np ≤ me) || !ps.all partOk ||
      !partNames m e ((ps[me]?).getD 0)
    let fit := h.valid && !h.isRagged && collRecordOk (collKind w) np h
    let nth := m.collStarted gid (engineIndex e)
    let m := { m with collSeen :=
      (gid, engineIndex e, nth + 1) :: m.collSeen.filter fun x => !(x.1 == gid && x.2.1 == engineIndex e) }
    let n := if collKind w == 1 then h.count / np else h.count
    .ok (m, { c with recd := h, total := n + 1, vals := [gid, nth, np, me, if bad then 1 else if fit then 0 else 3] ++ ps })

/-! ## The other participants -/

/-- A participant of the package: its engine, its context, its command and its word. -/
structure Partic where
  eng : EngineId
  ctx : Fin 4
  cmd : Cmd
  word : TArgs
deriving DecidableEq, Repr

/-- Every transfer engine. -/
def allEngines : List EngineId :=
  (List.finRange 320).map EngineId.core ++ ((List.finRange 8).map fun d => (List.finRange 8).map fun k => EngineId.die d k).flatten ++
    ((List.finRange 2).map fun d => (List.finRange 16).map fun k => EngineId.far d k).flatten

/-- The participants of the package in the `nth` collective of a group whose contexts satisfy a test. -/
def Mach.partics (m : Mach) (gid nth : Nat) (ok : Ctx → Cmd → Bool) : List Partic :=
  (allEngines.map fun e => (List.finRange 4).filterMap fun n =>
    let x := m.ctx e n
    match x.cmd with
    | some c => match c.word with
      | .coll w => if c.started && c.coll.gid == gid && c.coll.nth == nth && ok x c then some ⟨e, n, c, w⟩ else none
      | _ => none
    | none => none).flatten

/-- The participants that wait in the `nth` collective of a group. -/
def Mach.waiting (m : Mach) (gid nth : Nat) : List Partic := m.partics gid nth fun x c => x.hold == .coll && !c.exchanged

/-- The participant of a rank, when it can send (R308): it runs, and nothing holds it. -/
def Mach.sender (m : Mach) (gid nth r : Nat) : Option Partic :=
  (m.partics gid nth fun x c => c.exchanged && c.coll.me == r && x.st == .running && x.hold == .none).head?

/-- Read element `n` of a participant's send buffer, for the element of context `k`, which keeps it. -/
def Mach.readSend (m : Mach) (k : Ctl) (p : Partic) (n : Nat) : Except TStop (Mach × Nat) := do
  let r := p.cmd.recd
  let wd := collBits (collKind p.word) r
  let A := { m.access { k with eng := p.eng, ctx := p.ctx } p.cmd with keep := some (k.eng, k.ctx.val) }
  let s ← m.reachBits A .read p.cmd (m.ctx p.eng p.ctx).ep.toNat (p.cmd.base p.word.s) (r.bitAt wd (r.indices n)) wd
  m.readBits A s

/-- Elements of the ranks' send buffers, each a rank and a number; else the participant that stops or must wait. A rank that
cannot send makes the reader wait (R308). -/
def Mach.readSends (m : Mach) (k : Ctl) (c : Cmd) (peers : List CollPeer) : List (Nat × Nat) → Except (Option (Partic × TStop)) (Mach × List Nat)
  | [] => .ok (m, [])
  | (r, n) :: l =>
    match peers.find? (·.rank == r) with
    | some q => match m.readSends k c peers l with
      | .error x => .error x
      | .ok (m, vs) => .ok (m, (q.send[n]?).getD 0 :: vs)
    | none => match m.sender c.coll.gid c.coll.nth r with
      | none => .error none
      | some p => match m.readSend k p n with
        | .error t => .error (some (p, t))
        | .ok (m, v) => match m.readSends k c peers l with
          | .error x => .error x
          | .ok (m, vs) => .ok (m, v :: vs)

/-- A participant's own stop at the element it stands at (R308): a fault ends its command, a walk holds it. -/
def Mach.stopSender (m : Mach) (p : Partic) : TStop → Mach
  | .fault code i0 i1 => m.faultCtx p.eng p.ctx p.cmd code i0 i1
  | .miss va kind => m.keepCmd p.eng p.ctx p.cmd (m.ctx p.eng p.ctx).ep.toNat (.walk va kind)
  | .hold _ => m
  | .later _ _ => m

/-! ## Receive elements (R308) -/

/-- The reduction of the ranks' elements, in ascending rank (R308). -/
def collReduce (op : Nat) : List Nat → Nat × Flags
  | [] => (0, 0)
  | x :: xs =>
    if op == 1 then
      let (v, f) := ((x :: xs).foldl (fun (a : LongAcc) y => a.addF32 (BitVec.ofNat 32 y)) LongAcc.empty).readout
      (v.toNat, f)
    else combineAll (collCombine op) x xs

/-- What the receive element `e` of rank `me` is made of (R308): ranks and elements of their send buffers. -/
def collSources (kind np me total e : Nat) : List (Nat × Nat) :=
  let chunk := total / np
  match kind with
  | 0 => (List.range np).map fun r => (r, e)
  | 1 => (List.range np).map fun r => (r, me * chunk + e)
  | 2 => [(e / chunk, e)]
  | 3 => [(0, e)]
  | _ => [(e / chunk, me * chunk + e % chunk)]

/-- The value of a receive element from its sources. -/
def collValue (kind op : Nat) (vs : List Nat) : Nat × Flags :=
  if kind ≤ 1 then collReduce op vs else ((vs[0]?).getD 0, 0)

/-- A participant has performed its writes; it completes with the last one (R123). -/
def collLast (k : Ctl) (m : Mach) (c : Cmd) (r : CollRun) : Except TStop (Mach × Cmd × After) :=
  if (m.engine k.eng).cmdOut k.eng 3 k.ctx.val c.id then .error (.hold .none)
  else
    let done := if r.done.contains c.coll.me then r.done else c.coll.me :: r.done
    let m := m.setRun { r with done := done }
    let all := (r.peers.isEmpty || r.peersDone) && decide (c.coll.np ≤ done.length + r.peers.length)
    .ok (m, c, if all then .next else .again)

/-- One receive element (R123, R308): the send elements it is made of are read, each by its own participant; kinds 0 and 1 write
it as a read-modify-write of the home (R107, R290). -/
def collElem (w : TArgs) (k : Ctl) (A : Access) (m : Mach) (c : Cmd) (e : Nat) : Except TStop (Mach × Cmd × After) :=
  if m.collFailed c.coll.gid c.coll.nth then .error (c.collStop w)
  else if !c.exchanged then .error (.hold .coll)
  else match m.collRun c.coll.gid c.coll.nth with
    | none => .error (.hold .coll)
    | some r =>
      if c.total ≤ e + 1 then collLast k m c r
      else
        let kind := collKind w
        let wd := collBits kind c.recd
        let n := if kind == 1 then c.coll.me * (c.total - 1) + e else e
        match m.reachBits A (if kind ≤ 1 then AccKind.rmw false else .write) c e (c.base w.d) (c.recd.bitAt wd (c.recd.indices n)) wd with
        | .error t => .error t
        | .ok d => match m.readSends k c r.peers (collSources kind c.coll.np c.coll.me c.recd.count e) with
          | .error none => .error (.hold .none)
          | .error (some (_, .later m h)) => .error (.later m h)
          | .error (some (p, t)) =>
            if p.eng == k.eng && p.ctx == k.ctx then .error t else .ok (m.stopSender p t, c, .again)
          | .ok (m, vs) =>
            let (v, f) := collValue kind (collOp w) vs
            let c := { c with flags := c.flags ||| f }
            if 1 < kind then .ok (m.writeBits A d v, c, .next)
            else match m.mayRmw A d.addr d.parts with
              | .error t => .error t
              | .ok _ => .ok (m.writeNow A d.addr d.parts v, c, .next)

/-- COLL (R307, R308). -/
def collSpec (w : TArgs) : CmdSpec where
  regs := [w.d, w.s, w.h, w.x]
  start := collStart w
  elem := collElem w

/-- COLL (R307, R308). -/
def execColl (w : TArgs) (s : State) : Out := dataWord s (.coll w) false w (collSpec w)

/-! ## The exchange -/

/-- The exchanged values agree: kind, operator, NP and bounds, one participant for each rank (R307). -/
def collAgree (ps : List Partic) (peers : List CollPeer) : Bool :=
  match ps with
  | [] => false
  | p :: _ =>
    let np := p.cmd.coll.np
    let ranks := ps.map (fun q => q.cmd.coll.me) ++ peers.map (·.rank)
    (ps.all fun q => !q.cmd.coll.bad && q.word.fn == p.word.fn && q.cmd.coll.np == np && q.cmd.recd.rank == p.cmd.recd.rank &&
        q.cmd.recd.bounds == p.cmd.recd.bounds) &&
      (peers.all fun q => q.kind == collKind p.word && q.op == collOp p.word && q.np == np && q.bounds == p.cmd.recd.bounds) &&
      ranks.length == np && (List.range np).all fun r => ranks.contains r

/-- Every participant that one of the started ones counts has started, or a descriptor or record that breaks a rule ends the
collective. -/
def collStartedAll (ps : List Partic) (peers : List CollPeer) : Bool :=
  ps.any fun p => p.cmd.coll.bad || decide (p.cmd.coll.np ≤ ps.length + peers.length)

/-- A participant goes on to its receive elements. -/
def Mach.startPartic (m : Mach) (p : Partic) : Mach :=
  m.keepCmd p.eng p.ctx { p.cmd with vals := p.cmd.vals.take 4 ++ [2] ++ p.cmd.vals.drop 5 } 0 .none

/-- A participant stops at a collective that fails (R307). -/
def Mach.failPartic (m : Mach) (p : Partic) : Mach :=
  (m.setCtx p.eng p.ctx { m.ctx p.eng p.ctx with ep := 0 }).stopSender p (p.cmd.collStop p.word)

/-- COLL_EXCHANGE (R123, R307): the participants that have started exchange their parameters and go on to their receive
elements, or the collective ends at every one with SHAPE_INVALID; `num` 1: the peers' participants have performed their writes. -/
def execCollExchange (s : State) : Out :=
  onMach s fun k m =>
    let gid := k.occ.gid.toNat
    let ps := m.waiting gid k.occ.k
    let peers := k.occ.peers
    match m.collRun gid k.occ.k with
    | some r => if k.occ.num == 1 then m.setRun { r with peersDone := true } else m
    | none =>
      if !collStartedAll ps peers then m
      else
        let ok := collAgree ps peers
        let m := { m with colls := ⟨gid, k.occ.k, !ok, peers, [], false⟩ :: m.colls }
        ps.foldl (fun m p => if ok then m.startPartic p else m.failPartic p) m

end Sys2Proof.Machine
end

