-- ==== Sys2Proof/Machine/XferMove.lean ====
section
/-!
DEFINITION. Machine/XferMove.lean: the commands that move, reshape and convert (R281-R289).
-/

namespace Sys2Proof.Machine

/-! ## Padded positions (R93, R282) -/

/-- Blocks of a record in layout 1. -/
def Shape.blocks (r : Shape) : Nat := (r.lines + 63) / 64 * r.kBlocks

/-- Positions of partial blocks outside the bounds, when the record has layout 1 and PAD set. -/
def Shape.padCount (r : Shape) : Nat := if r.layout == 1 && r.pad then r.blocks * 6144 - r.count else 0

/-- The `p`-th padded position in ascending address order, from block `b` on: its line and K position. -/
def Shape.padFind (r : Shape) : Nat → Nat → Nat → Nat × Nat
  | 0, _, _ => (0, 0)
  | n + 1, b, p =>
    let g := b / r.kBlocks
    let kb := b % r.kBlocks
    let inb := min 64 (r.lines - 64 * g)
    let pk := if kb + 1 == r.kBlocks then 96 * r.kBlocks - r.bound 0 else 0
    if p < inb * pk then (64 * g + p / pk, 96 * kb + 96 - pk + p % pk)
    else
      let q := p - inb * pk
      if q < (64 - inb) * 96 then (64 * g + inb + q / 96, 96 * kb + q % 96)
      else r.padFind n (b + 1) (q - (64 - inb) * 96)

/-- The `p`-th padded position. -/
def Shape.padAt (r : Shape) (p : Nat) : Nat × Nat := r.padFind r.blocks 0 p

/-- FILL as a padded position receives it: bits [12:0] of an E8M10 container are written as zero (R69, R91). -/
def Shape.fillBits (r : Shape) : Nat := if r.fmt == 1 then r.fill.toNat / 2 ^ 13 * 2 ^ 13 else r.fill.toNat

/-- Write FILL at a padded position. -/
def Mach.writePad (m : Mach) (A : Access) (c : Cmd) (e : Nat) (base : Int) (r : Shape) (p : Nat) : Except TStop Mach := do
  let (l, k) := r.padAt p
  let d ← m.reachBits A .write c e base (r.blockBit l k) r.width
  .ok (m.writeBits A d r.fillBits)

/-! ## COPY and XPOSE (R281, R282) -/

/-- COPY (R281). -/
def copySpec (w : TArgs) : CmdSpec where
  regs := [w.d, w.s, w.h]
  start A m c := do
    let (m, h) ← m.recordAt A c w.h fun _ => true
    .ok (m, { c with recd := h, total := h.count })
  elem _ A m c e := do
    let ix := c.recd.indices e
    let s ← m.reachBits A .read c e (c.base w.s) (c.recd.bitOff ix) c.recd.width
    let d ← m.reachBits A .write c e (c.base w.d) (c.recd.bitOff ix) c.recd.width
    let (m, v) ← m.readBits A s
    .ok (m.writeBits A d v, c, .next)

/-- COPY (R281). -/
def execCopy (w : TArgs) (s : State) : Out := dataWord s (.copy w) false w (copySpec w)

/-- Exchange the first two indices. -/
def swap01 : List Nat → List Nat
  | a :: b :: t => b :: a :: t
  | l => l

/-- The bounds of two records are transposed (R282). -/
def Shape.transposed (a b : Shape) : Bool :=
  let f (r : Shape) (n : Nat) : Nat := (r.bounds[n]?).getD 0
  f b 0 == f a 1 && f b 1 == f a 0 && (List.range 4).all fun n => f b (n + 2) == f a (n + 2)

/-- XPOSE (R282): `recd` is the destination's record. -/
def xposeSpec (w : TArgs) : CmdSpec where
  regs := [w.d, w.s, w.h, w.x]
  start A m c := do
    let (m, s) ← m.recordAt A c w.h fun r => r.fmt == w.sfmt.toNat
    let (m, d) ← m.recordAt A c w.x fun r => r.fmt == w.sfmt.toNat && r.rank == s.rank && s.transposed r
    .ok (m, { c with recd := d, rec2 := s, total := d.count + d.padCount })
  elem _ A m c e := do
    if c.recd.count ≤ e then
      let m ← m.writePad A c e (c.base w.d) c.recd (e - c.recd.count)
      .ok (m, c, .next)
    else
      let ix := c.recd.indices e
      let s ← m.reachBits A .read c e (c.base w.s) (c.rec2.bitOff (swap01 ix)) c.rec2.width
      let d ← m.reachBits A .write c e (c.base w.d) (c.recd.bitOff ix) c.recd.width
      let (m, v) ← m.readBits A s
      .ok (m.writeBits A d v, c, .next)

/-- XPOSE (R282). -/
def execXpose (w : TArgs) (s : State) : Out := dataWord s (.xpose w) false w (xposeSpec w)

/-! ## CONV (R283, R284) -/

/-- Transfer commands round with RNE and flush nothing (R279). -/
def xferFp : Fp := ⟨.rne, false, false⟩

/-- The random word of a stochastic conversion at an element (R79). -/
def Shape.srWord (r : Shape) (n : Nat) : W32 := (zcg r.srKey r.srStream (BitVec.ofNat 96 (r.srBase.toNat + n))).1

/-- The sign bit of an element of a format. -/
def signBit (code b : Nat) : Bool := b.testBit (fmtBits code - 1)

/-- The places of a group's scale byte, and of its band scale when the group is the first of a band. -/
def Mach.reachScales (m : Mach) (A : Access) (c : Cmd) (e : Nat) (r : Shape) (l k : Nat) :
    Except TStop (Int × Parts × Option (Int × Parts)) := do
  let sa : Int := (r.scBase.toNat : Int) + r.scaleOff l k
  let ps ← m.reach A .write 1 c e sa 1
  if r.fmt == 15 && l % 64 == 0 && k == 0 then
    let ba : Int := (r.bandBase.toNat : Int) + bandOff l
    let qs ← m.reach A .write 1 c e ba 2
    .ok (sa, ps, some (ba, qs))
  else .ok (sa, ps, none)

/-- Write a scale byte, and a band scale of BF16 1.0. -/
def Mach.writeScales (m : Mach) (A : Access) (p : Int × Parts × Option (Int × Parts)) (v : Nat) : Mach :=
  let m := match p.2.2 with
    | some (a, qs) => m.writePlain A a qs 0x3F80
    | none => m
  m.writePlain A p.1 p.2.1 v

/-- One element of a block-scaled CONV: the first of a group computes the group's scale and codes, which are kept as
64 × code + flags. -/
def convScaled (w : TArgs) (A : Access) (m : Mach) (c : Cmd) (e : Nat) : Except TStop (Mach × Cmd × After) := do
  let r := c.recd
  let ix := r.indices e
  let l := r.lineOf ix
  let k := (ix[0]?).getD 0
  let d ← m.reachBits A .write c e (c.base w.d) (r.bitOff ix) r.width
  let sw := fmtBits w.sfmt.toNat
  let (m, c) ← if k % r.group != 0 then Except.ok (m, c) else do
    let p ← m.reachScales A c e r l k
    let (m, bs) ← m.readDense A c e (c.base w.s) sw e (min r.group (r.bound 0 - k))
    let vs := bs.map (elemVal w.sfmt.toNat)
    let (sc, bad) := groupScale r.fmt vs
    let code (x : Nat × Nat) : Nat :=
      let u := if w.fn.getLsbD 0 then some (r.srWord (e + x.2)) else none
      let (b, f) := groupCode r.fmt sc .rne u (signBit w.sfmt.toNat x.1) (elemVal w.sfmt.toNat x.1)
      64 * b + f.toNat
    .ok (m.writeScales A p sc, { c with flags := c.flags ||| fIf bad fNV, vals := bs.zipIdx.map code })
  let x := (c.vals[k % r.group]?).getD 0
  .ok (m.writeBits A d (x / 64), { c with flags := c.flags ||| BitVec.ofNat 6 x }, .next)

/-- The `p`-th padded position of a CONV, as element `e`: FILL, and the scale of a group that lies outside the bounds (R88). -/
def convPad (w : TArgs) (A : Access) (m : Mach) (c : Cmd) (e p : Nat) : Except TStop (Mach × Cmd × After) := do
  let r := c.recd
  let (l, k) := r.padAt p
  if 11 ≤ r.fmt && k % r.group == 0 then
    let q ← m.reachScales A c e r l k
    let m ← m.writePad A c e (c.base w.d) r p
    .ok (m.writeScales A q r.padScale, c, .next)
  else
    let m ← m.writePad A c e (c.base w.d) r p
    .ok (m, c, .next)

/-- CONV, dense kind (R283). -/
def convSpec (w : TArgs) : CmdSpec where
  regs := [w.d, w.s, w.h]
  start A m c := do
    let (m, h) ← m.recordAt A c w.h fun r => r.fmt == w.dfmt.toNat
    .ok (m, { c with recd := h, total := h.count + h.padCount })
  elem _ A m c e := do
    let r := c.recd
    if r.count ≤ e then convPad w A m c e (e - r.count)
    else if 11 ≤ r.fmt then convScaled w A m c e
    else
      let sw := fmtBits w.sfmt.toNat
      let s ← m.reachBits A .read c e (c.base w.s) ((e * sw : Nat) : Int) sw
      let d ← m.reachBits A .write c e (c.base w.d) (r.bitOff (r.indices e)) r.width
      let (m, b) ← m.readBits A s
      let u := if w.fn.getLsbD 0 && r.fmt != 0 then some (r.srWord e) else none
      let (v, f) := convElem xferFp r.fmt u (elemVal w.sfmt.toNat b)
      .ok (m.writeBits A d v, { c with flags := c.flags ||| f }, .next)

/-- CONV, dense (R283). -/
def execConv (w : TArgs) (s : State) : Out := dataWord s (.conv w) false w (convSpec w)

/-- An element's bits as a compacting CONV takes them: bits [12:0] of an E8M10 container are ignored and written as zero (R69,
R89). -/
def e8m10Bits (fmt v : Nat) : Nat := if fmt == 1 then v / 2 ^ 13 * 2 ^ 13 else v

/-- CONV to zero-plane (R284): a block is written at its first element. `vals` holds the byte position of the next
block. -/
def convZpSpec (w : TArgs) : CmdSpec where
  regs := [w.d, w.s, w.h]
  start A m c := do
    let (m, h) ← m.recordAt A c w.h fun r => r.fmt == w.dfmt.toNat && r.zplane && r.layout == 0 && r.dense
    .ok (m, { c with recd := h, total := h.count, vals := [0] })
  elem _ A m c e := do
    if e % 64 != 0 then .ok (m, c, .next)
    else
      let pos : Nat := (c.vals[0]?).getD 0
      let (m, es) ← m.readDense A c e (c.base w.s) c.recd.width e (min 64 (c.total - e))
      if 2 ^ 32 ≤ pos then .error (accFault c e trCompact 0)
      else
        let (n, v) := zpBlock c.recd.width (es.map (e8m10Bits c.recd.fmt))
        let a := c.base w.d + (pos : Int)
        let ps ← m.reach A .write 1 c e a n
        .ok (m.writePlain A a ps v, { c with vals := [pos + n] }, .next)

/-- CONV, zero-plane (R284). -/
def execConvZp (w : TArgs) (s : State) : Out := dataWord s (.convZp w) false w (convZpSpec w)

/-- CONV to fibre arrays (R284). `vals` holds OFFS, CRDS, VALS and the entries written. -/
def convFibSpec (w : TArgs) : CmdSpec where
  regs := [w.d, w.s, w.h]
  start A m c := do
    let (m, h) ← m.recordAt A c w.h fun r => r.fmt == w.dfmt.toNat && r.rank == 2 && r.layout == 0 && r.dense
    let (m, v) ← m.readPlain A c 0 (c.base w.d) 24
    .ok (m, { c with recd := h, total := h.count, vals := [fld v 0 8, fld v 8 8, fld v 16 8, 0] })
  elem _ A m c e := do
    let r := c.recd
    let at0 (i : Nat) : Int := (((c.vals[i]?).getD 0 : Nat) : Int)
    let p := (c.vals[3]?).getD 0
    let col := e % r.bound 0
    let row := e / r.bound 0
    let n := r.width / 8
    let s ← m.reachBits A .read c e (c.base w.s) ((e * r.width : Nat) : Int) r.width
    let (m, b) ← m.readBits A s
    let v := e8m10Bits r.fmt b
    let p' := if v == 0 then p else p + 1
    let last := col + 1 == r.bound 0
    if 2 ^ 32 ≤ col || (last && decide (2 ^ 32 ≤ p')) then .error (accFault c e trCompact 0)
    else
      let first : List (Int × Nat × Nat) := if e == 0 then [(at0 0, 4, 0)] else []
      let entry : List (Int × Nat × Nat) :=
        if v == 0 then [] else [(at0 1 + ((4 * p : Nat) : Int), 4, col), (at0 2 + ((n * p : Nat) : Int), n, v)]
      let stop : List (Int × Nat × Nat) := if last then [(at0 0 + ((4 * (row + 1) : Nat) : Int), 4, p')] else []
      let ws ← (first ++ entry ++ stop).mapM fun (x : Int × Nat × Nat) => do
        let ps ← m.reach A .write 1 c e x.1 x.2.1
        Except.ok (x.1, ps, x.2.2)
      .ok (ws.foldl (fun m (x : Int × Parts × Nat) => m.writePlain A x.1 x.2.1 x.2.2) m,
        { c with vals := c.vals.take 3 ++ [p'] }, .next)

/-- CONV, fibre (R284). -/
def execConvFib (w : TArgs) (s : State) : Out := dataWord s (.convFib w) false w (convFibSpec w)

/-! ## DECOMP and REQ (R285, R286) -/

/-- Set bits of a number below `n`. -/
def popBelow (v n : Nat) : Nat := (List.range n).countP v.testBit

/-- DECOMP (R285). `vals` holds the byte position of the block and its mask. Elements are moved as they are: E8M10 keeps its bits [12:0], as
R70 has it of transfers without arithmetic, where R69 has every engine write them as zero (DESIGN CHOICE, notes/assumptions/35.md). -/
def decompSpec (w : TArgs) : CmdSpec where
  regs := [w.d, w.s, w.h]
  start A m c := do
    let (m, h) ← m.recordAt A c w.h fun r => r.fmt == w.sfmt.toNat
    .ok (m, { c with recd := h, total := h.count, vals := [0, 0] })
  elem _ A m c e := do
    let r := c.recd
    let wd := r.width
    let last := (c.vals[0]?).getD 0
    let pos := if e % 64 != 0 || e == 0 then last else last + zpBytes wd (popBelow ((c.vals[1]?).getD 0) 64)
    let (m, mask) ← if e % 64 != 0 then Except.ok (m, (c.vals[1]?).getD 0) else
      m.readData A c e (c.base w.s + (pos : Int)) 8
    if e % 64 == 0 && decide (2 ^ (c.total - e) ≤ mask) then
      .error (shapeFault (BitVec.ofInt 64 (c.base w.s + (pos : Int))))
    else
      let d ← m.reachBits A .write c e (c.base w.d) (r.bitOff (r.indices e)) wd
      let (m, v) ← if !mask.testBit (e % 64) then Except.ok (m, 0) else do
        let s ← m.reachBits A .read c e (c.base w.s) ((8 * pos + 64 + popBelow mask (e % 64) * wd : Nat) : Int) wd
        m.readBits A s
      .ok (m.writeBits A d v, { c with vals := [pos, mask] }, .next)

/-- DECOMP (R285). -/
def execDecomp (w : TArgs) (s : State) : Out := dataWord s (.decomp w) false w (decompSpec w)

/-- The exact value of a block-scaled source element (R74). -/
def Mach.readScaled (m : Mach) (A : Access) (c : Cmd) (e : Nat) (base : Int) (r : Shape) (ix : List Nat) :
    Except TStop (Mach × Bool × FVal) := do
  let l := r.lineOf ix
  let s ← m.reachBits A .read c e base (r.bitOff ix) r.width
  let (m, b) ← m.readBits A s
  let (m, sc) ← m.readData A c e ((r.scBase.toNat : Int) + r.scaleOff l ((ix[0]?).getD 0)) 1
  let (m, band) ← if r.fmt == 15 then m.readData A c e ((r.bandBase.toNat : Int) + bandOff l) 2 else Except.ok (m, 0)
  .ok (m, signBit r.fmt b, scaledVal r.fmt b sc band)

/-- Read a destination line of REQ from its source. -/
def Mach.readReqLine (m : Mach) (A : Access) (c : Cmd) (e : Nat) (base : Int) (l : Nat) (k : Nat) :
    Nat → Except TStop (Mach × List (Bool × FVal × Option W32))
  | 0 => .ok (m, [])
  | n + 1 => do
    let ix := swap01 (c.recd.indices (l * c.recd.bound 0 + k))
    let (m, neg, v) ← m.readScaled A c e base c.rec2 ix
    let (m, vs) ← m.readReqLine A c e base l (k + 1) n
    .ok (m, (neg, v, none) :: vs)

/-- REQ (R286): an element is a destination line; padded positions follow (R283). -/
def reqSpec (w : TArgs) : CmdSpec where
  regs := [w.d, w.s, w.h]
  start A m c := do
    let (m, s) ← m.recordAt A c w.h fun r => r.fmt == w.sfmt.toNat
    let (m, d) ← m.readRecord A c (c.reg w.h + 192)
    if d.fmt != w.dfmt.toNat || !s.transposed d then .error (shapeFault (c.reg w.h + 192))
    else .ok (m, { c with recd := d, rec2 := s, total := d.lines + d.padCount })
  elem _ A m c e := do
    let r := c.recd
    if r.lines ≤ e then convPad w A m c e (e - r.lines)
    else
      let n := r.bound 0
      let (m, line) ← m.readReqLine A c e (c.base w.s) e 0 n
      let (codes, scales, nv) := quantLine r.fmt .rne line
      let ds ← (codes.zipIdx).mapM fun (x : (Nat × Flags) × Nat) => do
        let d ← m.reachBits A .write c e (c.base w.d) (r.bitOff (r.indices (e * n + x.2))) r.width
        Except.ok (d, x.1.1)
      let ss ← (scales.zipIdx).mapM fun (x : Nat × Nat) => do
        let p ← m.reachScales A c e r e (r.group * x.2)
        Except.ok (p, x.1)
      let m := ss.foldl (fun m (x : (Int × Parts × Option (Int × Parts)) × Nat) => m.writeScales A x.1 x.2) m
      let m := ds.foldl (fun m (x : BitRef × Nat) => m.writeBits A x.1 x.2) m
      .ok (m, { c with flags := codes.foldl (fun a x => a ||| x.2) (c.flags ||| nv) }, .next)

/-- REQ (R286). -/
def execReq (w : TArgs) (s : State) : Out := dataWord s (.req w) false w (reqSpec w)

/-! ## GATHER, SCATTER, IREAD (R287, R288) -/

/-- Offsets of the lowest and the highest byte of a record's elements from its base. -/
def Shape.extent (r : Shape) : Int × Int :=
  let ends (d : Nat) : Int := ((r.bound d : Int) - 1) * r.stride d
  let lo := ((List.range 6).map fun d => min 0 (ends d)).sum * (r.width : Int)
  let hi := ((List.range 6).map fun d => max 0 (ends d)).sum * (r.width : Int) + (r.width : Int) - 1
  (lo / 8, hi / 8)

/-- The start of an indexed command: the item's record and the list's COUNT (R280, R287). -/
def indexedStart (h list : Reg4) (A : Access) (m : Mach) (c : Cmd) : Except TStop (Mach × Cmd) := do
  let (m, r) ← m.recordAt A c h fun r => r.layout == 0 && r.count * r.width % 8 == 0
  listAligned (c.reg list)
  let (m, n) ← m.readPlain A c 0 (c.base list) 16
  .ok (m, { c with recd := r, total := n % 2 ^ 32 * r.count })

/-- The address of item `j`: base plus its list entry, which is read at the item's first element; an address outside
every window, or one that `ok` refuses, raises APERTURE there. -/
def itemBase (list : Reg4) (ok : Mach → Shape → Int → Bool) (A : Access) (m : Mach) (c : Cmd) (e : Nat) (base : Int) :
    Except TStop (Mach × Cmd × Int) := do
  let items := c.recd.count
  if e % items != 0 then .ok (m, c, base + (BitVec.ofNat 64 ((c.vals[0]?).getD 0)).toInt)
  else
    let (m, v) ← m.readPlain A c e (c.base list + ((16 + 8 * (e / items) : Nat) : Int)) 8
    let a := base + (BitVec.ofNat 64 v).toInt
    if a < 0 || 2 ^ 64 ≤ a || m.window (BitVec.ofInt 64 a) == 3 || !ok m c.recd a then
      .error (accFault c e trAperture (BitVec.ofInt 64 a))
    else .ok (m, { c with vals := [v] }, a)

/-- A gathering command: items at `base` + offset are written densely from a(D). -/
def gatherElem (w : TArgs) (list src : Reg4) (ok : Mach → Shape → Int → Bool) (A : Access) (m : Mach) (c : Cmd) (e : Nat) :
    Except TStop (Mach × Cmd × After) := do
  let r := c.recd
  let (m, c, a) ← itemBase list ok A m c e (c.base src)
  let s ← m.reachBits A .read c e a (r.bitOff (r.indices (e % r.count))) r.width
  let d ← m.reachBits A .write c e (c.base w.d) ((e * r.width : Nat) : Int) r.width
  let (m, v) ← m.readBits A s
  .ok (m.writeBits A d v, c, .next)

/-- GATHER (R287). -/
def gatherSpec (w : TArgs) : CmdSpec where
  regs := [w.d, w.s, w.h, w.x]
  start := indexedStart w.h w.x
  elem _ A m c e := gatherElem w w.x w.s (fun _ _ _ => true) A m c e

/-- GATHER (R287). -/
def execGather (w : TArgs) (s : State) : Out := dataWord s (.gather w) false w (gatherSpec w)

/-- SCATTER (R287). -/
def scatterSpec (w : TArgs) : CmdSpec where
  regs := [w.d, w.s, w.h, w.x]
  start := indexedStart w.h w.x
  elem _ A m c e := do
    let r := c.recd
    let (m, c, a) ← itemBase w.x (fun _ _ _ => true) A m c e (c.base w.d)
    let s ← m.reachBits A .read c e (c.base w.s) ((e * r.width : Nat) : Int) r.width
    let d ← m.reachBits A .write c e a (r.bitOff (r.indices (e % r.count))) r.width
    let (m, v) ← m.readBits A s
    .ok (m.writeBits A d v, c, .next)

/-- SCATTER (R287). -/
def execScatter (w : TArgs) (s : State) : Out := dataWord s (.scatter w) false w (scatterSpec w)

/-- An item of IREAD lies in window 2 and within one scratchpad (R288). -/
def ireadOk (m : Mach) (r : Shape) (a : Int) : Bool :=
  let (lo, hi) := r.extent
  m.window (BitVec.ofInt 64 a) == 2 && (a + lo) / 2 ^ 22 == a / 2 ^ 22 && (a + hi) / 2 ^ 22 == a / 2 ^ 22

/-- IREAD (R288). -/
def ireadSpec (w : TArgs) : CmdSpec where
  regs := [w.d, w.s, w.h, w.x]
  start := indexedStart w.h w.s
  elem _ A m c e := gatherElem w w.s w.x ireadOk A m c e

/-- IREAD (R288). -/
def execIread (w : TArgs) (s : State) : Out := dataWord s (.iread w) false w (ireadSpec w)

/-! ## MCAST (R289) -/

/-- MCAST (R289). `vals` holds the destination bases. -/
def mcastSpec (w : TArgs) : CmdSpec where
  regs := [w.s, w.h, w.x]
  start A m c := do
    let (m, h) ← m.recordAt A c w.h fun _ => true
    listAligned (c.reg w.x)
    let (m, bs) ← m.readList A c (c.base w.x) w.imm16.toNat
    .ok (m, { c with recd := h, total := h.count, vals := bs })
  elem _ A m c e := do
    let bit := c.recd.bitOff (c.recd.indices e)
    let s ← m.reachBits A .read c e (c.base w.s) bit c.recd.width
    let ds ← c.vals.mapM fun (b : Nat) => m.reachBits A .write c e (b : Int) bit c.recd.width
    let (m, v) ← m.readBits A s
    .ok (ds.foldl (fun m d => m.writeBits A d v) m, c, .next)

/-- MCAST (R289). -/
def execMcast (w : TArgs) (s : State) : Out := dataWord s (.mcast w) false w (mcastSpec w)

end Sys2Proof.Machine
end

