-- ==== Sys2Proof/Machine/Failure.lean ====
section
/-!
DEFINITION. Machine/Failure.lean: the dry dock (R366, R381, R382, R421, R422), machine checks with replay, rollback and lost
tasks (R13, R142, R276, R402, R420), votes (R19, R267, R383, R406) and corrected errors (R420).
-/

namespace Sys2Proof.Machine

/-! ## What a checkpoint holds (R366, R382, R421) -/

/-- Every leaf of an ASID: virtual address, size, physical address. -/
def Mach.leaves (m : Mach) (asid : Nat) : List (Nat × Nat × Nat) :=
  let r := (vget m.roots asid 0).toNat
  let below (i4 i3 i2 : Nat) : List (Nat × Nat × Nat) :=
    let va := i4 * 2 ^ 39 + i3 * 2 ^ 30 + i2 * 2 ^ 21
    (List.range 32).filterMap fun i1 => match m.walk asid (va + i1 * 2 ^ 16) none with
      | .leaf v n p => if i1 == 0 || n == 2 ^ 16 then some (v, n, p) else none
      | _ => none
  if !pteP r then []
  else ((List.range 256).map fun i4 =>
    if !pteP (m.pte (pteAddr r) i4) then []
    else ((List.range 512).map fun i3 => ((List.range 512).map fun i2 => below i4 i3 i2).flatten).flatten).flatten

/-- A task belongs to one of some partitions. -/
def Task.inParts (t : Task) (ps : List Nat) : Bool := ps.contains t.part

/-- An address lies in a TIERED segment of a task of some partitions. -/
def Mach.isTiered (m : Mach) (ps : List Nat) (asid va : Nat) : Bool :=
  (m.pages.any fun p => p.asid == asid && p.va == va) ||
    m.tasks.any fun t => t.inParts ps && t.asid == asid && ((segAt (m.taskSegs t) va).any fun g => g.cl == 2)

/-- The hint of a TIERED page (R373). -/
def Mach.hintOf (m : Mach) (asid va : Nat) : Nat := ((m.pages.find? fun p => p.asid == asid && p.va == va).map (·.hint)).getD 0

/-- The pages a checkpoint of some partitions holds (R382, R421): near-tier pages and TIERED pages, by ASID and virtual
address, with hint and contents. -/
def Mach.ckptPages (m : Mach) (ps : List Nat) : List CkptPage :=
  (ps.map fun p => ((m.partition p).asids.map fun a => (m.leaves a).filterMap fun l =>
    let tiered := m.isTiered ps a l.1
    if tiered || decide (l.2.2 < 8 * 2 ^ 48) then
      some ⟨a, l.1, l.2.1, m.hintOf a l.1, tiered, l.2.2, (m.mem.slice l.2.2 l.2.1).map fun c => (c.1 - l.2.2, c.2)⟩
    else none).flatten).flatten

/-- Near-tier memory that some partitions reach without page tables: non-pageable NEAR segments, and the regions with
their spill areas and shadows (R366). -/
def Mach.ckptRanges (m : Mach) (ps : List Nat) : List (Nat × Nat) :=
  let segs := (m.tasks.filter fun t => t.inParts ps).map fun t =>
    (m.taskSegs t).filterMap fun g => if g.cl == 0 && !g.pageable then some (g.phys.toNat, g.vlen) else none
  let regs := m.basins.toList.flatten.map fun r => if ps.contains r.part then r.areas else []
  segs.flatten ++ regs.flatten

/-- A region as a checkpoint holds it (R366): pending triples of SRAM and runs merged in canonical order. -/
def Mach.ckptRegion (m : Mach) (nd : Nat) (r : Region) : CkptRegion :=
  let r' := { r with pend := sortRecs (r.pend ++ r.runs.flatten), runs := [] }
  let tab := (List.range (r.len / 4096)).map fun g => BitVec.ofNat 64 (m.rd (r.spill + 8 * g) 8)
  ⟨nd, r', tab, BitVec.ofNat 64 (m.rd (r.descAt + 0x38) 8)⟩

/-- The regions of some partitions. -/
def Mach.ckptRegions (m : Mach) (ps : List Nat) : List CkptRegion :=
  (m.basins.toList.zipIdx.map fun b => (b.1.filter fun r => ps.contains r.part).map fun r => m.ckptRegion b.2 r).flatten

/-- A 64 KiB page of a range of near-tier memory has been written since checkpoint number `no`. -/
def Mach.dirtySince (m : Mach) (no pa n : Nat) : Bool :=
  m.dirty.any fun d => decide (no ≤ d.2) && decide (pa / 0x10000 ≤ d.1) && decide (d.1 < (pa + n + 0xFFFF) / 0x10000)

/-- The pages of an incremental checkpoint (R421): a near-tier page that the last one of the same partitions holds has new contents only
if it has been written since; what lies in the far tier is taken as it is (log entry 10). -/
def Mach.freshPages (m : Mach) (old : Ckpt) (ps : List CkptPage) : List CkptPage :=
  ps.map fun p =>
    match old.pages.find? fun q => q.asid == p.asid && q.va == p.va && q.size == p.size with
    | some q =>
      let same := decide (p.pa < 8 * 2 ^ 48) && (q.tiered || q.pa == p.pa) && !m.dirtySince old.no p.pa p.size
      if same then { p with bytes := q.bytes } else p
    | none => p

/-- The latest complete checkpoint whose partitions satisfy a test, the newer slot first. -/
def Mach.lastCkpt (m : Mach) (ok : List Nat → Bool) : Option Ckpt :=
  ([(m.dockNext + 1) % 2, m.dockNext % 2].filterMap fun i => vget m.dock i none).find? fun c => c.status == 1 && ok c.parts

/-- Two lists name the same partitions. -/
def sameParts (ps qs : List Nat) : Bool := ps.all qs.contains && qs.all ps.contains

/-- The checkpoint of some partitions as they stand (R421). -/
def Mach.ckptOf (m : Mach) (tick kind : Nat) (ps : List Nat) : Ckpt :=
  let pages := m.ckptPages ps
  let asids := (ps.map fun p => (m.partition p).asids).flatten
  let ts := m.tasks.filter fun t => t.inParts ps
  let pages := match (if kind == 1 then m.lastCkpt (sameParts ps) else none) with
    | some old => m.freshPages old pages
    | none => pages
  let sets := m.sets.filter fun s => asids.contains s.asid
  { status := 1
    kind := kind
    parts := ps
    tick := tick
    sizes := [ts.length, pages.length, (m.ckptRegions ps).length, sets.length]
    no := m.ckptNo + 1
    tasks := ts
    frames := m.frames.filter fun f => ts.any fun t => t.frame == some f.1
    pages := pages
    near := (m.ckptRanges ps).foldl (fun c r => c.lay r.1 r.2 m.mem r.1) []
    ranges := m.ckptRanges ps
    regions := m.ckptRegions ps
    sets := sets }

/-- A page as a checkpoint keeps it: a TIERED one without its home (R382). -/
def CkptPage.kept (p : CkptPage) : CkptPage := if p.tiered then { p with pa := 0 } else p

/-- Write a checkpoint into the slot that is next; the writes from now on come after it (R421). -/
def Mach.writeCkpt (m : Mach) (c : Ckpt) : Mach :=
  { m with
    dock := vset m.dock (m.dockNext % 2) (some { c with pages := c.pages.map CkptPage.kept })
    dockNext := (m.dockNext + 1) % 2
    ckptNo := c.no }

/-! ## Loading a checkpoint (R366, R382, R422) -/

/-- A frame of a home's free list of the asked size, outside the dry dock (R377, R381). -/
def Mach.takeFrame (m : Mach) (home : Nat) (big : Bool) : Option (Nat × Mach) :=
  let size := if big then 2 ^ 21 else 2 ^ 16
  let l := vget m.free home []
  match l.find? fun f => f.2 == big && m.dockArea.all fun d => decide (f.1 + size ≤ d.1) || decide (d.1 + d.2 ≤ f.1) with
  | none => none
  | some f => some (f.1, { m with free := vset m.free home (l.filter (· != f)) })

/-- The place of an address's leaf entry, if its walk reaches one (R263). -/
def Mach.leafKey (m : Mach) (asid va : Nat) : Option Nat :=
  let r := (vget m.roots asid 0).toNat
  let e4 := m.pte (pteAddr r) (va / 2 ^ 39 % 256)
  let e3 := m.pte (pteAddr e4) (va / 2 ^ 30 % 512)
  let e2 := m.pte (pteAddr e3) (va / 2 ^ 21 % 512)
  match m.walk asid va none with
  | .leaf _ _ _ =>
    if pteLeaf e2 then some (pteAddr e3 + 8 * (va / 2 ^ 21 % 512)) else some (pteAddr e2 + 8 * (va / 2 ^ 16 % 32))
  | _ => none

/-- Write ADDR of a leaf. -/
def Mach.setLeaf (m : Mach) (asid va pa : Nat) : Mach :=
  match m.leafKey asid va with
  | some k => m.wr k 8 (m.rd k 8 % 2 ^ 8 + pa)
  | none => m

/-- Where the leaf of an address lies or would lie: its level-1 entry when the level-2 entry names a table, else the level-2
entry; none without the tables above. -/
def Mach.leafSlot (m : Mach) (asid va : Nat) : Option Nat :=
  let r := (vget m.roots asid 0).toNat
  let e4 := m.pte (pteAddr r) (va / 2 ^ 39 % 256)
  let e3 := m.pte (pteAddr e4) (va / 2 ^ 30 % 512)
  let k2 := pteAddr e3 + 8 * (va / 2 ^ 21 % 512)
  let e2 := m.rd k2 8
  if !pteP r || !pteP e4 || !pteP e3 then none
  else if pteP e2 && !pteLeaf e2 then some (pteAddr e2 + 8 * (va / 2 ^ 16 % 32))
  else some k2

/-- The address's leaf entry is a level-2 entry. -/
def Mach.leafIsLevel2 (m : Mach) (asid va : Nat) : Bool :=
  let r := (vget m.roots asid 0).toNat
  let e4 := m.pte (pteAddr r) (va / 2 ^ 39 % 256)
  let e3 := m.pte (pteAddr e4) (va / 2 ^ 30 % 512)
  let e2 := m.pte (pteAddr e3) (va / 2 ^ 21 % 512)
  !pteP e2 || pteLeaf e2

/-- Where a leaf that is not present can be made for a page of a size: the tables above it are there. -/
def Mach.leafRoom (m : Mach) (asid va size : Nat) : Option Nat :=
  if m.leafIsLevel2 asid va == (size == 2 ^ 21) then m.leafSlot asid va else none

/-- A leaf that is present (R264): P, LEAF for a 2 MiB page, ADDR. -/
def leafEntry (size pa : Nat) : Nat := 1 + cond (size == 2 ^ 21) 2 0 + pa

/-- Where a restored TIERED page goes (R382): with hint far a far tier, else the ND of the first restored task of its ASID:
the lowest present die of that task's AFFINITY (log entry 10). -/
def Mach.restoreHome (m : Mach) (ts : List Task) (p : CkptPage) : Nat :=
  let nd := match ts.find? fun t => t.asid == p.asid with
    | some t => ((List.range 8).find? fun n => t.desc.affinity.getLsbD n && !m.absent.contains n).getD 0
    | none => 0
  if p.hint == 2 then 8 + nd / 4 else nd

/-- Lay a page's contents over a physical range. -/
def Mach.putPage (m : Mach) (pa : Nat) (p : CkptPage) : Mach :=
  { m with mem := m.mem.lay pa p.size p.bytes 0 }.noteRange pa p.size

/-- Moves that a test picks end without effect: their new frames are free again. -/
def Mach.endMoves (m : Mach) (ok : TierMove → Bool) : Mach :=
  (m.moves.filter ok).foldl (fun (m : Mach) v =>
    { m with free := vset m.free (v.dst / 2 ^ 48) (vget m.free (v.dst / 2 ^ 48) [] ++ [(v.dst, v.size == 2 ^ 21)]) })
    { m with moves := m.moves.filter fun v => !ok v }

/-- Two ranges share a byte. -/
def rangesMeet (a n b k : Nat) : Bool := decide (a < b + k) && decide (b < a + n)

/-- A core that kept an image or a segment table in a range is warm no longer (R398). -/
def Core.chill (c : Core) (asid va len : Nat) : Core :=
  match c.warm with
  | some w =>
    if w.asid.toNat == asid && (rangesMeet w.codeBase.toNat w.codeLen va len || rangesMeet w.segTab.toNat (32 * w.segCnt) va len) then
      { c with warm := none }
    else c
  | none => c

/-- Every core forgets what it keeps of a range (R398). -/
def Mach.chill (m : Mach) (asid va len : Nat) : Mach := { m with cores := m.cores.map fun (c : Core) => c.chill asid va len }

/-- A TLB without the entries of an ASID that overlap a range. -/
def dropEntries (asid va len : Nat) (l : List TlbEntry) : List TlbEntry :=
  l.filter fun t => !(t.asid == asid && rangesMeet t.va t.size va len)

/-- Every TLB of the package drops the entries of an ASID that overlap a range (R266). -/
def Mach.dropTlbs (m : Mach) (asid va len : Nat) : Mach :=
  { m with
    engines := m.engines.map fun (g : Engine) => { g with tlb := dropEntries asid va len g.tlb }
    tlb2 := m.tlb2.map fun (l : List TlbEntry) => dropEntries asid va len l }

/-- A page's frame goes back to its home's freed list (R377). -/
def Mach.freeFrameAt (m : Mach) (pa size : Nat) : Mach :=
  { m with freed := vset m.freed (pa / 2 ^ 48) (vget m.freed (pa / 2 ^ 48) [] ++ [(pa, size == 2 ^ 21)]) }

/-- Load a page (R382). A TIERED one goes into a free frame of its new home, is known afresh with its hint, and no TLB keeps its old
place; without a free frame it stays where its leaf names it. A leaf that is not present is made so where the tables above it are. Any other page lies where its leaf,
or the checkpoint, names it. -/
def Mach.loadPage (m : Mach) (ts : List Task) (p : CkptPage) : Mach :=
  let now := match m.walk p.asid p.va none with
    | .leaf _ _ pa => some pa
    | _ => none
  let known (m : Mach) (pa : Nat) : Mach :=
    { m with pages := (m.pages.filter fun x => !(x.asid == p.asid && x.va == p.va)) ++ [⟨p.asid, p.va, p.size, pa, p.hint, [], [], 0, none⟩] }
  if !p.tiered then m.putPage (now.getD p.pa) p
  else
    let m := (m.endMoves fun v => v.asid == p.asid && v.va == p.va).dropTlbs p.asid p.va p.size
    let frame := m.takeFrame (m.restoreHome ts p) (p.size == 2 ^ 21)
    match now, m.leafRoom p.asid p.va p.size, frame with
    | some old, _, some (pa, m) => known (((m.putPage pa p).setLeaf p.asid p.va pa).freeFrameAt old p.size) pa
    | some old, _, none => known (m.putPage old p) old
    | none, some key, some (pa, m) => known ((m.putPage pa p).wr key 8 (leafEntry p.size pa)) pa
    | none, _, _ => m

/-- The base of the region that now stands for a saved one: `moved` pairs an old base with a new one (R366). -/
def CkptRegion.base (c : CkptRegion) (moved : List (Nat × Nat)) : Nat :=
  ((moved.find? fun p => p.1 == c.region.base).map (·.2)).getD c.region.base

/-- The pending records of a restored region (R357, R366): as many as its partition's quota takes go to bin SRAM, the rest is a run. -/
def Mach.restorePending (m : Mach) (nd : Nat) (r : Region) (recs : List UpdRec) : Mach :=
  let free := binShare nd r.part - m.sramUsed nd r.part + r.pend.length
  let r' := { r with
    pend := recs.take free
    runs := if recs.length ≤ free then [] else [recs.drop free]
    sweep := []
    retries := r.retries + 1 }
  (m.setRegion nd r').layRuns r' 0 r'.runs

/-- Load a region's pending state (R366) into the region that now stands for it; the contents and shadows go with it. -/
def Mach.loadRegion (m : Mach) (moved : List (Nat × Nat)) (near : Cells) (c : CkptRegion) : Mach :=
  let base := c.base moved
  match m.regionAt base with
  | none => m
  | some (nd, r) =>
    if r.base != base || r.op != c.region.op || r.len != c.region.len then m
    else
      let sh := r.len / 4 * updShadow r.op
      let m := { m with mem := (m.mem.lay base r.len near c.region.base).lay r.shadow sh near c.region.shadow }
      let m := c.granules.zipIdx.foldl (fun (m : Mach) g => m.wr (r.spill + 8 * g.2) 8 g.1.toNat) m
      let m := m.wr (r.descAt + 0x38) 8 c.status.toNat
      m.restorePending nd r c.region.pend

/-- AFFINITY after a restoration (R422): one that names no present die is read as every present die. -/
def Mach.widen (m : Mach) (t : Task) : Task × Bool :=
  if m.affinityOk t.desc then (t, false) else ({ t with desc := { t.desc with affinity := 0xFF } }, true)

/-- Load a task (R422): a SAVED one with its frame in a free frame of its partition. -/
def Mach.loadTask (m : Mach) (c : Ckpt) (t0 : Task) : Mach :=
  let (t, wide) := m.widen t0
  let m := if wide then m.report 0xF3 t.part t.tid 0 else m
  let old := t.frame.bind fun a => (c.frames.find? fun f => f.1 == a).map (·.2)
  match t.st, old, m.freeFrame t.part with
  | .saved, some f, some a =>
    { m with
      frames := m.frames ++ [(a, f)]
      mem := f.bytes m.mem a
      tasks := m.tasks ++ [{ t with frame := some a }] }.noteRange a frameBytes
  | .overflow, _, _ => match m.toRing t with
    | (m, true) => m
    | (m, false) => m.enterTable t
  | _, _, _ => { m with tasks := m.tasks ++ [t] }

/-- The areas of the saved regions that now stand elsewhere, or do not stand (R366): a restore leaves what lies there. -/
def Mach.leftAreas (m : Mach) (c : Ckpt) (moved : List (Nat × Nat)) : List (Nat × Nat) :=
  ((c.regions.filter fun x => x.base moved != x.region.base || (m.regionAt x.region.base).all fun r => r.2.base != x.region.base).map
    fun x => x.region.areas).flatten

/-- Near-tier memory after a restore (R366, R421): the checkpoint's ranges, but for what is left as it lies. -/
def Mach.restoredMem (m : Mach) (c : Ckpt) (moved : List (Nat × Nat)) : Cells :=
  let mem := c.ranges.foldl (fun mem r => mem.lay r.1 r.2 c.near r.1) m.mem
  (m.leftAreas c moved).foldl (fun mem r => mem.lay r.1 r.2 m.mem r.1) mem

/-- The retirement increments of restored tasks are still to be made: they are forgotten as made (R383, R399). -/
def Mach.forgetIncrements (m : Mach) (ts : List Task) : Mach :=
  { m with incTags := m.incTags.filter fun x => !ts.any fun t => t.tid == x.1 }

/-- Load a checkpoint's share (R422): memory, regions, renamed sets, tasks; tids keep their values. -/
def Mach.loadCkpt (m : Mach) (c : Ckpt) (ts : List Task) (moved : List (Nat × Nat)) : Mach :=
  let m := { m with mem := m.restoredMem c moved }.forgetIncrements ts
  let wide := ts.map fun t => (m.widen t).1
  let m := c.pages.foldl (fun (m : Mach) p => m.loadPage wide p) m
  let m := c.regions.foldl (fun (m : Mach) r => m.loadRegion moved c.near r) m
  let asids := c.sets.map (·.asid)
  let m := { m with sets := (m.sets.filter fun s => !asids.contains s.asid) ++ c.sets }
  let m := ts.foldl (fun (m : Mach) t => m.loadTask c t) m
  { m with nextTid := ts.foldl (fun n t => max n (t.tid + 1)) m.nextTid }

/-! ## Dropping tasks -/

/-- Free the core that a task holds, and its bind record. -/
def Mach.releaseCore (m : Mach) (tid : Nat) : Mach :=
  (List.range 320).foldl (fun (m : Mach) n =>
    if (m.core n).task.any (·.tid == tid) || ((vget m.slots n BindRec.init).valid && (vget m.slots n BindRec.init).tid == tid) then m.freeCore n
    else m) m

/-- Forget a task: no status record, no retirement increment (R418). -/
def Mach.forgetTask (m : Mach) (t : Task) : Mach :=
  let m := m.releaseCore t.tid
  let m := { m with frames := match t.frame with
    | some a => m.frames.filter fun f => f.1 != a
    | none => m.frames }
  m.dropTask t.tid

/-- Forget every task that a test picks. -/
def Mach.forgetTasks (m : Mach) (ok : Task → Bool) : Mach := (m.tasks.filter ok).foldl (fun (m : Mach) t => m.forgetTask t) m

/-! ## Machine checks (R142, R402) -/

/-- Roll the task graph of a checkpoint's partitions back to it (R142): tasks, memory and regions are as they were. -/
def Mach.rollback (m : Mach) (c : Ckpt) : Mach :=
  let m := m.forgetTasks fun t => t.inParts c.parts
  let m := c.parts.foldl (fun (m : Mach) p => m.setPart p { m.partition p with ovHead := 0, ovTail := 0 }) m
  m.loadCkpt c c.tasks []

/-- A lost task's status record is written, or is owed while its page is being moved, or until a position of a scratchpad is free (R26,
R142, R377). -/
def Mach.writeOwed (m : Mach) (cyc : Nat) (o : Owed) : Mach :=
  if m.recordWaits cyc o.part o.asid o.ext then { m with owed := m.owed ++ [o] }
  else m.statusRecord cyc o.part o.asid o.tid o.ext 3 o.regs o.ticks

/-- A status record that is owed can be written. -/
def Mach.owedOpen (m : Mach) (cyc : Nat) : Bool := m.owed.any fun o => !m.recordWaits cyc o.part o.asid o.ext

/-- The status records that are owed are written as far as they can be (R377). -/
def Mach.payOwed (m : Mach) (cyc : Nat) : Mach := m.owed.foldl (fun (m : Mach) o => m.writeOwed cyc o) { m with owed := [] }

/-- Declare a task lost (R142): STATE 3, CODE 0xC1, INFO0 the machine check; its dependants stay blocked (R391). -/
def Mach.loseTask (m : Mach) (k : Ctl) (n : Nat) (b : Bound) (code : Byte) : Mach :=
  let before := ((m.taskOf b.tid).map (·.ticks)).getD 0
  let t : TrapRegs := ⟨0xC1, 0, 0, code.setWidth 64, 0, false⟩
  let m := m.writeOwed k.cyc ⟨b.part.toNat, b.asid.toNat, b.tid, b.desc.ext, t, before + (k.tick - b.tick0)⟩
  let m := (m.freeCore n).mapTask b.tid fun t => { t with st := .lost }
  m.report 0xC1 b.part.toNat b.tid 0

/-- Stop the task of a core on a machine check (R402): it is bound again from its descriptor, or its graph is rolled back,
or it is lost. -/
def Mach.failTask (m : Mach) (k : Ctl) (n : Nat) (code : Byte) : Mach :=
  match (m.core n).task with
  | none => m
  | some b =>
    if b.replayable then
      (m.freeCore n).mapTask b.tid fun t =>
        { t with st := .ready, replay := true, frame := none, ticks := t.ticks + (k.tick - b.tick0) }
    else match m.lastCkpt (·.contains b.part.toNat) with
      | some c => (m.freeCore n).rollback c
      | none => m.loseTask k n b code

/-- A bind record that has not been carried out is withdrawn: a fresh bind's task waits ahead of the others, as a replay
does (log entry 29). The ticks of an attempt that dispatch had begun are counted (R140). -/
def Mach.withdraw (m : Mach) (tick n : Nat) : Mach :=
  let r := vget m.slots n BindRec.init
  if !r.valid then m
  else
    let m := { m with
      slots := vset m.slots n { r with valid := false, waitVa := none, since := none, run := BindRun.init, failed := none } }
    let spent := match r.since with
      | some t => tick - t
      | none => 0
    m.mapTask r.tid fun t =>
      if t.st != .binding then t
      else
        let t := { t with ticks := t.ticks + spent }
        if r.kind == 1 then { t with st := .saved } else { t with st := .ready, replay := true }

/-- Record a retired physical core in the non-volatile record (R11, R424). -/
def Mach.recordCore (m : Mach) (n : Nat) : Mach :=
  match (m.core n).phys with
  | some p => { m with mgmt := { m.mgmt with nv := { m.mgmt.nv with cores := m.mgmt.nv.cores ++ [(n / 40, p)] } } }
  | none => m

/-- Retire the physical core behind a logical number (R13): a spare of the die takes its place, with nothing in it, or the
logical core becomes unavailable. -/
def Mach.retirePhys (m : Mach) (n : Nat) : Mach :=
  let die := n / 40
  let m := m.recordCore n
  match vget m.spares die [] with
  | p :: rest => { m with spares := vset m.spares die rest }.setCore n { Core.released0 n with phys := some p }
  | [] => m.setCore n { Core.released0 n with phys := none }

/-- CORE_FAILED (R13, R402): core `cur`. -/
def execCoreFailed (s : State) : Out :=
  onMach s fun k m =>
    let n := k.cur.val
    let b := (m.core n).task
    if (m.core n).phys.isNone then m
    else
      let m := m.report 0xE0 ((b.map fun b => b.part.toNat).getD 0) ((b.map (·.tid)).getD 0) (BitVec.ofNat 64 n)
      ((m.withdraw k.tick n).failTask k n 0xE0).retirePhys n

/-- KIND of a read that a context makes (R271), as the occurrence names it: of data, of a read-modify-write, of a record or list. -/
def Occ.readKind (o : Occ) : Nat := if o.num == 2 then 2 else if o.num == 4 then 4 else 0

/-- A command whose registers alone are looked at. -/
def regsSpec (rs : List Reg4) : CmdSpec where
  regs := rs
  start _ m c := .ok (m, c)
  elem _ _ m c _ := .ok (m, c, .next)

/-- A data command's fields, and what it does, as far as its issue looks at that (R257, R279). -/
def dataOf : Instr → Option (TArgs × CmdSpec)
  | .copy w => some (w, copySpec w)
  | .xpose w => some (w, xposeSpec w)
  | .conv w => some (w, convSpec w)
  | .convZp w => some (w, convZpSpec w)
  | .convFib w => some (w, convFibSpec w)
  | .decomp w => some (w, decompSpec w)
  | .req w => some (w, reqSpec w)
  | .gather w => some (w, gatherSpec w)
  | .scatter w => some (w, scatterSpec w)
  | .iread w => some (w, ireadSpec w)
  | .mcast w => some (w, mcastSpec w)
  | .reduce w => some (w, reduceSpec w)
  | .accw w => some (w, accwSpec w)
  | .atom w => some (w, atomSpec w)
  | .signal w => some (w, signalSpec w)
  | .semwt w => some (w, semwtSpec w)
  | .rfill w => some (w, ringSpec true w)
  | .rdrain w => some (w, ringSpec false w)
  | .follow w => some (w, followSpec w)
  | .udrain w => some (w, udrainSpec w)
  | .urgn w => some (w, urgnSpec w)
  | .coll w => some (w, collSpec w)
  | .pref w => some (w, regsSpec [w.s, w.h])
  | .migh w => some (w, regsSpec [w.s, w.h])
  | _ => none

/-- The machine and the command whose read is under way in a context: the one in progress, or the one that the context issues now. -/
def Mach.readingCmd (m : Mach) (k : Ctl) (e : EngineId) (n : Fin 4) : Option (Mach × Cmd) :=
  let k := k.forCtx e n
  let x := m.ctx e n
  match x.cmd, m.ctxFetch e n with
  | some c, _ => some (m, c)
  | none, .run i =>
    match dataOf i with
    | some (w, sp) =>
      if m.issueHeld k x w sp then none
      else some ((m.tellFor k w).numberCmd e n k.cyc, x.newCmd i (m.engine e).nextId (tVc w))
    | none => none
  | none, _ => none

/-- READ_UNCORRECTABLE of a context (R276): it is suspended at its element with CAUSE 0xE1, SUB 4, with LEVEL `k` and the KIND of its
access when the read was a walk's, before the task is stopped; nothing of the element is performed. -/
def Mach.readBad (m : Mach) (k : Ctl) (e : EngineId) (n : Fin 4) : Mach :=
  match m.readingCmd k e n with
  | none => m
  | some (m, c) =>
    let x := m.ctx e n
    let (level, kind) := match x.hold with
      | .walk _ kind => (min 4 (max 1 k.occ.k), kind)
      | _ => (0, k.occ.readKind)
    let m := (m.setCtx e n { x with cmd := some c }).suspendCtx e n ⟨0xE1, 4, level, kind, c.off, x.ep, BitVec.ofNat 64 k.occ.va, 0⟩
    match engineCore e with
    | some n => m.failTask k n.val 0xE1
    | none => m

/-- READ_UNCORRECTABLE (R276, R402, R420): of a sequencer's read, or of a context's. -/
def execReadUncorrectable (s : State) : Out :=
  onMach s fun k m =>
    match k.occ.site with
    | .seq n =>
      match (m.core n.val).task with
      | none => m
      | some b => (m.report 0xE1 b.part.toNat b.tid (BitVec.ofNat 64 k.occ.addr)).failTask k n.val 0xE1
    | .ctx e n => m.readBad k e n

/-! ## Votes and corrected errors -/

/-- Core clocks in which a dissenting copy is resynchronised (R267: 2,000 ring clocks). -/
def resyncClocks : Nat := 1500

/-- The lock-keeper's state (R383). -/
def Mach.keeper (m : Mach) : Keeper where
  nextTid := m.nextTid
  tasks := m.tasks
  sets := m.sets
  slots := m.slots
  preReqs := m.preReqs
  rings := m.parts.toList.map fun p => (p.ovHead, p.ovTail)
  reserve := m.reserve
  capAsks := m.capAsks

/-- The machine with the lock-keeper in a state. -/
def Mach.withKeeper (m : Mach) (s : Keeper) : Mach :=
  { m with
    nextTid := s.nextTid
    tasks := s.tasks
    sets := s.sets
    slots := s.slots
    preReqs := s.preReqs
    parts := m.parts.zipIdx.map fun (p : Partition × Nat) =>
      let r := (s.rings[p.2]?).getD (p.1.ovHead, p.1.ovTail)
      { p.1 with ovHead := r.1, ovTail := r.2 }
    reserve := s.reserve
    capAsks := s.capAsks }

/-- A journal point (R383): the copies commit the lock-keeper's state. -/
def Mach.commitJournal (m : Mach) : Mach := { m with journal := m.keeper }

/-- All three copies are rolled back to the last journal point and execute from there again (R383): with the same inputs, and with actions
that are idempotent outside, they come to the state in which they were (log entry 38). -/
def Mach.rollBack (m : Mach) (v : Voted) : Mach :=
  match v with
  | .keeper => (m.withKeeper m.journal).withKeeper m.keeper
  | _ => m

/-- A copy's dissent has its machine resynchronise it in this clock. -/
def Dissent.open (d : Dissent) (v : Voted) (cyc : Nat) : Bool := d.machine == v && decide (cyc < d.since + resyncClocks)

/-- VOTE_DISSENT (R19, R267, R383, R406): a dissenting copy is resynchronised from the other two within the window; a second dissent in it
rolls the machine back, which is reported. -/
def execVoteDissent (s : State) : Out :=
  onMach s fun k m =>
    let v := k.occ.voted
    let rest := m.dissent.filter fun d => d.machine != v
    if m.dissent.any fun d => d.open v k.cyc then ({ m with dissent := rest }.rollBack v).report 0xE2 0 0 0
    else { m with dissent := ⟨v, k.occ.copy, k.cyc⟩ :: rest }

/-- Core clocks in a second. -/
def secondClocks : Nat := 1500000000

/-- ECC_CORRECTED (R420): a correction on a die is counted by its clock; the last 256 matter. -/
def execEccCorrected (s : State) : Out :=
  onMach s fun k m =>
    let d := k.occ.die.val
    { m with ecc := vset m.ecc d ((k.cyc :: vget m.ecc d []).take 256) }

/-- 256 corrections of a die fall within one second (R420). -/
def eccFull (l : List Nat) : Bool :=
  match l[0]?, l[255]? with
  | some a, some b => decide (a < b + secondClocks)
  | _, _ => false

/-- ECC_THRESHOLD (R420): 256 corrections on one die within one second are reported; the count begins afresh (log entry 6). -/
def execEccThreshold (s : State) : Out :=
  onMach s fun k m =>
    let d := k.occ.die.val
    if eccFull (vget m.ecc d []) then { m with ecc := vset m.ecc d [] }.report 0xF1 0 0 (BitVec.ofNat 64 d) else m

end Sys2Proof.Machine
end

