-- ==== Sys2Proof/Machine/Tug.lean ====
section
/-!
DEFINITION. Machine/Tug.lean: tier migration (R371-R379): PREF and MIGH (R304), the epoch decision (R374), PREF requests (R375),
the move (R377) and the anchoring (R379).
-/

namespace Sys2Proof.Machine

/-! ## PREF and MIGH (R304) -/

/-- The 64 KiB pages from `first` to `last`. -/
def pagesFromTo (first last : Int) : List Nat :=
  if first < 0 then [] else (List.range ((last / 0x10000 - first / 0x10000).toNat + 1)).map fun i => (first / 0x10000).toNat * 0x10000 + 0x10000 * i

/-- Insert a number into an ascending list that holds it at most once. -/
def insertOnce (x : Nat) : List Nat → List Nat
  | [] => [x]
  | y :: ys => if x < y then x :: y :: ys else if x == y then y :: ys else y :: insertOnce x ys

/-- The 64 KiB pages that a record's elements touch, in ascending order. -/
def Shape.pagesAt (r : Shape) (base : Int) : List Nat :=
  let one (n : Nat) : List Nat :=
    let (o, _, len) := bitSpan (r.bitOff (r.indices n)) r.width
    pagesFromTo (base + o) (base + o + (len : Int) - 1)
  (List.range r.count).foldl (fun l n => (one n).foldl (fun l p => insertOnce p l) l) []

/-- The TIERED page that holds a virtual address of an engine's task, known to its home from now on; none when the address
lacks R rights, is not pageable, is not TIERED, or has no leaf (R304). The walk waits for a page that is being moved (R377). -/
def Mach.tieredAt (m : Mach) (e : EngineId) (va : Nat) : Except TStop (Option (Mach × Page)) :=
  let g := m.engine e
  match segAt g.segs va with
  | none => .ok none
  | some s =>
    if s.cl != 2 || !s.rights.getLsbD 0 || !s.pageable then .ok none
    else match m.walk g.asid va (some 2) with
      | .leaf v size pa =>
        if m.heldByMove pa then .error (.hold .none)
        else
          let m := m.notePage g.asid v size pa
          .ok ((m.pages.find? fun p => p.asid == g.asid && p.va == v).map fun p => (m, p))
      | _ => .ok none

/-- The start of PREF and MIGH: the record, and its pages in `vals`. -/
def pagesStart (w : TArgs) (A : Access) (m : Mach) (c : Cmd) : Except TStop (Mach × Cmd) := do
  let (m, h) ← m.recordAt A c w.h fun _ => true
  let ps := h.pagesAt (c.base w.s)
  .ok (m, { c with recd := h, vals := ps, total := ps.length })

/-- The half of the ring that a home lies in (R371). -/
def halfOf (home : Nat) : Nat := if home < 8 then home / 4 else home % 8 % 2

/-- The far-tier home that serves a home (R371). -/
def farOf (home : Nat) : Nat := 8 + halfOf home

/-- The near-tier die paired with a requesting engine (R375): ND0 for a far-tier engine. -/
def nearOf (e : EngineId) : Nat := if engineDie e < 8 then engineDie e else 0

/-- PREF's element (R304, R375): a request to the tug of the target's half. -/
def prefElem (w : TArgs) (k : Ctl) (_ : Access) (m : Mach) (c : Cmd) (e : Nat) : Except TStop (Mach × Cmd × After) :=
  match m.tieredAt k.eng ((c.vals[e]?).getD 0) with
  | .error t => .error t
  | .ok none => .ok (m, c, .next)
  | .ok (some (m, p)) =>
    let target := if w.fn == 0 then nearOf k.eng else farOf (p.pa / 2 ^ 48)
    let q := halfOf target
    .ok ({ m with prefs := vset m.prefs q (vget m.prefs q [] ++ [⟨p.asid, p.va, target⟩]) }, c, .next)

/-- MIGH's element (R304, R373): hint near 1, far 2, none 0. -/
def mighElem (w : TArgs) (k : Ctl) (_ : Access) (m : Mach) (c : Cmd) (e : Nat) : Except TStop (Mach × Cmd × After) :=
  match m.tieredAt k.eng ((c.vals[e]?).getD 0) with
  | .error t => .error t
  | .ok none => .ok (m, c, .next)
  | .ok (some (m, p)) =>
    let hint := if w.fn == 0 then 1 else if w.fn == 1 then 2 else 0
    let set (q : Page) : Page := if q.asid == p.asid && q.va == p.va then { q with hint := hint } else q
    .ok ({ m with pages := m.pages.map set }, c, .next)

/-- PREF (R304). -/
def execPref (w : TArgs) (s : State) : Out :=
  dataWord s (.pref w) false w { regs := [w.s, w.h], start := pagesStart w, elem := prefElem w }

/-- MIGH (R304). -/
def execMigh (w : TArgs) (s : State) : Out :=
  dataWord s (.migh w) false w { regs := [w.s, w.h], start := pagesStart w, elem := mighElem w }

/-! ## What may move (R371, R372, R379) -/

/-- A virtual range of an ASID shares a byte with a page. -/
def Page.touches (p : Page) (asid va len : Nat) : Bool := p.asid == asid && decide (va < p.va + p.size) && decide (p.va < va + len)

/-- A task's code segment or move program lies in a page. -/
def Task.pinsPage (t : Task) (p : Page) : Bool := t.inTable && p.touches t.asid t.desc.codeBase.toNat t.desc.codeLen

/-- A bind that is carried out reads its segment table or a preload from a page. -/
def Mach.bindReads (m : Mach) (p : Page) : Bool :=
  m.tasks.any fun t => t.st == .binding && (p.touches t.asid t.desc.segTab.toNat (32 * t.desc.segCnt) ||
    t.ext.pres.any fun x => p.touches t.asid x.src.toNat x.len)

/-- A page is pinned (R372). -/
def Mach.pinned (m : Mach) (p : Page) : Bool :=
  (m.pins.any fun x => p.touches x.1 x.2.1 x.2.2) || (m.tasks.any fun t => t.pinsPage p) || m.bindReads p

/-- A page is anchored (R379). -/
def Page.anchored (p : Page) (tick : Nat) : Bool := decide (tick < p.anchoredUntil)

/-- A move of the page is in progress. -/
def Mach.moving (m : Mach) (p : Page) : Bool := m.moves.any fun v => v.asid == p.asid && v.va == p.va

/-- The machine with one page changed. -/
def Mach.mapPage (m : Mach) (asid va : Nat) (f : Page → Page) : Mach :=
  { m with pages := m.pages.map fun p => if p.asid == asid && p.va == va then f p else p }

/-- Start an invalidation (R266): the machine and its number. -/
def Mach.startInval (m : Mach) (asid base len : Nat) : Mach × Nat :=
  ({ m with invals := m.invals ++ [⟨m.nextInval, asid, base, len⟩], nextInval := m.nextInval + 1 }, m.nextInval)

/-- A page lies in the dry dock, out of which the tug moves nothing (R381). -/
def Mach.inDock (m : Mach) (p : Page) : Bool := m.dockArea.any fun d => decide (d.1 < p.pa + p.size) && decide (p.pa < d.1 + d.2)

/-- Start a move (R377 steps 1-4): a frame of the new home, the hold, the invalidation. Without a free frame, none. -/
def Mach.startMove (m : Mach) (p : Page) (home : Nat) : Option Mach :=
  if m.inDock p then none
  else match m.takeFrame home (p.size == 2 ^ 21) with
    | none => none
    | some (pa, m) =>
      let (m, id) := m.startInval p.asid p.va p.size
      some { m with moves := m.moves ++ [⟨p.asid, p.va, p.size, p.pa, pa, id, halfOf home⟩] }

/-! ## The epoch decision (R374) -/

/-- Ticks of an epoch. -/
def epochTicks : Nat := 15625

/-- Accesses that a page's home has counted from a die. -/
def Page.countOf (p : Page) (die : Nat) : Nat := ((p.counts.find? fun c => c.1 == die).map (·.2)).getD 0

/-- A page's accesses of the epoch. -/
def Page.total (p : Page) : Nat := (p.counts.map (·.2)).sum

/-- The source ND with the most accesses, the lower number on a tie. -/
def Page.leader (p : Page) : Nat := (List.range 8).foldl (fun b n => if p.countOf b < p.countOf n then n else b) 0

/-- A partition's policy (R376): AUTO, SHARE as numerator and denominator, THRESH. -/
def policyAuto (v : W64) : Bool := v.getLsbD 10
def policyShare (v : W64) : Nat × Nat :=
  match v.toNat / 2 ^ 8 % 4 with
  | 0 => (1, 2)
  | 1 => (3, 4)
  | _ => (7, 8)
def policyThresh (v : W64) : Nat := max 1 (v.toNat % 2 ^ 8)

/-- The home of a page. -/
def Page.home (p : Page) : Nat := p.pa / 2 ^ 48

/-- The partition that owns a page's ASID (R379, R415); none is numbered 64. -/
def Mach.pagePart (m : Mach) (p : Page) : Nat := (m.partOfAsid p.asid).getD 64

/-- The migration policy of a page's partition (R376). -/
def Mach.policyOf (m : Mach) (p : Page) : W64 := (m.partition (m.pagePart p)).policy

/-- Rule 3 holds for a page: the ND it moves to. -/
def Mach.promotes (m : Mach) (p : Page) : Option Nat :=
  let v := m.policyOf p
  let (a, b) := policyShare v
  let nd := p.leader
  let n := p.countOf nd
  if policyAuto v && p.hint != 2 && decide (a * p.total ≤ b * n) && decide (policyThresh v ≤ n) && nd != p.home then some nd
  else none

/-- A home's free frames are below its low watermark (R374 rule 4; log entry 15). -/
def Mach.lowOn (m : Mach) (nd : Nat) : Bool :=
  decide ((vget m.free nd []).length < Config.lowWatermark ⟨nd % 8, Nat.mod_lt _ (by decide)⟩)

/-- Rule 4 speaks of a page of an ND: hint none, AUTO set, neither pinned nor anchored. -/
def Mach.demotableAt (m : Mach) (tick nd : Nat) (p : Page) : Bool :=
  p.hint == 0 && p.home == nd && policyAuto (m.policyOf p) && !m.pinned p && !p.anchored tick

/-- A page may be demoted by rule 4: it is free to move besides. -/
def Mach.demotable (m : Mach) (tick nd : Nat) (p : Page) : Bool := m.demotableAt tick nd p && !m.moving p

/-- A page is among the least accessed of an ND's pages that rule 4 speaks of, those included whose move has just started. -/
def Mach.leastUsed (m : Mach) (tick nd : Nat) (p : Page) : Bool :=
  m.pages.all fun q => !m.demotableAt tick nd q || decide (p.total ≤ q.total)

/-- Rule 4 holds for a page. -/
def Mach.demotes (m : Mach) (tick : Nat) (p : Page) : Bool :=
  decide (p.home < 8) && m.lowOn p.home && m.demotable tick p.home p && m.leastUsed tick p.home p

/-- A victim of rule 4 on an ND without free frames: the first of its least accessed pages. -/
def Mach.demoteVictim (m : Mach) (tick nd : Nat) : Mach :=
  match m.pages.find? fun p => m.demotable tick nd p && m.leastUsed tick nd p with
  | none => m
  | some p => (m.startMove p (farOf nd)).getD m

/-- Promote a page to an ND; without a free frame a victim of that ND goes first and the page's move is due in the epoch that
begins (R374). -/
def Mach.promote (m : Mach) (tick : Nat) (p : Page) (nd : Nat) : Mach :=
  match m.startMove p nd with
  | some m => m.mapPage p.asid p.va fun q => { q with due := none }
  | none => (m.demoteVictim tick nd).mapPage p.asid p.va fun q => { q with due := some nd }

/-- The decision for one page (R374): the first rule that applies. -/
def Mach.decidePage (m : Mach) (tick : Nat) (p : Page) : Mach :=
  if m.pinned p || p.anchored tick || m.moving p then m
  else if p.hint == 2 && decide (p.home < 8) then (m.startMove p (farOf p.home)).getD m
  else match m.promotes p with
    | some nd => m.promote tick p nd
    | none => if m.demotes tick p then (m.startMove p (farOf p.home)).getD m else m

/-- A promotion that has been due since the latest decision may start: the page is where it was, unpinned, not anchored, free to move, not
kept far, of a partition whose rules are on (R373, R374, R376). -/
def Mach.dueOpen (m : Mach) (tick : Nat) (p : Page) : Bool :=
  p.hint != 2 && policyAuto (m.policyOf p) && !m.pinned p && !p.anchored tick && !m.moving p && p.due.any (· != p.home)

/-- The promotions that are due start as far as frames are free (R374). -/
def Mach.startDue (m : Mach) (tick : Nat) : Mach :=
  m.pages.foldl (fun (m : Mach) p => match p.due with
    | none => m
    | some nd => if m.dueOpen tick p then
        match m.startMove p nd with
        | some m => m.mapPage p.asid p.va fun q => { q with due := none }
        | none => m
      else m) m

/-! ## PREF requests (R375) -/

/-- A page lies in the tier of a target home. -/
def Page.inTierOf (p : Page) (target : Nat) : Bool := decide (p.home < 8) == decide (target < 8)

/-- A request is dropped (R373, R375): for a page that is in the tier, pinned, anchored, or moving, or that its hint keeps far. -/
def Mach.prefDrops (m : Mach) (tick : Nat) (r : PrefReq) (p : Page) : Bool :=
  p.inTierOf r.target || m.pinned p || p.anchored tick || m.moving p || (p.hint == 2 && decide (r.target < 8))

/-- The oldest request of tug `f`, served or dropped; none when there is none, or when it waits for a frame. -/
def Mach.servePref (m : Mach) (tick f : Nat) : Option Mach :=
  match vget m.prefs f [] with
  | [] => none
  | r :: rest =>
    let drop : Mach := { m with prefs := vset m.prefs f rest }
    match m.pages.find? fun p => p.asid == r.asid && p.va == r.va with
    | none => some drop
    | some p => if m.prefDrops tick r p then some drop else drop.startMove p r.target

/-- PREF_REQUEST_SERVE (R375): the oldest request of the tug `fd`; without a free frame it waits. -/
def execPrefRequestServe (s : State) : Out := onMach s fun k m => (m.servePref k.tick k.occ.fd.val).getD m

/-- The requests of tug `f` in arrival order, at most `n`, up to the first that waits for a frame. -/
def Mach.servePrefs (m : Mach) (tick f : Nat) : Nat → Mach
  | 0 => m
  | n + 1 =>
    match m.servePref tick f with
    | some m => m.servePrefs tick f n
    | none => m

/-- An epoch ends in this clock: the tick's first clock, at a multiple of the epoch. -/
def epochEnds (cyc tick : Nat) : Bool := cyc % 96 == 0 && tick % epochTicks == 0 && tick != 0

/-- Tug `f` is still to decide for the epoch that ends in this clock. -/
def Mach.epochOpen (m : Mach) (cyc tick f : Nat) : Bool := epochEnds cyc tick && vget m.epochAt f 0 != tick + 1

/-- The counts begin afresh once both tugs have decided for the epoch: a decision looks at pages of both halves (R374). -/
def Mach.nextEpoch (m : Mach) (cyc tick : Nat) : Mach :=
  if m.epochOpen cyc tick 0 || m.epochOpen cyc tick 1 then m else { m with pages := m.pages.map fun p => { p with counts := [] } }

/-- Tug `f` decides for the epoch that ends: after the PREF requests that have arrived (R375), for the pages of its half (R371, R374). -/
def Mach.decideEpoch (m : Mach) (cyc tick f : Nat) : Mach :=
  let m := m.servePrefs tick f (vget m.prefs f []).length
  let mine := (m.pages.filter fun p => halfOf p.home == f).map fun p => { p with due := none }
  let m := { m with
    epochAt := vset m.epochAt f (tick + 1)
    pages := m.pages.map fun p => if halfOf p.home == f then { p with due := none } else p }
  (mine.foldl (fun (m : Mach) p => m.decidePage tick p) m).nextEpoch cyc tick

/-- EPOCH_DECISION (R371, R374): at the end of an epoch the tug `fd` decides. -/
def execEpochDecision (s : State) : Out :=
  onMach s fun k m => if m.epochOpen k.cyc k.tick k.occ.fd.val then m.decideEpoch k.cyc k.tick k.occ.fd.val else m

/-! ## The end of a move (R377, R379) -/

/-- Ticks in 4 ms and in 64 ms. -/
def anchorSpan : Nat := 62500
def anchorTicks : Nat := 1000000

/-- A page after a move at a tick: the third of three consecutive moves within 4 ms anchors it. -/
def Page.moved (p : Page) (pa tick : Nat) : Page × Bool :=
  let ms := (tick :: p.moves).take 3
  let third := match ms[2]? with
    | some t => decide (tick ≤ t + anchorSpan)
    | none => false
  ({ p with pa := pa, moves := ms, anchoredUntil := if third == true then tick + anchorTicks else p.anchoredUntil }, third)

/-- Count an anchoring in the owning partition's telemetry (R379). -/
def Mach.countAnchor (m : Mach) (part : Nat) : Mach :=
  m.setPart part { m.partition part with anchored := (m.partition part).anchored + 1 }

/-- Steps 5 and 6 of R377: the page's bytes at the new home, the leaf, the old frame freed, the hold released. -/
def Mach.commitMove (m : Mach) (tick : Nat) (v : TierMove) : Mach :=
  let m := { m with mem := m.mem.lay v.dst v.size m.mem v.src }.noteRange v.dst v.size
  let m := (m.setLeaf v.asid v.va v.dst).freeFrameAt v.src v.size
  let m := { m with moves := m.moves.filter fun x => !(x.asid == v.asid && x.va == v.va) }
  match m.pages.find? fun p => p.asid == v.asid && p.va == v.va with
  | none => m
  | some p =>
    let (q, third) := p.moved v.dst tick
    let m := m.mapPage v.asid v.va fun _ => q
    if third == true then m.countAnchor (m.pagePart p) else m

/-- TUG_MOVE_COMMIT (R377): move number `k`, whose invalidation has completed. -/
def execTugMoveCommit (s : State) : Out :=
  onMach s fun k m =>
    match m.moves[k.occ.k]? with
    | none => m
    | some v => if m.invals.any fun i => i.id == v.inval then m else m.commitMove k.tick v

/-- ANCHOR_EXPIRY (R379): the page at `va` of `asid` may move again 64 ms after its anchoring. -/
def execAnchorExpiry (s : State) : Out :=
  onMach s fun k m =>
    m.mapPage k.occ.asid k.occ.va fun p => if p.anchoredUntil ≤ k.tick then { p with anchoredUntil := 0 } else p

/-- The PREF requests that wait for a frame, and after them the promotions that are due, start as far as frames are free (R374, R375). -/
def Mach.takeFrames (m : Mach) (tick : Nat) : Mach :=
  ([0, 1].foldl (fun (m : Mach) f => m.servePrefs tick f (vget m.prefs f []).length) m).startDue tick

/-- FREE_FRAME_SUPPLY (R377): system software supplies free frames of a home: aligned, within the home. -/
def execFreeFrameSupply (s : State) : Out :=
  onMach s fun k m =>
    let h := k.occ.home.val
    let ok (f : Nat × Bool) : Bool :=
      let n := if f.2 then 2 ^ 21 else 2 ^ 16
      f.1 / 2 ^ 48 == h && f.1 % n == 0 && decide (f.1 % 2 ^ 48 + n ≤ homeBytes h)
    { m with free := vset m.free h (vget m.free h [] ++ k.occ.frames.filter ok) }.takeFrames k.tick

end Sys2Proof.Machine
end

