-- ==== Sys2Proof/Machine/Wharf.lean ====
section
/-!
DEFINITION. Machine/Wharf.lean: the host queues and their packets (R390, R407-R409), invalidations (R266), and the management
packets that act on contexts, tasks and pages (R272, R372, R378, R394, R401). The fields of a management packet come with
its occurrence (notes/assumptions/17.md).
-/

namespace Sys2Proof.Machine

/-! ## Queues (R407) -/

/-- The place of a queue among the 1,025. -/
def queueIndex : QueueId → Nat
  | .vm v n => 64 * v.val + n.val
  | .mgmt => 1024

/-- The VM of a tenant queue. -/
def queueVm : QueueId → Option Nat
  | .vm v _ => some v.val
  | .mgmt => none

/-- A queue's control block. -/
def Mach.queue (m : Mach) (q : QueueId) : HostQ := vget m.queues (queueIndex q) HostQ.init

/-- The machine with one control block replaced. -/
def Mach.setQueue (m : Mach) (q : QueueId) (x : HostQ) : Mach := { m with queues := vset m.queues (queueIndex q) x }

/-- A control block that holds nothing of the packet at its head. -/
def HostQ.fresh (x : HostQ) : HostQ := { x with inval := none, fenceOn := false, fenceGot := [], descGot := none, full := none }

/-- The wharf's firmware runs, so that its queue registers answer (R425): bring-up has gone past step 2. -/
def Mach.wharfUp (m : Mach) : Bool := m.mgmt.on && (m.mgmt.bring == 0 || decide (2 < m.mgmt.bring))

/-- The place of a host bus address (R262: home 12). -/
def hostKey (a : Nat) : Nat := 12 * 2 ^ 48 + a % 2 ^ 48

/-- The place of the slot at HEAD. -/
def HostQ.slotAt (q : HostQ) : Nat := hostKey (q.base.toNat + 256 * (q.head.toNat % 2 ^ q.size.toNat))

/-- A queue's partition lets its packets be parsed (R385, R419): it has a configuration and is not being reset. The
management queue, and in service mode every queue, needs none. -/
def Mach.queueLive (m : Mach) (q : QueueId) (x : HostQ) : Bool :=
  let p := vget m.parts x.part.toNat Partition.init
  q == .mgmt || m.mgmt.svc || (p.conf.isSome && !p.resetting)

/-- A packet at the head of a queue that is parsed: its queue, its place, its TYPE and byte 1. -/
structure Packet where
  q : QueueId
  blk : HostQ
  key : Nat
  type : Nat
  b1 : Nat
deriving DecidableEq, Repr

/-- The packet at the head of a queue (R407): bring-up is complete, slots are written, the queue is not stopped. -/
def Mach.packetAt (m : Mach) (q : QueueId) : Option Packet :=
  let x := m.queue q
  if m.mgmt.ready && x.head != x.tail && !x.stopped && decide (4 ≤ x.size.toNat) && decide (x.size.toNat ≤ 16) && m.queueLive q x then
    some ⟨q, x, x.slotAt, (m.get x.slotAt).toNat, (m.get (x.slotAt + 1)).toNat⟩
  else none

/-- Vector 0 of the queue's VM, or of the physical function (R409). -/
def Mach.vectorZero (m : Mach) (p : Packet) : Mach :=
  match queueVm p.q with
  | some v => m.sendVm p.blk.part.toNat v 0
  | none => { m with msgs := m.msgs ++ [⟨none, 0, m.nextSeq⟩], nextSeq := m.nextSeq + 1 }

/-- A packet fails (R409): STOPPED, ERR, vector 0; HEAD rests. -/
def Mach.packetError (m : Mach) (p : Packet) (code : Byte) : Mach :=
  (m.setQueue p.q { (m.queue p.q).fresh with stopped := true, stopSeen := false, err := code }).vectorZero p

/-- Packet error 5 (R409): the fault's trap code is in an event record. -/
def Mach.addressError (m : Mach) (p : Packet) (code : Byte) (a : W64) : Mach :=
  (m.report code p.blk.part.toNat 0 a).packetError p 5

/-- The packet's interrupt, when IRQ is set (R408): VEC of the queue. -/
def Mach.packetIrq (m : Mach) (p : Packet) : Mach :=
  if decide (128 ≤ p.b1) then
    match queueVm p.q with
    | some v => m.sendVm p.blk.part.toNat v p.blk.vec.toNat
    | none => { m with msgs := m.msgs ++ [⟨none, p.blk.vec.toNat, m.nextSeq⟩], nextSeq := m.nextSeq + 1 }
  else m

/-- A packet is retired (R408). -/
def Mach.retirePacket (m : Mach) (p : Packet) : Mach :=
  let x := m.queue p.q
  (m.setQueue p.q { x.fresh with head := x.head + 1 }).packetIrq p

/-- A queue on which a packet acts (R409, R427): in service mode a tenant queue's packet fails with error 6. -/
def Mach.tenantBarred (m : Mach) (p : Packet) : Bool := m.mgmt.svc && p.q != .mgmt

/-- The TYPEs of packets that bring an ASID (R408). -/
def asidTypes : List Nat := [0x10, 0x11, 0x13, 0x14, 0x15, 0x16, 0x17]

/-- A field of a management packet is outside its stated range (R409): bits [6:0] of byte 1 are reserved, an ASID is below 512 (R415). -/
def Packet.fieldsBad (p : Packet) (o : Occ) : Bool := p.b1 % 128 != 0 || (asidTypes.contains p.type && decide (512 ≤ o.asid))

/-- A step of the packet at the head of queue `occ.queue`, when its TYPE is one of `types`; a management packet on a tenant
queue fails with error 6, one with a field outside its range with error 1 (R409). -/
def onPacket (s : State) (types : List Nat) (mgmt : Bool) (f : Ctl → Mach → Packet → Mach) : Out :=
  onMach s fun k m =>
    match m.packetAt k.occ.queue with
    | none => m
    | some p =>
      if !types.contains p.type then m
      else if m.tenantBarred p || (mgmt && p.q != .mgmt) then m.packetError p 6
      else if mgmt && p.fieldsBad k.occ then m.packetError p 1
      else f k m p

/-- A management packet that acts once and is retired. -/
def onMgmt (s : State) (type : Nat) (f : Ctl → Mach → Mach) : Out :=
  onPacket s [type] true fun k m p => (f k m).retirePacket p

/-- The TYPE codes of R408. -/
def packetTypes : List Nat := [0, 1, 2, 3] ++ (List.range 14).map (16 + ·)

/-- Bytes `a` up to `b` of a packet are zero. -/
def Mach.zeroBytes (m : Mach) (p : Packet) (a b : Nat) : Bool := m.rd (p.key + a) (b - a) == 0

/-! ## Doorbell and error register (R407) -/

/-- QUEUE_DOORBELL (R407): a write of TAIL; 0, after STOPPED has been read, restarts a stopped queue empty. -/
def execQueueDoorbell (s : State) : Out :=
  onMach s fun k m =>
    let x := m.queue k.occ.queue
    if !m.wharfUp then m
    else if x.stopped && x.stopSeen && k.occ.tail == 0 then
      m.setQueue k.occ.queue { x.fresh with head := 0, tail := 0, stopped := false, stopSeen := false }
    else m.setQueue k.occ.queue { x with tail := k.occ.tail }

/-- The 64-bit word of a control block that holds VEC, STOPPED, ERR and half of HEAD: bits [319:256] (R407). -/
def HostQ.errWord (x : HostQ) : W64 :=
  BitVec.ofNat 64 (x.head.toNat * 2 ^ 32 + x.err.toNat * 2 ^ 24 + (if x.stopped == true then 2 ^ 23 else 0) + x.vec.toNat * 2 ^ 10)

/-- QUEUE_ERR_READ (R6, R407): a read of the word that holds ERR and STOPPED. -/
def execQueueErrRead (s : State) : Out :=
  onMach s fun k m =>
    let x := m.queue k.occ.queue
    if !m.wharfUp then m
    else { m.setQueue k.occ.queue { x with err := 0, stopSeen := x.stopped } with regData := x.errWord }

/-! ## Packets of every queue (R390, R408) -/

/-- NOP_PACKET (R408, R409): a NOP, or a packet of an undefined TYPE, which fails. -/
def execNopPacket (s : State) : Out :=
  onMach s fun k m =>
    match m.packetAt k.occ.queue with
    | none => m
    | some p =>
      if p.type != 0 && packetTypes.contains p.type then m
      else if m.tenantBarred p then m.packetError p 6
      else if p.type != 0 || p.b1 % 128 != 0 then m.packetError p 1
      else m.retirePacket p

/-- The partition whose scratchpads a queue's addresses may name (R432): the one that holds its ASID. -/
def Mach.queueAccess (m : Mach) (p : Packet) : Access :=
  Access.system p.blk.asid.toNat ((m.partOfAsid p.blk.asid.toNat).getD 64)

/-- The packet error for a failing check of R188 (R408, R409). -/
def enqueueError : Nat → Byte
  | 3 => 2
  | 4 => 3
  | 2 => 4
  | _ => 5

/-- The enqueue of a packet's task (R188, R408): what its descriptor has given waits, an error stops the queue, and a task without a place
is refused until a mooring is released (R388). -/
def Mach.enqueue (m : Mach) (cyc : Nat) (p : Packet) (a : W64) : Mach :=
  let rank := queueRank (queueIndex p.q)
  let isMgmt := p.q == .mgmt
  match m.fetchTask cyc (m.queueAccess p) (if isMgmt then none else some p.blk.part.toNat) a p.blk.descGot with
  | (m, .wait got) => m.setQueue p.q { m.queue p.q with descGot := got, full := none }
  | (m, .bad r) => if r.status == 5 then m.addressError p r.code a else m.packetError p (enqueueError r.status)
  | (m, .task d x) =>
    match m.place cyc rank (Task.fresh a d x 0 0 isMgmt) with
    | (m, none) => m.setQueue p.q { m.queue p.q with descGot := none, full := some m.unmoored }
    | (m, some _) => m.retirePacket p

/-- An ENQUEUE packet acts (R408), once it may reach the lock-keeper in this clock (R387); a refused one does so at a mooring release
(R388). -/
def Mach.enqueuePacket (m : Mach) (cyc : Nat) (p : Packet) : Mach :=
  if p.b1 % 128 != 0 || !m.zeroBytes p 2 8 then m.packetError p 1
  else if p.blk.full == some m.unmoored || !m.mayEnqueue cyc (queueRank (queueIndex p.q)) then m
  else m.enqueue cyc p (BitVec.ofNat 64 (m.rd (p.key + 8) 8))

/-- ENQUEUE (R408): the descriptor is read under the queue's ASID and checked; a task without a place waits (R388). -/
def execEnqueue (s : State) : Out := onPacket s [1] false fun k m p => m.enqueuePacket k.cyc p

/-- The queue, by its place among the 1,025. -/
def queueOf (i : Nat) : QueueId :=
  if h : i / 64 < 16 then .vm ⟨i / 64, h⟩ ⟨i % 64, Nat.mod_lt _ (by decide)⟩ else .mgmt

/-- The queues whose refused enqueue is to be retried (R388). -/
def Mach.retryQueues (m : Mach) : List Nat := (m.queues.toList.zipIdx.filter fun x => m.retryDue x.1).map (·.2)

/-- The refused enqueue that is retried first, at a mooring release (R387, R388); a packet that has become another one is parsed
afresh. None when there is none, or when it waits for the next clock. -/
def Mach.retryEnqueue (m : Mach) (cyc : Nat) : Option Mach :=
  let l := m.retryQueues
  match if l.contains 1024 then some 1024 else l.head? with
  | none => none
  | some i =>
    let q := queueOf i
    match m.packetAt q with
    | none => none
    | some p =>
      if p.type != 1 then some (m.setQueue q { m.queue q with full := none })
      else if m.mayEnqueue cyc (queueRank i) then some (m.enqueuePacket cyc p)
      else none

/-- WRITE (R408): 8 bytes under the system translation, in a position of the scratchpad that they lie in (R26). -/
def execWrite (s : State) : Out :=
  onPacket s [3] false fun k m p =>
    if p.b1 % 128 != 0 || !m.zeroBytes p 2 8 then m.packetError p 1
    else
      let a := BitVec.ofNat 64 (m.rd (p.key + 8) 8)
      let A := m.queueAccess p
      if m.accessHeld k.cyc A .write a 8 then m
      else
        let ps := m.accessPlaces A .write a 8
        match m.writeAt A a 8 (m.rd (p.key + 16) 8) with
        | (m, some x) => m.addressError p x.code a
        | (m, none) => (m.takeFrees k.cyc ps).retirePacket p

/-- The counters of a FENCE (R390): address, value, compared for equality. -/
def Mach.fenceCounters (m : Mach) (p : Packet) : List (W64 × Nat × Bool) :=
  let cond := m.rd (p.key + 2) 2
  (List.range (p.b1 % 128)).map fun i =>
    (BitVec.ofNat 64 (m.rd (p.key + 16 + 16 * i) 8), m.rd (p.key + 24 + 16 * i) 8, cond.testBit i)

/-- FENCE_PACKET (R390): a FENCE is parsed: 1-12 counters, 8-byte aligned, reserved bytes zero. -/
def execFencePacket (s : State) : Out :=
  onPacket s [2] false fun _ m p =>
    let n := p.b1 % 128
    let ok := decide (1 ≤ n) && decide (n ≤ 12) && m.zeroBytes p 4 16 && (m.fenceCounters p).all fun c => c.1.toNat % 8 == 0
    if (m.queue p.q).fenceOn then m
    else if ok then m.setQueue p.q { m.queue p.q with fenceOn := true }
    else m.packetError p 1

/-- A round of counter reads goes on (R390) with the counters that are left of it: what those read have given, as far as none waits for
a page that is being moved (R377) or for a position (R26), or the address that faulted with its code. -/
def Mach.fenceRound (m : Mach) (cyc : Nat) (A : Access) : List (W64 × Nat × Bool) → Mach × Except (W64 × Byte) (List Bool)
  | [] => (m, .ok [])
  | (a, v, eq) :: cs =>
    if m.accessHeld cyc A .read a 8 then (m, .ok [])
    else
      let ps := m.accessPlaces A .read a 8
      match m.readAt A .read a 8 with
      | (m, .error x) => (m, .error (a, x.code))
      | (m, .ok n) =>
        match (m.takeFrees cyc ps).fenceRound cyc A cs with
        | (m, .ok l) => (m, .ok ((if eq then n == v else decide (v ≤ n)) :: l))
        | (m, .error e) => (m, .error e)

/-- FENCE_POLL (R390): the counters of a parsed FENCE are read in rounds; when every condition holds in one round it is satisfied. -/
def execFencePoll (s : State) : Out :=
  onPacket s [2] false fun k m p =>
    let x := m.queue p.q
    if !x.fenceOn then m
    else
      let cs := m.fenceCounters p
      match m.fenceRound k.cyc (m.queueAccess p) (cs.drop x.fenceGot.length) with
      | (m, .error (a, c)) => m.addressError p c a
      | (m, .ok l) =>
        let got := x.fenceGot ++ l
        if got.length < cs.length then m.setQueue p.q { x with fenceGot := got }
        else if got.all id then m.retirePacket p
        else m.setQueue p.q { x with fenceGot := [] }

/-! ## Invalidations (R266, R398) -/

/-- INVALIDATE (R266): the invalidation starts; its packet is retired when it completes. -/
def execInvalidate (s : State) : Out :=
  onPacket s [0x10] true fun k m p =>
    if (m.queue p.q).inval.isSome then m
    else
      let (m, id) := m.startInval k.occ.asid k.occ.va k.occ.len
      m.setQueue p.q { m.queue p.q with inval := some id }

/-- Accesses of an ASID that have been translated are still to be performed (R266): posted writes to memory. -/
def Mach.asidOut (m : Mach) (asid : Nat) : Bool :=
  m.engines.toList.any fun (g : Engine) => g.asid == asid && g.posts.any fun p => p.parts.any fun x => !isSp x.1

/-- INVALIDATION_COMPLETE (R266): number `k`, once what was translated under its ASID has been performed. -/
def execInvalidationComplete (s : State) : Out :=
  onMach s fun k m =>
    match m.invals.find? fun i => i.id == k.occ.k with
    | none => m
    | some i =>
      if m.asidOut i.asid then m
      else
      let m := { m with invals := m.invals.filter fun j => j.id != i.id }
      let m := (m.dropTlbs i.asid i.base i.len).chill i.asid i.base i.len
      match m.packetAt .mgmt with
      | some p => if p.blk.inval == some i.id then m.retirePacket p else m
      | none => m

/-! ## The resume doorbell (R272, R378) -/

/-- A context after a doorbell: a suspended one with cause 0x80 retries its element; a walk in flight is made once more. -/
def Ctx.doorbell (x : Ctx) (va len : Nat) : Ctx :=
  let inRange (a : Nat) : Bool := decide (va ≤ a) && decide (a < va + len)
  if x.st == .suspended && x.susp.cause == trNotPresent && inRange x.susp.va.toNat then { x with st := .running, susp := Susp.none }
  else match x.hold with
    | .walk a _ => if inRange a then { x with rung := true } else x
    | _ => x

/-- A doorbell has some context of an engine leave STATE 3. -/
def Engine.rings (g : Engine) (asid va len : Nat) : Bool :=
  g.asid == asid && g.ctxs.toList.any fun x => x.st == .suspended && (x.doorbell va len).st != .suspended

/-- The doorbell at every context, bind and saved task of an ASID (R133, R272, R275); the swap-out time of a core starts afresh with a
context that retries (R274). -/
def Mach.doorbell (m : Mach) (asid va len : Nat) : Mach :=
  let inRange (a : Nat) : Bool := decide (va ≤ a) && decide (a < va + len)
  let since (n : Fin 320) : Option Nat :=
    if (m.engine (.core n)).rings asid va len then none else vget m.swapSince n.val none
  let bind (r : BindRec) : BindRec :=
    if (m.taskOf r.tid).any (fun t => t.asid == asid) && r.waitVa.any inRange then { r with waitVa := none } else r
  { m with
    engines := m.engines.map fun (g : Engine) =>
      if g.asid == asid then { g with ctxs := g.ctxs.map fun (x : Ctx) => x.doorbell va len } else g
    swapSince := Vector.ofFn since
    slots := m.slots.map bind
    tasks := m.tasks.map fun t => { t with waitDoorbell := t.waitDoorbell.filter fun w => !(w.1 == asid && inRange w.2) } }

/-- The tug moves a page that a range touches. -/
def Mach.movingIn (m : Mach) (asid va len : Nat) : Bool := m.moves.any fun v => v.asid == asid && rangesMeet v.va v.size va len

/-- RESUME (R272): served after step 6 of a move of a page in its range (R378). -/
def execResume (s : State) : Out :=
  onPacket s [0x11] true fun k m p =>
    let o := k.occ
    if m.movingIn o.asid o.va o.len then m else (m.doorbell o.asid o.va o.len).retirePacket p

/-! ## Tasks (R394, R401, R391) -/

/-- PRIORITY (R394): 0-7; any other is outside its stated range (R409). -/
def execPriority (s : State) : Out :=
  onPacket s [0x12] true fun k m p =>
    if 7 < k.occ.prio.toNat then m.packetError p 1
    else (m.mapTask k.occ.tid fun t => { t with prio := k.occ.prio.toNat }).retirePacket p

/-- A task's code, move program or segment table lies in a range of its ASID. -/
def Task.codeIn (t : Task) (asid va len : Nat) : Bool :=
  t.asid == asid && (rangesMeet t.desc.codeBase.toNat t.desc.codeLen va len || rangesMeet t.desc.segTab.toNat (32 * t.desc.segCnt) va len)

/-- REVOKE (R398, R401). -/
def execRevoke (s : State) : Out :=
  onMgmt s 0x13 fun k m =>
    let o := k.occ
    let hit := m.tasks.filter fun t => t.st == .bound && t.codeIn o.asid o.va o.len
    let m := hit.foldl (fun (m : Mach) t => match m.coreOf t.tid with
      | some n => m.requestPreempt n
      | none => m) m
    m.chill o.asid o.va o.len

/-- REMOVE (R391, R408): a lost task's dependants, and its own record, are dropped (log entry 29). -/
def execRemove (s : State) : Out :=
  onMgmt s 0x1D fun k m =>
    let tid := k.occ.tid
    if (m.taskOf tid).any (fun t => t.st == .lost) then
      ((m.tasks.filter fun t => t.after.contains tid).foldl (fun (m : Mach) t => m.forgetTask t) m).dropTask tid
    else m

/-! ## Pages (R372, R378) -/

/-- PIN (R372). -/
def execPin (s : State) : Out := onMgmt s 0x14 fun k m => { m with pins := m.pins ++ [(k.occ.asid, k.occ.va, k.occ.len)] }

/-- A pinned range without what another range covers. -/
def unpinRange (asid va len : Nat) (x : Nat × Nat × Nat) : List (Nat × Nat × Nat) :=
  let (a, b, n) := x
  if a == asid && rangesMeet b n va len then
    [(a, b, va - b), (a, va + len, b + n - (va + len))].filter fun y => y.2.2 != 0
  else [x]

/-- UNPIN (R372). -/
def execUnpin (s : State) : Out :=
  onMgmt s 0x15 fun k m => { m with pins := (m.pins.map (unpinRange k.occ.asid k.occ.va k.occ.len)).flatten }

/-- What the homes know of a page after its leaf is written: a leaf that is not present ends it (R373). -/
def Mach.leafWritten (m : Mach) (asid va e : Nat) : Mach :=
  let mine (p : Page) : Bool := p.asid == asid && decide (p.va ≤ va) && decide (va < p.va + p.size)
  if pteP e then { m with pages := m.pages.map fun p => if mine p then { p with pa := pteAddr e } else p }
  else { m with pages := m.pages.filter fun p => !mine p }

/-- A leaf that a packet may write is not present, or meets the layout of R264: reserved bits zero, the base aligned to its
page. -/
def leafFits (level2 : Bool) (e : Nat) : Bool :=
  !pteP e || (!pteRsv e && pteAddr e % (if level2 && pteLeaf e then 2 ^ 21 else 2 ^ 16) == 0)

/-- Write the leaf of an address, once no move of its page is in progress (R378); an ill-formed leaf gives packet error 1
(R409), missing tables above it packet error 5 (log entry 17). -/
def leafPacket (s : State) (type : Nat) (f : Ctl → Nat) : Out :=
  onPacket s [type] true fun k m p =>
    let o := k.occ
    if !leafFits (m.leafIsLevel2 o.asid o.va) (f k) then m.packetError p 1
    else if m.movingIn o.asid o.va 1 then m
    else match m.leafSlot o.asid o.va with
      | none => m.addressError p trNotPresent (BitVec.ofNat 64 o.va)
      | some key => ((m.wr key 8 (f k)).leafWritten o.asid o.va (f k)).retirePacket p

/-- UNMAP (R378). -/
def execUnmap (s : State) : Out := leafPacket s 0x16 fun _ => 0

/-- REMAP (R378): the leaf is `word`. -/
def execRemap (s : State) : Out := leafPacket s 0x17 fun k => k.occ.word.toNat

end Sys2Proof.Machine
end

