-- ==== Sys2Proof/Machine/Manage.lean ====
section
/-!
DEFINITION. Machine/Manage.lean: partition configurations and slot tables (R293, R376, R385, R415, R416), register writes (R6,
R407, R430), and the dry dock's packets: checkpoint, restore, die retirement (R421-R423). The fields of a management packet
come with its occurrence (notes/assumptions/17.md).
-/

namespace Sys2Proof.Machine

/-! ## Configurations (R385, R415) -/

/-- Read a configuration of 128 bytes. -/
def PartConf.parse (n : Nat) : PartConf where
  cores := fld n 0 0x28
  moorQ := fld n 0x28 2
  swapT := fld n 0x2A 2
  ovCount := fld n 0x2C 4
  ovBase := fld n 0x30 8
  frameBase := fld n 0x38 8
  frameCnt := fld n 0x40 2
  otSrc := fld n 0x48 8
  otBase := fld n 0x50 4
  otLen := fld n 0x54 2
  rsvBase := fld n 0x58 8
  rsvLen := fld n 0x60 8
  rsv := fld n 0x42 6 == 0 && fld n 0x56 2 == 0 && fld n 0x68 24 == 0

/-- The fields of a configuration meet their ranges (R385). -/
def PartConf.fieldsOk (f : PartConf) : Bool :=
  f.rsv && decide (1 ≤ f.moorQ) && decide (f.moorQ ≤ 4096) && decide (f.swapT ≤ 1000) && decide (f.ovCount ≤ 1048576) &&
    f.ovCount % 2048 == 0 && f.ovBase % 0x10000 == 0 && decide (f.ovBase / 2 ^ 48 ≤ 9) && decide (1 ≤ f.frameCnt) &&
    f.otBase % 256 == 0 && decide (f.otLen ≤ 15872) && decide (f.otBase + 256 * f.otLen ≤ 0x3E0000) &&
    f.rsvBase % 0x10000 == 0 && decide (f.rsvBase / 2 ^ 48 ≤ 7) && f.rsvLen % 0x10000 == 0

/-- The configurations of the other partitions. -/
def Mach.otherConfs (m : Mach) (p : Nat) : List PartConf :=
  (List.range 64).filterMap fun q => if q == p then none else (m.partition q).conf

/-- A configuration is valid for a partition beside the others (R385, R415): moorings within 4,096, cores of no other
partition. -/
def Mach.confOk (m : Mach) (p : Nat) (f : PartConf) : Bool :=
  f.fieldsOk && decide (((m.otherConfs p).map (·.moorQ)).sum + f.moorQ ≤ 4096) &&
    (m.otherConfs p).all fun g => f.cores &&& g.cores == 0

/-- The instances of a shared resource (R416): 0 ring injection, each of 4 rings at each of 19 stops; 1 HBM ports, 32 of each ND;
2 basin acceptance of each ND; 3 far-tier ports, LPDDR6 and four CXL ports of each FD. -/
def slotInstances : Nat → Nat
  | 0 => 76
  | 1 => 256
  | 2 => 8
  | 3 => 10
  | _ => 0

/-- A slot table (R416): of an instance that there is, 64 entries that name a partition or none. -/
def slotTableOk (t : Nat × Nat × List Byte) : Bool :=
  decide (t.2.1 < slotInstances t.1) && t.2.2.length == 64 && t.2.2.all fun b => decide (b.toNat < 64) || b == 0xFF

/-- A number from bytes, little-endian (R3). -/
def leBytes (l : List Byte) : Nat := l.foldr (fun b n => b.toNat + 256 * n) 0

/-- Read an admission entry of 64 bytes (R293). -/
def AdmEntry.parse (l : List Byte) : AdmEntry where
  lo := fld (leBytes l) 0 8
  hi := fld (leBytes l) 8 8
  nsrc := fld (leBytes l) 16 1
  part := fld (leBytes l) 17 1
  srcs := (List.range 16).map fun i =>
    let v := fld (leBytes l) (0x20 + 2 * i) 2
    (v % 64, v / 64 % 16)

/-- An admission entry's bytes meet their ranges for a partition (R293): LO aligned, on an ND, the range within it; at most 16 sources,
each an engine of a die; the owner; reserved bits zero. -/
def admOk (p : Nat) (l : List Byte) : Bool :=
  let n := leBytes l
  let e := AdmEntry.parse l
  l.length == 64 && e.lo % 64 == 0 && decide (e.lo / 2 ^ 48 < 8) && decide (e.lo ≤ e.hi) &&
    decide (e.hi ≤ e.lo / 2 ^ 48 * 2 ^ 48 + homeBytes 0) &&
    decide (e.nsrc ≤ 16) && e.part == p && fld n 0x12 14 == 0 &&
    (List.range 16).all fun i =>
      let v := fld n (0x20 + 2 * i) 2
      decide (v % 64 < 48) && decide (v / 64 % 16 < 10) && v / 1024 == 0

/-- The entries of a list do not overlap. -/
def admApart : List AdmEntry → Bool
  | [] => true
  | e :: es => es.all (fun f => decide (f.hi ≤ e.lo) || decide (e.hi ≤ f.lo)) && admApart es

/-- The used admission entries of the partitions other than one. -/
def Mach.otherAdmission (m : Mach) (p : Nat) : List AdmEntry :=
  ((List.range 64).map fun q => if q == p then [] else (m.partition q).admission.filter fun e => e.nsrc != 0).flatten

/-- The admission entries of a partition fit (R293): each is well formed, they lie apart, and no home slice holds more than 16. -/
def Mach.admissionOk (m : Mach) (p : Nat) (ls : List (List Byte)) : Bool :=
  let used := (ls.map AdmEntry.parse).filter fun e => e.nsrc != 0
  ls.all (admOk p) && admApart used &&
    (List.range 8).all fun nd => decide (((m.otherAdmission p ++ used).filter fun e => e.lo / 2 ^ 48 == nd).length ≤ 16)

/-- What comes beside the configuration is valid (R293, R415, R416): a VM, ASIDs of no other partition, slot tables, admission
entries. -/
def Mach.extraOk (m : Mach) (p : Nat) (x : PartExtra) : Bool :=
  decide (x.vm < 16) &&
    (x.asids.all fun a => decide (a < 512) && (List.range 64).all fun q => q == p || !(m.partition q).asids.contains a) &&
    x.slots.all slotTableOk && m.admissionOk p x.admission

/-- Slot tables that wait for their tick: a later table of the same instance replaces an earlier one (R416). -/
def mergeSlots (old new : List SlotTable) : List SlotTable :=
  (old.filter fun t => !new.any fun u => u.resource == t.resource && u.index == t.index) ++ new

/-- Put a configuration in force, after which its slot-table entries are idle no longer (R418); the reserved bits of the policy word read
0 (R376). -/
def Mach.configure (m : Mach) (p addr : Nat) (f : PartConf) (x : PartExtra) : Mach :=
  let m := m.setPart p { m.partition p with
    conf := some f
    confAt := addr
    idle := false
    vm := x.vm
    asids := x.asids
    admission := x.admission.map AdmEntry.parse
    policy := x.policy &&& 0x7FF }
  { m with
    admitted := m.admitted.filter fun a => a.1 != p
    slotNext := some (mergeSlots (m.slotNext.getD []) (x.slots.map fun t => ⟨t.1, t.2.1, t.2.2⟩)) }

/-- PARTCFG (R385, R409, R415): one that breaks a rule fails with error 8 and changes nothing. -/
def execPartcfg (s : State) : Out :=
  onPacket s [0x18] true fun k m p =>
    let o := k.occ
    let f := PartConf.parse (m.rd o.addr 0x80)
    if m.confOk o.part.val f && m.extraOk o.part.val o.extra then (m.configure o.part.val o.addr f o.extra).retirePacket p
    else m.packetError p 8

/-- SLOT_TABLE_SWITCH (R416): at a tick that is a multiple of 16, for every resource at once. -/
def execSlotTableSwitch (s : State) : Out :=
  onMach s fun k m =>
    match m.slotNext with
    | some new => if k.window then { m with slotTabs := mergeSlots m.slotTabs new, slotNext := none } else m
    | none => m

/-! ## Register writes (R6, R407, R430) -/

/-- Change a control block's BASE, SIZE or PART, which a queue that holds packets ignores (R407). -/
def Mach.writeIdle (m : Mach) (q : QueueId) (f : HostQ → HostQ) : Mach :=
  let x := m.queue q
  if x.head == x.tail then m.setQueue q (f x) else m

/-- A power limit within its range (R430). -/
def clampPcap (v : BitVec 16) : BitVec 16 := if v.toNat < 1500 then 1500 else if 4000 < v.toNat then 4000 else v

/-- The 64-bit register of the management controller at an offset (R430). -/
def Mgmt.read (g : Mgmt) (off : Nat) : W64 :=
  let bit (b : Bool) (i : Nat) : Nat := if b == true then 2 ^ i else 0
  BitVec.ofNat 64 <|
    if off == 0 then g.mcid.toNat
    else if off == 8 then
      bit g.ready 0 + bit g.recovery 1 + bit g.svc 2 + bit g.throt 3 + bit g.trip 4 + g.step.toNat * 2 ^ 8
    else if off == 0x10 then bit g.svcReq 0 + bit g.coldRst 1
    else if off == 0x18 then g.pwr.toNat
    else if off == 0x20 then g.tempMax.toNat
    else if off == 0x28 then g.pcap.toNat
    else if off == 0x30 then g.thrCnt.toNat
    else if off == 0x38 then g.fwVer.toNat
    else 0

/-- A write of a register of the management controller, per its fields' access types (R6, R429, R430): a 1 clears TRIP and its record,
SVCREQ takes its bit, a 1 sets COLDRST, which is 1 until step 1 begins, PCAP takes its limit; the others ignore it. -/
def Mgmt.write (g : Mgmt) (off : Nat) (v : W64) : Mgmt :=
  if off == 8 then (if v.getLsbD 4 then { g with trip := false, nv := { g.nv with trip := false } } else g)
  else if off == 0x10 then { g with svcReq := v.getLsbD 0, coldRst := g.coldRst || v.getLsbD 1 }
  else if off == 0x28 then { g with pcap := clampPcap (v.setWidth 16) }
  else g

/-- A write of a register of the management controller, which answers while it has power. -/
def Mach.writeMgmt (m : Mach) (off : Nat) (v : W64) : Mach := if m.mgmt.on then { m with mgmt := m.mgmt.write off v } else m

/-- REGISTER_WRITE (R6): any register, per its access type. PART and ASID are the PF's (R407, R415). -/
def execRegisterWrite (s : State) : Out :=
  onMach s fun k m =>
    let v := k.occ.word
    let queue (m' : Mach) : Mach := if m.wharfUp then m' else m
    match k.occ.reg with
    | .queueBase q => queue (m.writeIdle q fun x => { x with base := v })
    | .queueSize q => queue (m.writeIdle q fun x => { x with size := v.setWidth 8 })
    | .queueVec q => queue (m.setQueue q { m.queue q with vec := v.setWidth 6 })
    | .queuePart q => queue (if k.occ.fromPf then m.writeIdle q fun x => { x with part := v.setWidth 6 } else m)
    | .queueAsid q => queue (if k.occ.fromPf then m.setQueue q { m.queue q with asid := v.setWidth 9 } else m)
    | .mgmt off => m.writeMgmt off v

/-! ## Checkpoints (R366, R421) -/

/-- A task of some partitions is bound, or is being bound. -/
def Mach.busyIn (m : Mach) (ps : List Nat) : Bool := m.tasks.any fun t => t.inParts ps && (t.st == .bound || t.st == .binding)

/-- Step 1 of R421: binds that are not carried out are withdrawn, and every bound task is to be pre-empted. -/
def Mach.clearCores (m : Mach) (tick : Nat) (mine : Nat → Task → Bool) : Mach :=
  (List.range 320).foldl (fun (m : Mach) n =>
    let r := vget m.slots n BindRec.init
    let m := if r.valid && (m.taskOf r.tid).any (mine n) then m.withdraw tick n else m
    match (m.core n).task.bind fun b => m.taskOf b.tid with
    | some t => if mine n t then m.requestPreempt n else m
    | none => m) m

/-- Go on with a checkpoint (R421 steps 3 and 4): once no task of its partitions is on a core it is written and selection
resumes; tasks that were still binding are asked again. -/
def Mach.ckptGo (m : Mach) (tick kind : Nat) (ps : List Nat) : Mach :=
  if m.busyIn ps then m.clearCores tick fun _ t => t.inParts ps
  else { m.writeCkpt (m.ckptOf tick kind ps) with ckptRun := none }

/-- A CHECKPOINT packet of a kind (R421): a first occurrence starts the checkpoint and retires the packet; later ones go on
with it. -/
def ckptPacket (s : State) (kind : Nat) : Out :=
  onMach s fun k m =>
    match m.ckptRun with
    | some (j, ps) => if j == kind then m.ckptGo k.tick kind ps else m
    | none =>
      match m.packetAt k.occ.queue with
      | none => m
      | some p =>
        if p.type != 0x1A then m
        else if p.q != .mgmt then m.packetError p 6
        else if p.b1 % 128 != 0 then m.packetError p 1
        else
          let ps := (k.occ.parts.map (·.val)).eraseDups
          ({ m with ckptRun := some (kind, ps) }.clearCores k.tick fun _ t => t.inParts ps).retirePacket p

/-- CHECKPOINT_FULL (R421). -/
def execCheckpointFull (s : State) : Out := ckptPacket s 0

/-- CHECKPOINT_INCREMENTAL (R421). -/
def execCheckpointIncremental (s : State) : Out := ckptPacket s 1

/-- A checkpoint that a reset of one of its partitions abandons ends with status 2 in its header (R419); the other slot
stays the latest. -/
def Mach.abandonCkpt (m : Mach) (tick : Nat) (part : Nat → Bool) : Mach :=
  match m.ckptRun with
  | some (kind, ps) =>
    if ps.any part then
      let c : Ckpt := ⟨2, kind, ps, tick, [], 0, [], [], [], [], [], [], []⟩
      { m with ckptRun := none, dock := vset m.dock (m.dockNext % 2) (some c) }
    else m
  | none => m

/-! ## Restore (R409, R422) -/

/-- A share of a checkpoint's tasks: those that the packet names, or all. -/
def Ckpt.share (c : Ckpt) (tids : List Nat) : List Task := if tids.isEmpty then c.tasks else c.tasks.filter fun t => tids.contains t.tid

/-- Frames of a partition that no task holds. -/
def Mach.framesFree (m : Mach) (p : Nat) : Nat :=
  match (m.partition p).conf with
  | none => 0
  | some f => ((List.range f.frameCnt).filter fun i => !m.frames.any fun x => x.1 == f.frameBase + frameBytes * i).length

/-- There is room for tasks (R391, R409): entries of the dependence table, and each partition's frames. -/
def Mach.roomFor (m : Mach) (ts : List Task) : Bool :=
  decide (m.tableUsed + (ts.filter Task.inTable).length ≤ 8192) &&
    (List.range 64).all fun p => decide ((ts.filter fun t => t.part == p && t.frame.isSome).length ≤ m.framesFree p)

/-- RESTORE (R422): slot `slot`, the share `tids`, regions placed by the pairs of `ranges`; tasks of the same tids are
replaced. Without room it fails with error 7, of a checkpoint that is not complete with error 1. -/
def execRestore (s : State) : Out :=
  onPacket s [0x1B] true fun k m p =>
    match vget m.dock k.occ.slot.val none with
    | none => m.packetError p 1
    | some c =>
      let ts := c.share k.occ.tids
      let m' := m.forgetTasks fun t => ts.any fun u => u.tid == t.tid
      if c.status != 1 then m.packetError p 1
      else if !m'.roomFor ts then m.packetError p 7
      else (m'.loadCkpt c ts k.occ.ranges).retirePacket p

/-! ## Die retirement (R423) -/

/-- AFFINITY of every task after a die has gone (R422, R423; log entry 29). -/
def Mach.widenAll (m : Mach) : Mach :=
  m.tasks.foldl (fun (m : Mach) t =>
    let (u, wide) := m.widen t
    if wide == true then (m.mapTask t.tid fun _ => u).report 0xF3 t.part t.tid 0 else m) m

/-- A core of a die holds a task or a valid bind record. -/
def Mach.dieBusy (m : Mach) (d : Nat) : Bool :=
  (List.range 40).any fun i => (m.core (40 * d + i)).task.isSome || (vget m.slots (40 * d + i) BindRec.init).valid

/-- Go on with a retirement: once its cores are free the die is absent, now and after every cold reset. -/
def Mach.retireGo (m : Mach) (tick d : Nat) : Mach :=
  if m.dieBusy d then m.clearCores tick fun n _ => n / 40 == d
  else
    { m with
      retiring := m.retiring.filter (· != d)
      absent := m.absent ++ [d]
      mgmt := { m.mgmt with nv := { m.mgmt.nv with dies := m.mgmt.nv.dies ++ [d] } } }.widenAll

/-- RETIRE (R423): the die `die`. Its packet, which waits while a checkpoint runs, starts the retirement; later occurrences
go on with it. -/
def execRetire (s : State) : Out :=
  onMach s fun k m =>
    let d := k.occ.die.val
    if m.retiring.contains d then m.retireGo k.tick d
    else
      match m.packetAt k.occ.queue with
      | none => m
      | some p =>
        if p.type != 0x1C || m.ckptRun.isSome then m
        else if p.q != .mgmt then m.packetError p 6
        else if 8 ≤ d || p.b1 % 128 != 0 then m.packetError p 1
        else if m.absent.contains d then m.retirePacket p
        else ({ m with retiring := m.retiring ++ [d] }.clearCores k.tick fun n _ => n / 40 == d).retirePacket p

end Sys2Proof.Machine
end

