-- ==== Sys2Proof/Machine/Resets.lean ====
section
/-!
DEFINITION. Machine/Resets.lean: the resets (R367, R418, R419), cold bring-up (R424-R427), power, temperature and the management
controller (R428-R430).
-/

namespace Sys2Proof.Machine

/-! ## Warm resets (R367, R418) -/

/-- A core after a core warm reset (R418): the values at bind, with its scratchpad and what is not the task's. -/
def Core.warmReset (c : Core) : Core :=
  { Core.init 0 with
    phys := c.phys
    released := c.released
    coreNo := c.coreNo
    otbase := c.otbase
    otlen := c.otlen
    sp := c.sp
    istore := c.istore }

/-- An engine after a reset of its core: contexts free, nothing queued, nothing in the drain unit (R367). -/
def Engine.warmReset (g : Engine) : Engine := { g with ctxs := tab 4 fun _ => Ctx.init, invq := [], posts := [], drain := Drain.init }

/-- Reset a core and its transfer engine. -/
def Mach.warmCoreReset (m : Mach) (n : Nat) : Mach :=
  if h : n < 320 then
    let e := EngineId.core ⟨n, h⟩
    (m.setCore n (m.core n).warmReset).setEngine e (m.engine e).warmReset
  else m

/-- RESET_CORE_WARM (R418): the core `core`; its bound task is handled as CORE_FAILED, without retiring the core. -/
def execResetCoreWarm (s : State) : Out :=
  onPacket s [0x19] true fun k m p =>
    let n := k.occ.core.val
    let m := match (m.core n).task with
      | some b => m.report 0xE0 b.part.toNat b.tid (BitVec.ofNat 64 n)
      | none => m
    ((((m.withdraw k.tick n).failTask k n 0xE0).freeCore n).warmCoreReset n).retirePacket p

/-- A region whose pending triples a reset discards (R367). -/
def Region.discard (r : Region) : Region := { r with pend := [], runs := [], sweep := [] }

/-- The regions that a test picks lose their pending triples, and their STATUS says so (R364, R367). -/
def Mach.discardPending (m : Mach) (ok : Region → Bool) : Mach :=
  let rs := m.basins.toList.flatten.filter ok
  let m := { m with basins := m.basins.map fun (l : List Region) => l.map fun r => if ok r then r.discard else r }
  rs.foldl (fun (m : Mach) r => m.orStatus r 16) m

/-- Empty the host queues that a test picks; a FENCE that waits there is discarded (R418, R419). -/
def Mach.emptyQueues (m : Mach) (ok : HostQ → Bool) : Mach :=
  { m with queues := m.queues.zipIdx.map fun (x : HostQ × Nat) =>
      if x.2 != 1024 && ok x.1 then { x.1.fresh with head := x.1.tail } else x.1 }

/-- A partition's configuration as the lock-keeper reads it at a warm reset (R385): one that is not valid leaves the old. -/
def Mach.rereadConf (m : Mach) (p : Nat) : Mach :=
  let f := PartConf.parse (m.rd (m.partition p).confAt 0x80)
  if (m.partition p).conf.isSome && m.confOk p f then m.setPart p { m.partition p with conf := some f } else m

/-- Everything of a partition that a warm reset drops (R367, R418, R419); its slot-table entries stay idle until PARTCFG. -/
def Mach.dropPartition (m : Mach) (p : Nat) : Mach :=
  let cores := (List.range 320).filter (m.partOwns p)
  let m := m.forgetTasks fun t => t.part == p
  let m := { m with
    sets := m.sets.filter fun s => s.part != p
    capAsks := m.capAsks.filter fun a => a.1 != p
    owed := m.owed.filter fun o => o.part != p }
  let m := cores.foldl (fun (m : Mach) n => (m.freeCore n).warmCoreReset n) m
  let m := (m.discardPending fun r => r.part == p).emptyQueues fun q => q.part.toNat == p
  m.setPart p { m.partition p with ovHead := 0, ovTail := 0, idle := true }

/-- RESET_PARTITION_WARM (R418, R419): the partition `part`; one that arrives while another runs merges with it. -/
def execResetPartitionWarm (s : State) : Out :=
  onPacket s [0x19] true fun k m p =>
    let q := k.occ.part.val
    if (m.partition q).resetting then m.retirePacket p
    else
      let m := (m.abandonCkpt k.tick (· == q)).dropPartition q
      let m := m.rereadConf q
      (m.setPart q { m.partition q with resetting := true }).retirePacket p

/-- RESET_COMPLETE (R419): the partition `part`: one message on its VM's vector 0, and event 0xF2. -/
def execResetComplete (s : State) : Out :=
  onMach s fun k m =>
    let q := k.occ.part.val
    let x := m.partition q
    if x.resetting then
      ((m.setPart q { x with resetting := false }).sendVm q x.vm 0).report 0xF2 q 0 0
    else m

/-- Every queue is empty and runs (R418); the management queue, whose packet is about to be retired, holds that one alone. -/
def Mach.resetQueues (m : Mach) : Mach :=
  { m with queues := m.queues.zipIdx.map fun (x : HostQ × Nat) =>
      { x.1.fresh with
        head := if x.2 == 1024 then x.1.tail - 1 else x.1.tail
        err := 0
        stopped := false
        stopSeen := false } }

/-- What the tugs, the invalidations, the collectives and the admission of ordered elements have in progress ends (R418). -/
def Mach.resetEngines (m : Mach) : Mach :=
  { m.endMoves (fun _ => true) with
    engines := m.engines.map fun (g : Engine) => g.warmReset
    prefs := tab 2 fun _ => []
    invals := []
    admitted := []
    collSeen := []
    colls := []
    capAsks := []
    retiring := []
    owed := []
    dissent := [] }

/-- RESET_DEVICE_WARM (R418): every task, engine and queue; the management queue's packet is retired and event 0xF2 follows. -/
def execResetDeviceWarm (s : State) : Out :=
  onPacket s [0x19] true fun k m p =>
    let m := (m.abandonCkpt k.tick fun _ => true).forgetTasks fun _ => true
    let m := { m with sets := [] }
    let m := (List.range 320).foldl (fun (m : Mach) n => (m.freeCore n).warmCoreReset n) m
    let m := (m.resetEngines.discardPending fun _ => true).resetQueues
    let m := { m with parts := m.parts.map fun (x : Partition) => { x with ovHead := 0, ovTail := 0, resetting := false } }
    (m.commitJournal.retirePacket p).report 0xF2 0 0 0

/-! ## Cold bring-up (R424-R427) -/

/-- Memory outside the module: CXL devices, the host, peers (R262). -/
def Cells.external (c : Cells) : Cells := c.filter fun p => decide (10 * 2 ^ 48 ≤ p.1)

/-- The working physical cores of a die (R11): neither the fuses nor the retirement record rule them out. -/
def workingCores (nv : NvRecord) (d : Nat) : List Nat :=
  (List.range 42).filter fun i => !nv.cores.contains (d, i) && !nv.fuses.contains (d, i)

/-- A logical core at bring-up, not yet released. The remap table takes a die's working physical cores in ascending order, the rest are
spares, and with fewer than 40 the highest logical numbers are unavailable: the spec gives no order (R11; DESIGN CHOICE,
notes/assumptions/35.md). -/
def coldCore (nv : NvRecord) (n : Nat) : Core := { Core.init n with phys := (workingCores nv (n / 40))[n % 40]? }

/-- Ranges that can be the dry dock (R381): two equal ones, on FD0 and on FD1, together the near-tier capacity plus 256 GiB. -/
def dockFits : List (Nat × Nat) → Bool
  | [a, b] =>
    let inHome (r : Nat × Nat) (h : Nat) : Bool := r.1 / 2 ^ 48 == h && decide (r.1 % 2 ^ 48 + r.2 ≤ homeBytes h)
    a.2 == b.2 && inHome a 8 && inHome b 9 && decide (8 * homeBytes 0 + 256 * 2 ^ 30 ≤ a.2 + b.2)
  | _ => false

/-- The dry dock's ranges: those that system software fixes, else the default (R381; log entry 10). -/
def coldDock (ranges : List (Nat × Nat)) : List (Nat × Nat) := if dockFits ranges then ranges else Mach.init.dockArea

/-- A port that is not trained (R424 step 5). -/
def LinkPort.untrained : LinkPort := { LinkPort.init with up := false, lost := true }

/-- The machine without power: only the non-volatile record, the flash and what lies outside the module is left (R425, R429). -/
def Mach.dark (m : Mach) (nv : NvRecord) : Mach :=
  { Mach.init with
    cores := tab 320 fun n => { Core.init n with phys := none }
    spares := tab 8 fun _ => []
    mem := m.mem.external
    events := []
    msgs := []
    nextSeq := 0
    cxl := []
    links := tab 13 fun _ => LinkPort.untrained
    mgmt := { Mgmt.init with
      on := false
      ready := false
      groups := 0
      fwVer := m.mgmt.fwVer
      nv := nv
      flash := m.mgmt.flash } }

/-- A cold reset begins (R424): step 1 is under way; SVCREQ, as it stands, sets service mode (R427). -/
def Mach.beginCold (m : Mach) : Mach :=
  let d := m.dark m.mgmt.nv
  { d with mgmt := { d.mgmt with on := true, svc := m.mgmt.svcReq, bring := 1 } }

/-- The root of trust accepts a slot (R425): both signatures verify, and the version is not below the anti-rollback counter. -/
def FlashSlot.accepted (f : FlashSlot) (counter : Nat) : Bool := f.edOk && f.mlOk && decide (counter ≤ f.version.toNat)

/-- The slot from which an image is taken (R425): a slot that fails is skipped. Images: 0 wharf, 1 lock-keeper, 2 management controller,
3 power sequencer (log entry 16). -/
def Mgmt.imageSlot (g : Mgmt) (i : Nat) : Option FlashSlot :=
  [2 * i, 2 * i + 1].findSome? fun j =>
    let f := vget g.flash j ⟨false, false, 0, 0⟩
    if f.accepted (g.fwVer.toNat / 2 ^ 32) then some f else none

/-- The accepted slots of the four images; none when both slots of some image fail. -/
def Mgmt.images (g : Mgmt) : Option (List FlashSlot) := [0, 1, 2, 3].mapM g.imageSlot

/-- Step 2 (R424, R425): the images are verified and measured; when one fails, bring-up stops at this step. FWVER gives the version of the
management controller's image (log entry 16). -/
def Mgmt.verified (g : Mgmt) : Mgmt :=
  match g.images with
  | none => { g with recovery := true, step := 2 }
  | some l =>
    let running := ((l[2]?).map fun f => f.version.toNat).getD 0
    { g with
      bring := 3
      digests := l.map (·.digest)
      fwVer := BitVec.ofNat 64 (g.fwVer.toNat / 2 ^ 32 * 2 ^ 32 + running) }

/-- An attestation report (R425): the measured digests, and both identity signatures over them. -/
structure Attestation where
  digests : List Nat
  ed25519 : Nat
  mlDsa65 : Nat
deriving DecidableEq, Repr

/-- The report that a verifier is given. -/
def Mgmt.attest (g : Mgmt) : Attestation := ⟨g.digests, Config.identitySignature 0 g.digests, Config.identitySignature 1 g.digests⟩

/-- Step 3 (R424): fuses and the non-volatile record are read, the remap tables loaded (R11-R13); the dry dock's ranges are those that
system software fixes (R381). -/
def Mach.loadRecord (m : Mach) (ranges : List (Nat × Nat)) : Mach :=
  { m with
    absent := m.mgmt.nv.dies
    cores := tab 320 (coldCore m.mgmt.nv)
    spares := tab 8 fun i => (workingCores m.mgmt.nv i).drop 40
    dockArea := coldDock ranges
    mgmt := { m.mgmt with trip := m.mgmt.nv.trip, bring := 4 } }

/-- Step 4 (R424): every word of memory, scratchpads and stores is written as zero. -/
def Mach.zeroMemory (m : Mach) : Mach :=
  { m with
    mem := m.mem.external
    cores := m.cores.map fun (c : Core) => { c with sp := [], istore := [] }
    engines := m.engines.map fun (g : Engine) => { g with pstore := [], param := [] }
    mgmt := { m.mgmt with bring := 5 } }

/-- Step 5 (R424): the ports are trained. -/
def Mach.trainLinks (m : Mach) : Mach := { m with links := tab 13 fun _ => LinkPort.init, mgmt := { m.mgmt with bring := 6 } }

/-- Step 8 (R424): the wharf accepts the management queue, and the PF is told. -/
def Mach.openWharf (m : Mach) : Mach := { m with mgmt := { m.mgmt with ready := true, bring := 0 } }.report 0xF2 0 0 0

/-- The step of bring-up that is under way completes (R424), and the next one starts; step 7 completes with its fifth group (R426). -/
def bringStep (s : State) : State :=
  let m := s.mc
  match m.mgmt.bring with
  | 1 => { s with mc := { m with mgmt := { m.mgmt with bring := 2 } } }
  | 2 => { s with mc := { m with mgmt := { m.mgmt with flash := s.ctl.occ.flash.getD m.mgmt.flash }.verified } }
  | 3 => { s with mc := m.loadRecord s.ctl.occ.ranges }
  | 4 => { s with mc := m.zeroMemory }
  | 5 => { s with mc := m.trainLinks }
  | 6 => { s with ctl := { s.ctl with cyc := 0, tick := 0 }, mc := { m with mgmt := { m.mgmt with bring := 7 } } }
  | 8 => { s with mc := m.openWharf }
  | _ => s

/-- COLD_RESET (R424): a first occurrence begins the reset, at power-on, when COLDRST was written, or after a trip once coolant is back
within limits; each later one completes the step that is under way. -/
def execColdReset (s : State) : Out :=
  let g := s.mc.mgmt
  .next (
    if g.coldRst || (!g.on && s.ctl.occ.coolantOk) then { s with mc := s.mc.beginCold }
    else if g.on && !g.recovery then bringStep s
    else s)

/-- RESET_COLD (R418): a RESET packet of cold scope on the management queue. -/
def execResetCold (s : State) : Out :=
  match s.mc.packetAt s.ctl.occ.queue with
  | none => .next s
  | some p =>
    if p.type != 0x19 then .next s
    else if p.q != .mgmt then onMach s fun _ m => m.packetError p 6
    else if p.b1 % 128 != 0 then onMach s fun _ m => m.packetError p 1
    else .next { s with mc := s.mc.beginCold }

/-- BRINGUP_STEP_TIMEOUT (R424): bring-up stops at the step that is under way, `stepNo`. -/
def execBringupStepTimeout (s : State) : Out :=
  onMach s fun k m =>
    if m.mgmt.on && m.mgmt.bring != 0 && !m.mgmt.recovery && k.occ.stepNo == m.mgmt.bring then
      { m with mgmt := { m.mgmt with recovery := true, step := BitVec.ofNat 8 k.occ.stepNo } }
    else m

/-- Release the next group of eight logical cores of every die (R426); the fifth completes step 7. -/
def Mach.releaseGroup (m : Mach) (tick : Nat) : Mach :=
  let g := m.mgmt.groups
  { m with
    cores := m.cores.zipIdx.map fun (x : Core × Nat) => if x.2 % 40 / 8 == g then { x.1 with released := true } else x.1
    mgmt := { m.mgmt with groups := g + 1, relAt := tick + 1, bring := if g == 4 then 8 else 7 } }

/-- A group of cores is to be released in this clock (R426): step 7 is under way, and the tick has released none yet. -/
def Mach.groupOpen (m : Mach) (cyc tick : Nat) : Bool :=
  let g := m.mgmt
  cyc % 96 == 0 && g.on && g.bring == 7 && !g.recovery && g.relAt != tick + 1

/-- CORE_GROUP_RELEASE (R424 step 7, R426): one group at each tick. -/
def execCoreGroupRelease (s : State) : Out := onMach s fun k m => if m.groupOpen k.cyc k.tick then m.releaseGroup k.tick else m

/-! ## Power and temperature (R428, R429) -/

/-- THROTTLE_EVALUATION (R428, R430): at a tick that is a multiple of 16, from the power and the temperature measured
(log entry 16). -/
def execThrottleEvaluation (s : State) : Out :=
  onMach s fun k m =>
    let g := m.mgmt
    if !k.window || g.throtAt == k.tick + 1 || !g.on then m
    else
      let level := (Config.throttle k.occ.pwr k.occ.temp g.pcap).val + 1
      let low := decide (level < 8)
      { m with mgmt := { g with
          throtAt := k.tick + 1
          pwr := k.occ.pwr
          tempMax := k.occ.temp
          level := level
          throt := low
          thrCnt := if low == true then g.thrCnt + 1 else g.thrCnt } }

/-- THERMAL_TRIP (R429): a die at 115 °C or more, or (`num` 1) coolant flow too low: every rail goes, the trip is recorded. -/
def execThermalTrip (s : State) : Out :=
  onMach s fun k m =>
    if m.mgmt.on && (decide (115 ≤ k.occ.temp.toNat) || k.occ.num == 1) then m.dark { m.mgmt.nv with trip := true } else m

/-! ## The management controller (R430) -/

/-- COLDRST (R430): a write of 1 to COLDRST, with the word's SVCREQ. -/
def execColdrst (s : State) : Out := onMach s fun k m => m.writeMgmt 0x10 (k.occ.word ||| 2)

/-- TRIP_CLEAR (R429, R430): a write of 1 to TRIP. -/
def execTripClear (s : State) : Out := onMach s fun _ m => m.writeMgmt 8 0x10

/-- PCAP_WRITE (R430): the register holds the limit, which the next evaluation, at a multiple of 16 ticks, puts in force. -/
def execPcapWrite (s : State) : Out := onMach s fun k m => m.writeMgmt 0x28 k.occ.word

/-- THRCNT_READ (R430): the count is returned and cleared; an increment of the same clock is not returned and stays. -/
def execThrcntRead (s : State) : Out :=
  onMach s fun k m =>
    let g := m.mgmt
    let same : W32 := if (k.window && g.throtAt == k.tick + 1 && g.throt) == true then 1 else 0
    if g.on then { m with regData := (g.thrCnt - same).setWidth 64, mgmt := { g with thrCnt := same } } else m

end Sys2Proof.Machine
end

