-- ==== Sys2Proof/Machine/Due.lean ====
section
/-!
DEFINITION. Machine/Due.lean: the moves that a core clock does not pass by (notes/assumptions/37.md): a load that completes
(R173, R175), the end of FENCESC (R186), a wait whose condition an opportunity finds true, or whose limit is reached (R43, R178, R223,
R226, R227, R298, R300), the last clock for the extension of a ring (R224), the delivery of a transfer fault (R136), the promotion
of an overflow record and the retry of a refused enqueue (R388), the last clock of a fast-path bind (R398), a lost task's status record
(R142), the decisions of an epoch (R374), the switch of slot tables (R416), a corrected-error threshold (R420), the release of a group of
cores (R426).
-/

namespace Sys2Proof.Machine

/-- The state as a step of an agent sees it: the core and the vector sequencer it acts for. -/
def State.forSeq (s : State) (n : Fin 320) (q : SeqName) : State :=
  { s with ctl := { s.ctl with cur := n, curV := seqV q } }

/-- The state as a step of a transfer context sees it. -/
def State.forCtx (s : State) (e : EngineId) (n : Fin 4) : State := { s with ctl := s.ctl.forCtx e n }

/-- The state as an event sees it: the agents it names and what it brings. -/
def State.forOcc (s : State) (o : Occ) : State :=
  { s with ctl := { s.ctl with cur := o.core, eng := o.eng, ctx := o.ctx, occ := o } }

/-- The state after a step; the same state where the step has none. -/
def Out.stateOr (o : Out) (s : State) : State :=
  match o with
  | .next t => t
  | _ => s

/-- What a look again at a sequencer's waiting word may change of its sequencer. -/
def Core.sameSeq (c d : Core) (q : SeqName) : Bool :=
  match q with
  | .x => c.x == d.x
  | .l => c.l == d.l
  | .c => c.c == d.c
  | .s => c.s == d.s

/-- A step of core `n` if it changes its sequencer. -/
def State.ifSeq (s : State) (n : Fin 320) (q : SeqName) (f : State → Out) : Option State :=
  let t := (f s).stateOr s
  if (s.mc.core n.val).sameSeq (t.mc.core n.val) q then none else some t

/-- A sequencer's wait that ends now: its condition, or its limit. -/
def State.dueWait (s : State) (n : Fin 320) (q : SeqName) : Option State :=
  if ((s.mc.core n.val).waiting q).isNone then none
  else
    (s.forOcc { core := n, seq := q }).ifSeq n q execBlockingConditionMet <|>
      (s.forOcc { core := n, waiter := .seq n q }).ifSeq n q execWaitTimeout

/-- C's tile step has waited for its fill up to its limit (R327). -/
def State.dueStep (s : State) (n : Fin 320) : Option State :=
  let c := s.mc.core n.val
  if (c.stepExpired s.ctl.cyc).isSome && c.mayLook .c && c.c.wait.isNone then
    some ((execWaitTimeout (s.forOcc { core := n, waiter := .seq n .c })).stateOr s)
  else none

/-- A clock is one of the last in which an extension may be linked: its position is the last within the span (R26, R224). -/
def linkDue (since cyc : Nat) : Bool := decide (since + linkLimit < cyc + 4)

/-- A vector sequencer's ring extension has its last position (R224). -/
def State.dueLink (s : State) (n : Fin 320) (q : SeqName) : Option State :=
  match ((s.mc.core n.val).vs (seqV q)).ext with
  | some t =>
    if linkDue t s.ctl.cyc then (s.forOcc { waiter := .seq n q }).ifSeq n q execRingExtensionLink else none
  | none => none

/-- X's load that completes now, or the end of its FENCESC. -/
def State.dueX (s : State) (n : Fin 320) : Option State :=
  let c := s.mc.core n.val
  let s := s.forOcc { core := n }
  if (c.x.loadDone s.ctl.cyc).isSome then some ((execLdsComplete s).stateOr s)
  else if c.x.fsc.isSome then s.ifSeq n .x execFencescComplete
  else none

/-- A trap that is taken now (R136, R139): the handler is entered, or the task ends. -/
def State.dueStop (s : State) (n : Fin 320) : Option State :=
  if (s.mc.core n.val).task.all (·.stop.isNone) then none
  else
    let m := s.mc.endStop s.ctl n
    if (m.core n.val).task == (s.mc.core n.val).task then none else some { s with mc := m }

/-- A transfer fault that is to be delivered (R136). -/
def State.dueFault (s : State) (n : Fin 320) : Option State :=
  if s.mc.xGated n && (s.mc.core n.val).task.all (·.stop.isNone) then
    some ((execTrapDelivery (s.forOcc { core := n })).stateOr s)
  else none

/-- A context whose test ends now (R298, R300), or whose extension has its last clock (R224). -/
def State.dueCtx (s : State) (e : EngineId) (n : Fin 4) : Option State :=
  let changed (o : Out) : Option State :=
    let t := o.stateOr s
    if t.mc.ctx e n == s.mc.ctx e n then none else some t
  match (s.mc.ctx e n).hold with
  | .test _ =>
    changed (execContextWaitSatisfied (s.forCtx e n)) <|> changed (execWaitTimeout (s.forOcc { waiter := .ctx e n }))
  | .extend t =>
    if linkDue t s.ctl.cyc then changed (execRingExtensionLink (s.forOcc { waiter := .ctx e n })) else none
  | _ => none

/-- The first due move of an engine's contexts. -/
def State.dueEngine (s : State) (e : EngineId) : Option State :=
  if s.mc.engineLive e then [(0 : Fin 4), 1, 2, 3].findSome? fun n => s.dueCtx e n else none

/-- The first due move of a core that runs a task and of its engine: X before L, C and S, and those before the contexts (R136). -/
def State.dueCore (s : State) (n : Fin 320) : Option State :=
  if (s.mc.core n.val).task.isNone then none
  else
    s.dueX n <|> s.dueStop n <|> s.dueWait n .x <|> s.dueWait n .l <|> s.dueWait n .c <|> s.dueStep n <|> s.dueWait n .s <|>
      s.dueLink n .l <|> s.dueLink n .c <|> s.dueLink n .s <|> s.dueEngine (.core n) <|> s.dueFault n

/-- The transfer engines that serve no core (R17). -/
def freeEngines : List EngineId :=
  ((List.finRange 8).map fun d => (List.finRange 8).map fun k => EngineId.die d k).flatten ++
    ((List.finRange 2).map fun d => (List.finRange 16).map fun k => EngineId.far d k).flatten

/-- A promotion (R388). -/
def State.duePromotion (s : State) : Option State := if s.mc.promotable.isSome then some { s with mc := s.mc.promoteAll } else none

/-- Core clocks in 20 ns. -/
def fastClocks : Nat := 30

/-- A fast-path bind in its last clock (R398). -/
def State.dueFast (s : State) : Option State :=
  match s.mc.tasks.find? fun t => t.fast.any fun f => decide (f.2 + fastClocks ≤ s.ctl.cyc) with
  | some t => some ((execFastPathBind (s.forOcc { tid := t.tid })).stateOr s)
  | none => none

/-- A machine that a due move gives. -/
def State.withMach (s : State) (m : Option Mach) : Option State := m.map fun m => { s with mc := m }

/-- What the lock-keeper owes (R142, R388): the retry of a refused enqueue, a lost task's status record. -/
def State.dueKeeper (s : State) : Option State :=
  let m := s.mc
  s.withMach (m.retryEnqueue s.ctl.cyc) <|> s.withMach (if m.owedOpen s.ctl.cyc then some (m.payOwed s.ctl.cyc) else none)

/-- What falls at a tick (R374, R416, R426): the tugs' decisions, the switch of slot tables, the release of a group of cores. -/
def State.dueTick (s : State) : Option State :=
  let k := s.ctl
  let m := s.mc
  if k.cyc % 96 != 0 then none
  else
    s.withMach ([0, 1].findSome? fun f => if m.epochOpen k.cyc k.tick f then some (m.decideEpoch k.cyc k.tick f) else none) <|>
      (if k.window && m.slotNext.isSome then some ((execSlotTableSwitch s).stateOr s) else none) <|>
      s.withMach (if m.groupOpen k.cyc k.tick then some (m.releaseGroup k.tick) else none)

/-- A die has reached the threshold of corrected errors (R420). -/
def State.dueEcc (s : State) : Option State :=
  ((List.finRange 19).find? fun d => eccFull (vget s.mc.ecc d.val [])).map fun d => (execEccThreshold (s.forOcc { die := d })).stateOr s

/-- The first due move of the package. -/
def State.due (s : State) : Option State :=
  (List.finRange 320).findSome? s.dueCore <|> freeEngines.findSome? s.dueEngine <|> s.duePromotion <|> s.dueKeeper <|> s.dueFast <|>
    s.dueTick <|> s.dueEcc

end Sys2Proof.Machine
end

