-- ==== Sys2Proof/Machine/Clock.lean ====
section
/-!
DEFINITION. Machine/Clock.lean: the core clock and the lock-cycle tick (R21, R22, R26, R149, R173, R186).
-/

namespace Sys2Proof.Machine

/-- X's position serves its scalar accesses (R173). -/
def Core.clocked (c : Core) (cyc : Nat) : Core := if atPosition .x cyc && !c.x.pend.isEmpty then c.serveX cyc else c

/-- S's position serves its store in progress, C's the entries of its UPD (R26, R205, R353). -/
def Core.storeClocked (c : Core) (cyc : Nat) : Core :=
  let c := if atPosition .s cyc && c.s.store.isSome then c.serveStore else c
  if atPosition .c cyc && c.emitting .c && decide (c.pos.1 ≤ cyc) then c.serveEmit else c

/-- Positions 3 and 7 serve the running matrix word's reads (R26, R329). -/
def Core.matClocked (c : Core) (cyc : Nat) : Core :=
  if matPosition cyc && c.mat.run.isSome && decide (c.pos.1 ≤ cyc) then c.matFetch else c

/-- The matrix engine writes the results that are due (R331); once DONE has issued it abandons a word that waits for a fill (R334). -/
def Core.matEnded (c : Core) (cyc : Nat) : Core :=
  let c := c.matResults cyc
  if c.task.any (·.doneIssued) then (c.matAbandon cyc).getD c else c

/-- What a core that runs a task does in a clock by itself. -/
def Core.endClock (c : Core) (cyc : Nat) : Core :=
  if c.task.isNone then c else ((((c.clocked cyc).storeClocked cyc).matClocked cyc).matEnded cyc).mergeNew

/-- A core that waits in FENCESC takes the clock in which the last access it waits for was performed (R186). -/
def Mach.noteFence (m : Mach) (cyc : Nat) (n : Fin 320) : Mach :=
  let c := m.core n.val
  match c.x.wait with
  | some ⟨.fencesc _, _, _⟩ =>
    if c.x.fsc.isNone && m.scDrained n then m.setCore n.val { c with x := { c.x with fsc := some cyc } } else m
  | _ => m

/-- Since when the conditions of R274 have held; they start afresh in any clock in which one fails. -/
def Mach.noteSwap (m : Mach) (cyc : Nat) : Mach :=
  let at0 (n : Fin 320) : Option Nat :=
    if m.swapReady n then some ((vget m.swapSince n.val none).getD cyc) else none
  { m with swapSince := ⟨((List.finRange 320).map at0).toArray, by simp⟩ }

/-- What the machine does by itself in core clock `cyc`, once all that moves in it has moved. -/
def Mach.endClock (m : Mach) (cyc : Nat) : Mach :=
  let m := { m with cores := m.cores.map fun (c : Core) => c.endClock cyc }
  let m := (List.finRange 320).foldl (fun (m : Mach) n => m.noteFence cyc n) m
  m.noteSwap cyc

/-- What a tick does besides (R383): the lock-keeper commits a journal point. -/
def Mach.atClock (m : Mach) (cyc : Nat) : Mach := if cyc % 96 == 0 then m.commitJournal else m

/-- One core clock: the present one ends, the count rises, and every multiple of 96 is a tick (R22). -/
def State.clockOne (s : State) : State :=
  let cyc := s.ctl.cyc + 1
  { s with
    ctl := { s.ctl with cyc := cyc, tick := if cyc % 96 == 0 then s.ctl.tick + 1 else s.ctl.tick }
    mc := (s.mc.endClock s.ctl.cyc).atClock cyc }

/-- The clock moves: the first move that is due in it, or its end. -/
def State.advance (s : State) : State := s.due.getD s.clockOne

/-- The moves that are due in this clock, at most `n`. -/
def State.settle (s : State) : Nat → State
  | 0 => s
  | n + 1 =>
    match s.due with
    | some t => t.settle n
    | none => s

/-- More moves than can be due in one clock: of each core 3 of X, 2 of each other sequencer, 8 of its contexts and the delivery of a
fault, with the waits that they let end; and those of the package. -/
def dueBound : Nat := 32768

/-- `n` core clocks. -/
def State.clocks (s : State) : Nat → State
  | 0 => s
  | n + 1 => (s.settle dueBound).clockOne.clocks n

/-- LOCK_CYCLE_TICK (R21, R22): the clocks up to and including the one at whose start the next tick falls. -/
def execLockCycleTick (s : State) : Out := .next (s.clocks (96 - s.ctl.cyc % 96))

end Sys2Proof.Machine
end

