-- ==== Sys2Proof/Machine/Links.lean ====
section
/-!
DEFINITION. Machine/Links.lean: the Harwald Link ports (R124, R412, R413), the fabric's tables (R98, R146, R414), CXL capacity
(R380) and the ASID root table (R263, R266).
-/

namespace Sys2Proof.Machine

/-! ## Flits (R412) -/

/-- A port. -/
def Mach.link (m : Mach) (p : Fin 13) : LinkPort := vget m.links p.val LinkPort.init

/-- The machine with one port replaced. -/
def Mach.setLink (m : Mach) (p : Fin 13) (x : LinkPort) : Mach := { m with links := vset m.links p.val x }

/-- The sequence number of a flit is acknowledged by `ack`: it lies in the half of the number space that ends there. -/
def ackCovers (ack seqno : BitVec 16) : Bool := decide ((ack - seqno).toNat < 2 ^ 15)

/-- Credits after a flit returns some for its VC. -/
def addCredit (cs : List Nat) (vc n : Nat) : List Nat := cs.zipIdx.map fun c => if c.2 == vc then c.1 + n else c.1

/-- Credits of a VC. -/
def LinkPort.creditOf (x : LinkPort) (vc : Nat) : Nat := (x.credits[vc]?).getD 0

/-- Flits that the replay buffer holds. -/
def replayFlits : Nat := 512

/-- A port can send a flit on a VC: the replay buffer takes it, and the VC has a credit. -/
def LinkPort.maySend (x : LinkPort) (vc : Nat) : Bool := x.up && !x.lost && decide (x.replay.length < replayFlits) && decide (0 < x.creditOf vc)

/-- Send a flit: with the next number, what has been received acknowledged, the credits owed to its VC returned. -/
def LinkPort.put (x : LinkPort) (f : Flit) : LinkPort :=
  let vc := f.vc.toNat
  let back := min 255 ((x.owed[vc]?).getD 0)
  let g : Flit := { f with seqno := x.next, ack := x.expect - 1, credit := BitVec.ofNat 8 back, crcOk := true, nak := false }
  { x with
    next := x.next + 1
    replay := x.replay ++ [g]
    credits := x.credits.set vc (x.creditOf vc - 1)
    owed := x.owed.set vc ((x.owed[vc]?).getD 0 - back)
    tx := x.tx ++ [g] }

/-- Send what can be sent, in order; a VC without credit blocks no other. -/
def LinkPort.flush (x : LinkPort) : List Flit → LinkPort
  | [] => { x with waiting := [] }
  | f :: fs =>
    if x.maySend f.vc.toNat then (x.put f).flush fs
    else
      let y := x.flush fs
      { y with waiting := f :: y.waiting }

/-- A flit that is to leave through a port. -/
def LinkPort.send (x : LinkPort) (f : Flit) : LinkPort := x.flush (x.waiting ++ [f])

/-- A negative acknowledgement leaves at once (R412): it takes no sequence number and no credit, and no replay buffer holds it (log
entry 19). -/
def LinkPort.refuse (x : LinkPort) : LinkPort :=
  { x with naks := x.naks + 1, tx := x.tx ++ [⟨0, 0, 0, 0, x.expect - 1, [], true, true, 0xFF⟩] }

/-- A port after a flit that passes its CRC: acknowledged flits leave the replay buffer, a negative acknowledgement replays the buffer in
order, and what waited goes out. -/
def LinkPort.take (x : LinkPort) (f : Flit) : LinkPort :=
  let left := x.replay.filter fun g => !ackCovers f.ack g.seqno
  let tries := if left.head? == x.replay.head? then x.tries else 0
  let again := f.nak && !left.isEmpty
  let y := { x with
    acked := f.ack
    replay := left
    tries := if again then tries + 1 else tries
    tx := if again then x.tx ++ left else x.tx }
  y.flush y.waiting

/-- The port by which a flit for another package leaves (R414): of the route's parallel ports one for each VC (log entry 19). -/
def Mach.outPort (m : Mach) (dest vc : Nat) : Option (Fin 13) :=
  match m.routes.find? fun r => r.pkg == dest with
  | none => none
  | some r =>
    let l := (List.finRange 13).filter fun i => r.ports.getLsbD i.val
    l[vc % l.length]?

/-- A port accepts a flit with the expected number: the credits that the flit returns go to its VC, and what waited for them goes out. -/
def LinkPort.accept (x : LinkPort) (f : Flit) : LinkPort :=
  let vc := f.vc.toNat
  let y := { x with expect := x.expect + 1, owed := addCredit x.owed vc 1, credits := addCredit x.credits vc f.credit.toNat }
  y.flush y.waiting

/-- A flit with the expected number: one for this package is delivered, any other is forwarded (R414). -/
def Mach.flitIn (m : Mach) (port : Fin 13) (f : Flit) : Mach :=
  let x := (m.link port).accept f
  if m.pkgIsOwn f.dest.toNat then m.setLink port { x with rx := x.rx ++ [f] }
  else
    let m := m.setLink port x
    match m.outPort f.dest.toNat f.vc.toNat with
    | some q => m.setLink q ((m.link q).send f)
    | none => m

/-- FLIT_RECEIVE (R412, R414): the flit `flit` at the port `port`. One that fails its CRC is dropped and negatively acknowledged; one
without the expected number is dropped, so that order is kept across replay; a negative acknowledgement is delivered to no agent. -/
def execFlitReceive (s : State) : Out :=
  onMach s fun k m =>
    let x := m.link k.occ.port
    let f := k.occ.flit
    if !x.up || x.lost then m
    else if !f.crcOk then m.setLink k.occ.port x.refuse
    else
      let m := m.setLink k.occ.port (x.take f)
      if !f.nak && f.seqno == x.expect then m.flitIn k.occ.port f else m

/-! ## Retraining (R413) -/

/-- Core clocks in 1 ms. -/
def retrainClocks : Nat := 1500000

/-- Replays of one flit in a row that have a port retrain (R413). -/
def retrainTries : Nat := 8

/-- LINK_RETRAIN (R413): the port `port`, whose oldest flit has been replayed 8 times in a row, retrains; event 0xF0. -/
def execLinkRetrain (s : State) : Out :=
  onMach s fun k m =>
    let x := m.link k.occ.port
    if x.up && !x.lost && decide (retrainTries ≤ x.tries) then
      (m.setLink k.occ.port { x with up := false, downAt := k.cyc }).report 0xF0 0 0 (BitVec.ofNat 64 k.occ.port.val)
    else m

/-- LINK_RETRAINED (R413): within 1 ms the port comes back; what waited goes out. -/
def execLinkRetrained (s : State) : Out :=
  onMach s fun k m =>
    let x := m.link k.occ.port
    if !x.up && !x.lost && decide (k.cyc ≤ x.downAt + retrainClocks) then
      let y := { x with up := true, tries := 0 }
      m.setLink k.occ.port (y.flush y.waiting)
    else m

/-- The packages of a COLL in progress (R307). -/
def Cmd.collPkgs (c : Cmd) : List Nat := ((c.vals.drop 5).take c.coll.np).map (· % 256)

/-- A COLL in progress in a context that includes a package which is reached no longer (R413). -/
def Mach.collCut (m : Mach) (x : Ctx) : Option (Cmd × TArgs) :=
  match x.cmd with
  | some c =>
    match c.word with
    | .coll w => if c.started && c.collPkgs.any m.pkgLost then some (c, w) else none
    | _ => none
  | none => none

/-- Every COLL that includes a lost package ends with ACCESS_RIGHTS (R413). -/
def Mach.endColls (m : Mach) : Mach :=
  allEngines.foldl (fun (m : Mach) e => (List.finRange 4).foldl (fun (m : Mach) n =>
    match m.collCut (m.ctx e n) with
    | some (c, w) => (m.setCtx e n { m.ctx e n with susp := Susp.none }).faultCtx e n c trAccess (c.reg w.d) (m.ctx e n).ep
    | none => m) m) m

/-- The package that a place lies in, when it is another one. -/
def keyPkg (key : Nat) : Option Nat :=
  if 2 ^ 62 ≤ key then none
  else if 2 ^ 61 ≤ key then some ((key - 2 ^ 61) / 2 ^ 32 % 256)
  else if 2 ^ 52 ≤ key then some (key / 2 ^ 52 - 1)
  else none

/-- A posted write goes to a package that is reached no longer. -/
def Mach.postCut (m : Mach) (p : Post) : Bool := p.parts.any fun x => (keyPkg x.1).any m.pkgLost

/-- A context with writes outstanding to a package that is reached no longer stops (R269, R413) at the element of the oldest: the command
that issued them ends without its tag, the writes are dropped. A context that has stopped already keeps its own fault. -/
def Mach.endCtxPosts (m : Mach) (e : EngineId) (n : Fin 4) : Mach :=
  let g := m.engine e
  match g.posts.find? fun p => p.ctx == n.val && m.postCut p with
  | none => m
  | some p =>
    let cut := (g.posts.filter fun q => q.ctx == n.val && m.postCut q).map (·.id)
    let x := g.ctx n
    let m := m.setEngine e { g with posts := g.posts.filter fun q => !(q.ctx == n.val && m.postCut q) }
    if x.st == .stopped then m.setCtx e n { x with flight := x.flight.filter fun f => !cut.contains f.id }
    else m.setCtx e n { x with
      st := .stopped
      code := trAccess
      ep := p.ep
      susp := Susp.none
      fault := some ⟨trAccess, BitVec.ofInt 64 p.addr, p.ep⟩
      cmd := none
      hold := .none
      ending := false
      flight := x.flight.filter fun f => !cut.contains f.id }

/-- Every element outstanding to a package that is reached no longer ends as a transfer fault (R413). -/
def Mach.endPosts (m : Mach) : Mach :=
  allEngines.foldl (fun (m : Mach) e => (List.finRange 4).foldl (fun (m : Mach) n => m.endCtxPosts e n) m) m

/-- LINK_LOST (R413): a port that has not come back within 1 ms is lost; 0xE3 is raised; packages reached only through lost
ports answer every element with ACCESS_RIGHTS (`Mach.pkgLost`). -/
def execLinkLost (s : State) : Out :=
  onMach s fun k m =>
    let x := m.link k.occ.port
    if !x.up && !x.lost && decide (x.downAt + retrainClocks ≤ k.cyc) then
      ((m.setLink k.occ.port { x with lost := true }).report 0xE3 0 0 (BitVec.ofNat 64 k.occ.port.val)).endColls.endPosts
    else m

/-! ## Tables -/

/-- A route (R414): a package 0-254, 1-4 of the twelve peer ports, 1-4 hops. -/
def Route.ok (r : Route) : Bool :=
  let n := ((List.range 12).filter fun i => r.ports.getLsbD i).length
  decide (r.pkg ≤ 254) && !r.ports.getLsbD 12 && decide (1 ≤ n) && decide (n ≤ 4) && decide (1 ≤ r.hops) && decide (r.hops ≤ 4)

/-- ROUTING_TABLE_LOAD (R414): a table that breaks a rule is rejected whole; that the fabric's routes are free of cycles is
known outside the package (`acyclic`). -/
def execRoutingTableLoad (s : State) : Out :=
  onMach s fun k m =>
    let rs := k.occ.routes
    let distinct := (rs.map (·.pkg)).eraseDups.length == rs.length
    if k.occ.acyclic && distinct && rs.all Route.ok then { m with routes := rs } else m

/-- PKGNUM_LOAD (R98, R146): a fabric number 0-254. -/
def execPkgnumLoad (s : State) : Out :=
  onMach s fun k m => if k.occ.num.toNat ≤ 254 then { m with pkgnum := some k.occ.num } else m

/-- The decoded CXL ranges when one port's are replaced (R380). -/
def Mach.cxlWith (m : Mach) (fd : Fin 2) (port : Fin 4) (rs : List (Nat × Nat)) : List (Nat × Nat × Nat × Nat) :=
  (m.cxl.filter fun c => !(c.1 == fd.val && c.2.1 == port.val)) ++ rs.map fun r => (fd.val, port.val, r.1, r.2)

/-- DYNAMIC_CAPACITY_CHANGE (R380): the ranges of a port: at most 8, in its home, at most 16 TiB in all. -/
def execDynamicCapacityChange (s : State) : Out :=
  onMach s fun k m =>
    let rs := k.occ.ranges
    let all := m.cxlWith k.occ.fd k.occ.cxlPort rs
    let inHome (r : Nat × Nat) : Bool := decide (1 ≤ r.2) && r.1 / 2 ^ 48 == 10 + k.occ.fd.val && (r.1 + r.2 - 1) / 2 ^ 48 == 10 + k.occ.fd.val
    if decide (rs.length ≤ 8) && rs.all inHome && decide ((all.map (·.2.2.2)).sum ≤ 2 ^ 44) then { m with cxl := all } else m

/-- A task of an ASID is moored, bound or swapped out. -/
def Mach.asidHeld (m : Mach) (a : Nat) : Bool := m.tasks.any fun t => t.inTable && t.asid == a

/-- Load one root (R263). An ASID whose root was present and changes goes to a new address space: it must be held by no
task, and it is invalidated whole first (R266); what the tugs know of its pages ends (R373). -/
def Mach.loadRoot (m : Mach) (a : Nat) (v : W64) : Mach :=
  let old := vget m.roots a 0
  if old == v then m
  else if pteP old.toNat && m.asidHeld a then m
  else
    let drop (l : List TlbEntry) : List TlbEntry := l.filter fun t => t.asid != a
    let m := (m.endMoves fun v => v.asid == a).chill a 0 (2 ^ 47)
    { m with
      roots := vset m.roots a v
      pages := m.pages.filter fun p => p.asid != a
      prefs := m.prefs.map fun (l : List PrefReq) => l.filter fun r => r.asid != a
      engines := m.engines.map fun (g : Engine) => { g with tlb := drop g.tlb }
      tlb2 := m.tlb2.map fun (l : List TlbEntry) => drop l }

/-- ASID_ROOT_TABLE_LOAD (R263): the entries `roots`. -/
def execAsidRootTableLoad (s : State) : Out :=
  onMach s fun k m => k.occ.roots.foldl (fun (m : Mach) r => m.loadRoot r.1 r.2) m

end Sys2Proof.Machine
end

