-- ==== Sys2Proof/Machine/VReduce.lean ====
section
/-!
DEFINITION. Machine/VReduce.lean: reductions and scans (R249-R251): the exact result of a set of elements, rounded once.
-/

namespace Sys2Proof.Machine

/-- The minimum or maximum of a set of elements (R165, R249): NaNs are passed over while another element is left. -/
def minmaxSet (f : Fmt) (isMax : Bool) : List Nat → Nat × Flags
  | [] => (f.infBits isMax, 0)
  | b :: bs => bs.foldl (fun a x => ((fminmax f isMax a.1 x).1, a.2 ||| (fminmax f isMax a.1 x).2))
      (if (f.decode b).isNan then f.qnan else b, (f.decode b).sigF)

/-- The combinations of R249. -/
inductive Red where
  | add | min | max | and | or | xor
deriving DecidableEq, Repr

/-- FN of VREDR, VREDC and VSEGR. -/
def Red.ofFn (fn : Nat) : Red :=
  match fn with
  | 0 => .add
  | 1 => .min
  | 2 => .max
  | 3 => .and
  | 4 => .or
  | _ => .xor

/-- A set of I32 lanes combined (R249). -/
def redInt (r : Red) (xs : List W32) : W32 :=
  match r with
  | .add => xs.foldl (· + ·) 0
  | .min => xs.foldl (smin32 false) 0x7FFFFFFF
  | .max => xs.foldl (smin32 true) 0x80000000
  | .and => xs.foldl (· &&& ·) 0xFFFFFFFF
  | .or => xs.foldl (· ||| ·) 0
  | .xor => xs.foldl (· ^^^ ·) 0

/-- A set of floating-point lanes combined, element by element (R249). -/
def redFp (k : Fp) (t : Nat) (r : Red) (xs : List W32) : W32 × Flags :=
  let f := elemFmt t
  perElem t fun h => match r with
    | .add => k.done t (sumSet k.rm (xs.map fun x => k.val t x h))
    | .min => minmaxSet f false (xs.map fun x => f.dazBits k.dz (part t x h))
    | _ => minmaxSet f true (xs.map fun x => f.dazBits k.dz (part t x h))

/-- A set of lanes combined. -/
def redSet (k : Fp) (t : Nat) (r : Red) (xs : List W32) : W32 × Flags :=
  if t == 1 then (redInt r xs, 0) else redFp k t r xs

/-- A word that combines lanes: for each destination lane, the lanes of which the active ones contribute (R249). -/
def vReduce (s : State) (w : VArgs) (r : Red) (set : Core → Nat → List Nat) : Out :=
  vLanes s w [w.a] fun c k n =>
    let t := w.fmt.toNat
    redSet k t r (((set c n).filter (c.active w)).map (c.opOf t w.a w.sa))

/-- VREDR (R249). -/
def execVredr (w : VArgs) (s : State) : Out :=
  vReduce s w (Red.ofFn w.fn.toNat) fun _ n => (List.range 16).map fun r => 64 * r + n % 64

/-- VREDC (R249). -/
def execVredc (w : VArgs) (s : State) : Out :=
  vReduce s w (Red.ofFn w.fn.toNat) fun _ n => (List.range 64).map fun j => 64 * (n / 64) + j

/-- Where the segment of a lane starts (R250). -/
def segStart (b : Mask) : Nat → Nat
  | 0 => 0
  | n + 1 => if b.getLsbD (n + 1) then n + 1 else segStart b n

/-- VSEGR (R250). -/
def execVsegr (w : VArgs) (s : State) : Out :=
  vReduce s w (Red.ofFn w.fn.toNat) fun c n =>
    let s0 := segStart (c.getM (w.c.toNat % 8)) n
    (List.range (n + 1 - s0)).map fun i => s0 + i

/-- VSCANR (R251). The first row of an exclusive scan has nothing to combine. -/
def execVscanr (w : VArgs) (s : State) : Out :=
  vReduce s w
    (match w.fn.toNat with
     | 2 => .min
     | 3 => .max
     | _ => .add)
    fun _ n => (List.range (n / 64 + cond (w.fn == 1) 0 1)).map fun r => 64 * r + n % 64

end Sys2Proof.Machine
end

