-- ==== Sys2Proof/Machine/VSpecial.lean ====
section
/-!
DEFINITION. Machine/VSpecial.lean: the special functions of VSF (R247), correctly rounded. RCP, SQRT and RSQRT are exact
integer arithmetic. The others are evaluated in fixed point with P fraction bits; the two ends of the interval that
holds the exact value are rounded, and when they round alike that is the result. P runs through 256, 512 and 1,024
(notes/assumptions/13.md).
-/

namespace Sys2Proof.Machine

/-! ## Roots and reciprocals -/

/-- The integer square root of `n`, from bit `b` − 1 down. -/
def isqrt (n : Nat) : Nat → Nat → Nat
  | 0, acc => acc
  | b + 1, acc => isqrt n b (if (acc + 2 ^ b) * (acc + 2 ^ b) ≤ n then acc + 2 ^ b else acc)

/-- m × 2^e with an even exponent and at least 160 bits more. -/
def evenUp (m : Nat) (e : Int) : Nat × Int :=
  let s : Nat := if e % 2 == 0 then 160 else 161
  (m * 2 ^ s, e - s)

/-- The magnitude of 1 / (m × 2^e), cut off, with its sticky bit. -/
def rcpMag (m : Nat) (e : Int) : Nat × Int × Bool :=
  let k := bitLen m + 80
  (2 ^ k / m, -(k : Int) - e, 2 ^ k % m != 0)

/-- The magnitude of √(m × 2^e). -/
def sqrtMag (m : Nat) (e : Int) : Nat × Int × Bool :=
  let (w, x) := evenUp m e
  let r := isqrt w ((bitLen w + 1) / 2 + 1) 0
  (r, x / 2, r * r != w)

/-- The magnitude of 1 / √(m × 2^e). -/
def rsqrtMag (m : Nat) (e : Int) : Nat × Int × Bool :=
  let (w, x) := evenUp m e
  let k := bitLen w
  let n := 2 ^ (2 * k) / w
  let r := isqrt n k 0
  (r, -(k : Int) - x / 2, r * r * w != 2 ^ (2 * k))

/-! ## Fixed point with P fraction bits -/

/-- ln 2, as 2 artanh(1/3). -/
def fxLn2 (p : Nat) : Int :=
  (List.range (p / 3 + 2)).foldl (fun (a : Int) k => a + 2 ^ (p + 1) / ((2 * k + 1) * 3 ^ (2 * k + 1) : Nat)) 0

/-- arctan(1/q). -/
def fxAtan (p q : Nat) : Int :=
  (List.range (p / 4 + 2)).foldl (fun (a : Int) k =>
    let t : Int := 2 ^ p / ((2 * k + 1) * q ^ (2 * k + 1) : Nat)
    if k % 2 == 0 then a + t else a - t) 0

/-- π, by Machin's formula. -/
def fxPi (p : Nat) : Int := 16 * fxAtan p 5 - 4 * fxAtan p 239

/-- How many terms a power series of x ≤ 2 with factorials takes. -/
def fxTerms (p : Nat) : Nat := 60 + p / 5

/-- e^r for 0 ≤ r < 1, by Horner's rule. -/
def fxExp (p : Nat) (r : Int) : Int :=
  let n := fxTerms p
  (List.range n).foldl (fun acc i => 2 ^ p + r * acc / (((n - i : Nat) : Int) * 2 ^ p)) (2 ^ p)

/-- e^x as V × 2^(k − P): V and k. -/
def fxExpOf (p : Nat) (x : Int) : Int × Int :=
  let l := fxLn2 p
  let k := x / l
  (fxExp p (x - k * l), k)

/-- ln y for 1 ≤ y < 2, as 2 artanh((y − 1)/(y + 1)). -/
def fxLn (p : Nat) (y : Int) : Int :=
  let z := (y - 2 ^ p) * 2 ^ p / (y + 2 ^ p)
  let z2 := z * z / 2 ^ p
  ((List.range (p / 3 + 2)).foldl (fun (st : Int × Int) k =>
    (st.1 + 2 * st.2 / ((2 * k + 1 : Nat) : Int), st.2 * z2 / 2 ^ p)) (0, z)).1

/-- sin r (from 1) or cos r (from 0) for 0 ≤ r < 2, by Horner's rule. -/
def fxTrig (p : Nat) (cosine : Bool) (r : Int) : Int :=
  let n := fxTerms p
  let r2 := r * r / 2 ^ p
  let o := if cosine then 0 else 1
  let s := (List.range n).foldl (fun (acc : Int) i =>
    let j := 2 * (n - i) + o
    2 ^ p - r2 * acc / ((((j - 1) * j : Nat) : Int) * 2 ^ p)) (2 ^ p)
  if cosine then s else s * r / 2 ^ p

/-- The fixed-point value of ±m × 2^e. -/
def fxOf (p : Nat) (neg : Bool) (m : Nat) (e : Int) : Int :=
  let x : Int := if 0 ≤ e + p then m * 2 ^ (e + p).toNat else m / 2 ^ (-(e + p)).toNat
  if neg then -x else x

/-- V × 2^k as an integer. -/
def fxShift (v k : Int) : Int := if 0 ≤ k then v * 2 ^ k.toNat else v / 2 ^ (-k).toNat

/-- sin or cos of ±m × 2^e, reduced by quarter turns with 160 guard bits. -/
def fxTurn (p : Nat) (cosine neg : Bool) (m : Nat) (e : Int) : Int :=
  let q := p + 160
  let x := fxOf q neg m e
  let h := fxPi q / 2
  let n := x / h
  let r := (x - n * h) / 2 ^ 160
  match ((n + cond cosine 1 0) % 4).toNat with
  | 0 => fxTrig p false r
  | 1 => fxTrig p true r
  | 2 => -fxTrig p false r
  | _ => -fxTrig p true r

/-- The approximation of a function (FN of R247, 3-10) at a finite nonzero operand: V and x, for V × 2^x, off by less than
2^24 × 2^x. -/
def fxValue (p fn : Nat) (neg : Bool) (m : Nat) (e : Int) : Int × Int :=
  let x := fxOf p neg m e
  let one : Int := 2 ^ p
  let down (v : Int × Int) : Int × Int := (v.1, v.2 - p)
  match fn with
  | 3 =>
    let k := x / one
    (fxExp p ((x - k * one) * fxLn2 p / one), k - p)
  | 4 =>
    let b := bitLen m
    let k := e + b - 1
    (k * one + fxLn p (fxOf p false m (1 - (b : Int))) * one / fxLn2 p, -p)
  | 5 => down (fxExpOf p x)
  | 6 =>
    let b := bitLen m
    let k := e + b - 1
    (k * fxLn2 p + fxLn p (fxOf p false m (1 - (b : Int))), -p)
  | 7 => (fxTurn p false neg m e, -p)
  | 8 => (fxTurn p true neg m e, -p)
  | 9 =>
    let v := fxExpOf p (2 * fxOf p false m e)
    let t := fxShift v.1 v.2
    let r := (t - one) * one / (t + one)
    (if neg then -r else r, -p)
  | _ =>
    let v := fxExpOf p (-x)
    (one * one / (one + fxShift v.1 v.2), -p)

/-- Round the two ends of the interval round V × 2^x; none when they differ. -/
def fxRound (f : Fmt) (k : Fp) (v : Int × Int) : Option (Nat × Flags) :=
  let lo := v.1 - 2 ^ 24
  let hi := v.1 + 2 ^ 24
  if lo ≤ 0 && 0 ≤ hi then none
  else
    let neg := decide (v.1 < 0)
    let a := f.roundFin k.rm k.fz neg lo.natAbs v.2 true
    let b := f.roundFin k.rm k.fz neg hi.natAbs v.2 true
    if a == b then some a else none

/-- |x| exceeds a bound. -/
def magAbove (m : Nat) (e : Int) (n : Nat) : Bool := magGt m e n 0

/-- What a function tends to at operands of large magnitude, cut off with a sticky bit: sign, m, e. -/
def farValue (fn : Nat) (neg : Bool) (m : Nat) (e : Int) : Option (Bool × Nat × Int) :=
  let grows := if neg then (false, 1, (-300 : Int)) else (false, 1, (300 : Int))
  match fn with
  | 3 => if magAbove m e 300 then some grows else none
  | 5 => if magAbove m e 250 then some grows else none
  | 9 => if magAbove m e 100 then some (neg, 2 ^ 60 - 1, -60) else none
  | 10 => if magAbove m e 250 then (if neg then some (false, 1, -300) else some (false, 2 ^ 60 - 1, -60)) else none
  | _ => none

/-- Functions whose exact result at a finite nonzero operand is a power of two or an integer: EXP2 at an integer, LOG2 at a
power of two, LN at 1. -/
def exactValue (fn : Nat) (neg : Bool) (m : Nat) (e : Int) : Option FVal :=
  let b := bitLen m
  match fn with
  | 3 =>
    if magAbove m e 300 then none
    else if decide (0 ≤ e) || m % 2 ^ (-e).toNat == 0 then some (.fin false 1 (fxOf 0 neg m e)) else none
  | 4 => if m == 2 ^ (b - 1) then some (FVal.ofInt (e + b - 1)) else none
  | 6 => if m == 2 ^ (b - 1) && e + b - 1 == 0 then some (.fin false 0 0) else none
  | _ => none

/-- The code of a rounding mode (R75). -/
def Rm.code : Rm → Nat
  | .rne => 0
  | .rtz => 1
  | .rdn => 2
  | .rup => 3
  | .rna => 4

/-- VSF at a finite nonzero operand in the function's domain. -/
def vsfFinite (f : Fmt) (k : Fp) (fn bits : Nat) (neg : Bool) (m : Nat) (e : Int) : Nat × Flags :=
  let mag (r : Nat × Int × Bool) (n : Bool) : Nat × Flags := f.roundFin k.rm k.fz n r.1 r.2.1 r.2.2
  match fn with
  | 0 => mag (rcpMag m e) neg
  | 1 => mag (rsqrtMag m e) false
  | 2 => mag (sqrtMag m e) false
  | _ =>
    match exactValue fn neg m e with
    | some v => f.round k.rm k.fz v
    | none =>
      match farValue fn neg m e with
      | some (n, w, x) => f.roundFin k.rm k.fz n w x true
      | none =>
        match [256, 512, 1024].findSome? fun p => fxRound f k (fxValue p fn neg m e) with
        | some r => r
        | none => ((Config.vsfValue fn f.mb k.rm.code bits).toNat % 2 ^ f.width, fNX)

/-- VSF at ±0 (R247). -/
def vsfZero (f : Fmt) (fn : Nat) (neg : Bool) : Nat × Flags :=
  let one := (f.round .rne false (FVal.ofInt 1)).1
  match fn with
  | 0 => (f.infBits neg, fDV)
  | 1 => (f.infBits neg, fDV)
  | 2 => (f.sign neg 0, 0)
  | 3 => (one, 0)
  | 4 => (f.infBits true, fDV)
  | 5 => (one, 0)
  | 6 => (f.infBits true, fDV)
  | 8 => (one, 0)
  | 10 => ((f.round .rne false (.fin false 1 (-1))).1, 0)
  | _ => (f.sign neg 0, 0)

/-- VSF at an infinity (R247). -/
def vsfInf (f : Fmt) (fn : Nat) (neg : Bool) : Nat × Flags :=
  let one := (f.round .rne false (FVal.ofInt 1)).1
  match fn with
  | 0 => (f.sign neg 0, 0)
  | 1 => if neg then (f.qnan, fNV) else (0, 0)
  | 3 => if neg then (0, 0) else (f.infBits false, 0)
  | 5 => if neg then (0, 0) else (f.infBits false, 0)
  | 7 => (f.qnan, fNV)
  | 8 => (f.qnan, fNV)
  | 9 => (f.sign neg one, 0)
  | 10 => if neg then (0, 0) else (one, 0)
  | _ => if neg then (f.qnan, fNV) else (f.infBits false, 0)

/-- The functions with no value below zero: RSQRT, SQRT, LOG2, LN. -/
def noNegative (fn : Nat) : Bool := fn == 1 || fn == 2 || fn == 4 || fn == 6

/-- VSF on an element (R247). -/
def vsfElem (f : Fmt) (k : Fp) (fn bits : Nat) : Nat × Flags :=
  match f.daz k.dz (f.decode bits) with
  | .nan sig => (f.qnan, fIf sig fNV)
  | .inf n => vsfInf f fn n
  | .fin n m e =>
    if m == 0 then vsfZero f fn n
    else if n && noNegative fn then (f.qnan, fNV)
    else vsfFinite f k fn bits n m e

/-- VSF (R247). -/
def execVsf (w : VArgs) (s : State) : Out :=
  vLanes s w [w.a] fun c k n =>
    let t := w.fmt.toNat
    let a := c.opFp t w.a w.sa n
    perElem t fun h => vsfElem (elemFmt t) k w.fn.toNat (part t a h)

end Sys2Proof.Machine
end

