-- ==== Sys2Proof/Machine/XAlu.lean ====
section
/-!
DEFINITION. Machine/XAlu.lean: X's integer, bit-field, immediate and predicate words (R152-R160).
-/

namespace Sys2Proof.Machine

/-- ADD, register form (R153): a + b. -/
def execAdd (g : Guard) (d a b : SReg) (s : State) : Out := xAlu2 s g d a b aluAdd

/-- SUB, register form (R153): a − b. -/
def execSub (g : Guard) (d a b : SReg) (s : State) : Out := xAlu2 s g d a b aluSub

/-- AND, register form (R153): bitwise and. -/
def execAndR (g : Guard) (d a b : SReg) (s : State) : Out := xAlu2 s g d a b aluAndR

/-- OR, register form (R153): bitwise or. -/
def execOrR (g : Guard) (d a b : SReg) (s : State) : Out := xAlu2 s g d a b aluOrR

/-- XOR, register form (R153): exclusive or. -/
def execXorR (g : Guard) (d a b : SReg) (s : State) : Out := xAlu2 s g d a b aluXorR

/-- ANDN, register form (R153): a and not b. -/
def execAndn (g : Guard) (d a b : SReg) (s : State) : Out := xAlu2 s g d a b aluAndn

/-- SLL, register form (R153): shift left by b[5:0]. -/
def execSll (g : Guard) (d a b : SReg) (s : State) : Out := xAlu2 s g d a b aluSll

/-- SRL, register form (R153): logical shift right by b[5:0]. -/
def execSrl (g : Guard) (d a b : SReg) (s : State) : Out := xAlu2 s g d a b aluSrl

/-- SRA, register form (R153): arithmetic shift right by b[5:0]. -/
def execSra (g : Guard) (d a b : SReg) (s : State) : Out := xAlu2 s g d a b aluSra

/-- MIN, register form (R153): signed minimum. -/
def execMinS (g : Guard) (d a b : SReg) (s : State) : Out := xAlu2 s g d a b aluMinS

/-- MAX, register form (R153): signed maximum. -/
def execMaxS (g : Guard) (d a b : SReg) (s : State) : Out := xAlu2 s g d a b aluMaxS

/-- MINU, register form (R153): unsigned minimum. -/
def execMinU (g : Guard) (d a b : SReg) (s : State) : Out := xAlu2 s g d a b aluMinU

/-- MAXU, register form (R153): unsigned maximum. -/
def execMaxU (g : Guard) (d a b : SReg) (s : State) : Out := xAlu2 s g d a b aluMaxU

/-- ADD, 64-bit immediate form (R152, R153). -/
def execAddImm64 (g : Guard) (d a : SReg) (imm : BitVec 16) (s : State) : Out :=
  xAluImm s 8 g d a (imm.signExtend 64) aluAdd

/-- ADD, 96-bit immediate form (R152, R153). -/
def execAddImm96 (g : Guard) (d a : SReg) (imm : W32) (s : State) : Out :=
  xAluImm s 12 g d a (imm.signExtend 64) aluAdd

/-- SUB, 64-bit immediate form (R152, R153). -/
def execSubImm64 (g : Guard) (d a : SReg) (imm : BitVec 16) (s : State) : Out :=
  xAluImm s 8 g d a (imm.signExtend 64) aluSub

/-- SUB, 96-bit immediate form (R152, R153). -/
def execSubImm96 (g : Guard) (d a : SReg) (imm : W32) (s : State) : Out :=
  xAluImm s 12 g d a (imm.signExtend 64) aluSub

/-- AND, 64-bit immediate form (R152, R153). -/
def execAndImm64 (g : Guard) (d a : SReg) (imm : BitVec 16) (s : State) : Out :=
  xAluImm s 8 g d a (imm.signExtend 64) aluAndR

/-- AND, 96-bit immediate form (R152, R153). -/
def execAndImm96 (g : Guard) (d a : SReg) (imm : W32) (s : State) : Out :=
  xAluImm s 12 g d a (imm.signExtend 64) aluAndR

/-- OR, 64-bit immediate form (R152, R153). -/
def execOrImm64 (g : Guard) (d a : SReg) (imm : BitVec 16) (s : State) : Out :=
  xAluImm s 8 g d a (imm.signExtend 64) aluOrR

/-- OR, 96-bit immediate form (R152, R153). -/
def execOrImm96 (g : Guard) (d a : SReg) (imm : W32) (s : State) : Out :=
  xAluImm s 12 g d a (imm.signExtend 64) aluOrR

/-- XOR, 64-bit immediate form (R152, R153). -/
def execXorImm64 (g : Guard) (d a : SReg) (imm : BitVec 16) (s : State) : Out :=
  xAluImm s 8 g d a (imm.signExtend 64) aluXorR

/-- XOR, 96-bit immediate form (R152, R153). -/
def execXorImm96 (g : Guard) (d a : SReg) (imm : W32) (s : State) : Out :=
  xAluImm s 12 g d a (imm.signExtend 64) aluXorR

/-- ANDN, 64-bit immediate form (R152, R153). -/
def execAndnImm64 (g : Guard) (d a : SReg) (imm : BitVec 16) (s : State) : Out :=
  xAluImm s 8 g d a (imm.signExtend 64) aluAndn

/-- ANDN, 96-bit immediate form (R152, R153). -/
def execAndnImm96 (g : Guard) (d a : SReg) (imm : W32) (s : State) : Out :=
  xAluImm s 12 g d a (imm.signExtend 64) aluAndn

/-- SLL, 64-bit immediate form (R152, R153). -/
def execSllImm64 (g : Guard) (d a : SReg) (imm : BitVec 16) (s : State) : Out :=
  xAluImm s 8 g d a (imm.signExtend 64) aluSll

/-- SLL, 96-bit immediate form (R152, R153). -/
def execSllImm96 (g : Guard) (d a : SReg) (imm : W32) (s : State) : Out :=
  xAluImm s 12 g d a (imm.signExtend 64) aluSll

/-- SRL, 64-bit immediate form (R152, R153). -/
def execSrlImm64 (g : Guard) (d a : SReg) (imm : BitVec 16) (s : State) : Out :=
  xAluImm s 8 g d a (imm.signExtend 64) aluSrl

/-- SRL, 96-bit immediate form (R152, R153). -/
def execSrlImm96 (g : Guard) (d a : SReg) (imm : W32) (s : State) : Out :=
  xAluImm s 12 g d a (imm.signExtend 64) aluSrl

/-- SRA, 64-bit immediate form (R152, R153). -/
def execSraImm64 (g : Guard) (d a : SReg) (imm : BitVec 16) (s : State) : Out :=
  xAluImm s 8 g d a (imm.signExtend 64) aluSra

/-- SRA, 96-bit immediate form (R152, R153). -/
def execSraImm96 (g : Guard) (d a : SReg) (imm : W32) (s : State) : Out :=
  xAluImm s 12 g d a (imm.signExtend 64) aluSra

/-- MIN, 64-bit immediate form (R152, R153). -/
def execMinImm64 (g : Guard) (d a : SReg) (imm : BitVec 16) (s : State) : Out :=
  xAluImm s 8 g d a (imm.signExtend 64) aluMinS

/-- MIN, 96-bit immediate form (R152, R153). -/
def execMinImm96 (g : Guard) (d a : SReg) (imm : W32) (s : State) : Out :=
  xAluImm s 12 g d a (imm.signExtend 64) aluMinS

/-- MAX, 64-bit immediate form (R152, R153). -/
def execMaxImm64 (g : Guard) (d a : SReg) (imm : BitVec 16) (s : State) : Out :=
  xAluImm s 8 g d a (imm.signExtend 64) aluMaxS

/-- MAX, 96-bit immediate form (R152, R153). -/
def execMaxImm96 (g : Guard) (d a : SReg) (imm : W32) (s : State) : Out :=
  xAluImm s 12 g d a (imm.signExtend 64) aluMaxS

/-- MINU, 64-bit immediate form (R152, R153). -/
def execMinuImm64 (g : Guard) (d a : SReg) (imm : BitVec 16) (s : State) : Out :=
  xAluImm s 8 g d a (imm.signExtend 64) aluMinU

/-- MINU, 96-bit immediate form (R152, R153). -/
def execMinuImm96 (g : Guard) (d a : SReg) (imm : W32) (s : State) : Out :=
  xAluImm s 12 g d a (imm.signExtend 64) aluMinU

/-- MAXU, 64-bit immediate form (R152, R153). -/
def execMaxuImm64 (g : Guard) (d a : SReg) (imm : BitVec 16) (s : State) : Out :=
  xAluImm s 8 g d a (imm.signExtend 64) aluMaxU

/-- MAXU, 96-bit immediate form (R152, R153). -/
def execMaxuImm96 (g : Guard) (d a : SReg) (imm : W32) (s : State) : Out :=
  xAluImm s 12 g d a (imm.signExtend 64) aluMaxU

/-- CLZ (R153): leading zero bits of a. -/
def execClz (g : Guard) (d a : SReg) (s : State) : Out := xAlu1 s g d a aluClz

/-- CTZ (R153): trailing zero bits of a. -/
def execCtz (g : Guard) (d a : SReg) (s : State) : Out := xAlu1 s g d a aluCtz

/-- POPC (R153): one bits of a. -/
def execPopc (g : Guard) (d a : SReg) (s : State) : Out := xAlu1 s g d a aluPopc

/-- MUL (R154): low 64 bits of the product. -/
def execMul (g : Guard) (d a b : SReg) (s : State) : Out := xAlu2 s g d a b aluMul

/-- MULH (R154): high 64 bits of the signed product. -/
def execMulh (g : Guard) (d a b : SReg) (s : State) : Out := xAlu2 s g d a b aluMulh

/-- MULHU (R154): high 64 bits of the unsigned product. -/
def execMulhu (g : Guard) (d a b : SReg) (s : State) : Out := xAlu2 s g d a b aluMulhu

/-- DIV (R154): signed quotient. -/
def execDiv (g : Guard) (d a b : SReg) (s : State) : Out := xAlu2 s g d a b aluDiv

/-- DIVU (R154): unsigned quotient. -/
def execDivu (g : Guard) (d a b : SReg) (s : State) : Out := xAlu2 s g d a b aluDivu

/-- REM (R154): signed remainder. -/
def execRem (g : Guard) (d a b : SReg) (s : State) : Out := xAlu2 s g d a b aluRem

/-- REMU (R154): unsigned remainder. -/
def execRemu (g : Guard) (d a b : SReg) (s : State) : Out := xAlu2 s g d a b aluRemu

/-- BFX (R155): extract a bit field, zero-extended. -/
def execBfx (g : Guard) (d a : SReg) (lsb : BitVec 6) (width : BitVec 7) (s : State) : Out :=
  xDo s 8 g [d, a] fun _ x => x.setS d (bitField (x.getS a) lsb.toNat width.toNat)

/-- BFXS (R155): extract a bit field, sign-extended. -/
def execBfxs (g : Guard) (d a : SReg) (lsb : BitVec 6) (width : BitVec 7) (s : State) : Out :=
  xDo s 8 g [d, a] fun _ x => x.setS d (bitFieldS (x.getS a) lsb.toNat width.toNat)

/-- BFI (R155): insert a bit field; d is read before it is written. -/
def execBfi (g : Guard) (d a : SReg) (lsb : BitVec 6) (width : BitVec 7) (s : State) : Out :=
  xDo s 8 g [d, a] fun _ x => x.setS d (bitInsert (x.getS d) (x.getS a) lsb.toNat width.toNat)

/-- LI, 64-bit form (R156). -/
def execLi64 (g : Guard) (d : SReg) (imm : BitVec 16) (s : State) : Out :=
  xDo s 8 g [d] fun _ x => x.setS d (imm.signExtend 64)

/-- LI, 96-bit form (R156). -/
def execLi96 (g : Guard) (d : SReg) (lit : W32) (s : State) : Out :=
  xDo s 12 g [d] fun _ x => x.setS d (lit.signExtend 64)

/-- LIH (R156): the high half of d. -/
def execLih (g : Guard) (d : SReg) (lit : W32) (s : State) : Out :=
  xDo s 12 g [d] fun _ x => x.setS d (lit ++ (x.getS d).setWidth 32)

/-- CMP (R157, R158): compare to a predicate pair. -/
def execCmp (g : Guard) (cond : BitVec 3) (comb : BitVec 2) (pd pe : PReg) (a b : SReg) (immForm : Bool) (imm : BitVec 16)
    (s : State) : Out :=
  xDo s 8 g (if immForm then [a] else [a, b]) fun _ x =>
    let y := if immForm then imm.signExtend 64 else x.getS b
    { x with p := combine comb.toNat x.p pd pe (intCond cond.toNat (x.getS a) y) }

/-- PLOG.AND (R160). -/
def execPlogAnd (g : Guard) (pd pa pb : PReg) (s : State) : Out := xPlog s g pd pa pb fun x y => x && y

/-- PLOG.OR (R160). -/
def execPlogOr (g : Guard) (pd pa pb : PReg) (s : State) : Out := xPlog s g pd pa pb fun x y => x || y

/-- PLOG.XOR (R160). -/
def execPlogXor (g : Guard) (pd pa pb : PReg) (s : State) : Out := xPlog s g pd pa pb fun x y => x != y

/-- PLOG.ANDN (R160). -/
def execPlogAndn (g : Guard) (pd pa pb : PReg) (s : State) : Out := xPlog s g pd pa pb fun x y => x && !y

/-- PLOG.NAND (R160). -/
def execPlogNand (g : Guard) (pd pa pb : PReg) (s : State) : Out := xPlog s g pd pa pb fun x y => !(x && y)

/-- PLOG.NOR (R160). -/
def execPlogNor (g : Guard) (pd pa pb : PReg) (s : State) : Out := xPlog s g pd pa pb fun x y => !(x || y)

/-- PLOG.XNOR (R160). -/
def execPlogXnor (g : Guard) (pd pa pb : PReg) (s : State) : Out := xPlog s g pd pa pb fun x y => x == y

/-- PLOG.MOV (R160). -/
def execPlogMov (g : Guard) (pd pa : PReg) (s : State) : Out := xPlog s g pd pa pa fun x _ => x

end Sys2Proof.Machine
end

