-- ==== Sys2Proof/Machine/XFloat.lean ====
section
/-!
DEFINITION. Machine/XFloat.lean: X's floating-point words (R159, R161-R167).
-/

namespace Sys2Proof.Machine

/-- What a floating-point word of X does after computing (R162): with an enabled flag raised it traps and writes
nothing, else it writes its result and ORs its flags into `fsr`: at its issue, in program order, so that a later CSRW of `fsr` comes after
them whatever the word's latency (R149, R151; DESIGN CHOICE, notes/assumptions/7.md). -/
def fpDone (c : Core) (f : Flags) (write : XState → XState) : CoreRes :=
  if fpTraps c.x.fcr f then .trap trFpEnabled (f.setWidth 64 &&& 31) (c.x.pc.setWidth 64)
  else .ok { c with x := { write c.x with fsr := orFsr c.x.fsr f } }

/-- A floating-point word of X (R161, R162). -/
def xFp (s : State) (len : Nat) (g : Guard) (regs : List SReg) (f : XState → Flags × (XState → XState)) : Out :=
  xTry s len g regs fun _ c =>
    let (fl, w) := f c.x
    fpDone c fl w

/-- A scalar operand of a precision, after DZ (R161). -/
def XState.fpOp (x : XState) (p : BitVec 2) (r : SReg) : FVal :=
  let f := precFmt p
  f.daz (fcrDz x.fcr) (f.decode ((x.getS r).toNat % 2 ^ f.width))

/-- Round a value to a precision and write it (R161). -/
def XState.fpRound (x : XState) (p : BitVec 2) (d : SReg) (v : FVal) (fl : Flags) : Flags × (XState → XState) :=
  let (r, fl') := (precFmt p).round (fcrRm x.fcr) (fcrFz x.fcr) v
  (fl ||| fl', fun y => y.setS d (BitVec.ofNat 64 r))

/-- FADD (R163). -/
def execFadd (g : Guard) (prec : BitVec 2) (d a b : SReg) (s : State) : Out :=
  xFp s 4 g [d, a, b] fun x =>
    let (v, fl) := (x.fpOp prec a).add (fcrRm x.fcr) (x.fpOp prec b)
    x.fpRound prec d v fl

/-- FSUB (R163). -/
def execFsub (g : Guard) (prec : BitVec 2) (d a b : SReg) (s : State) : Out :=
  xFp s 4 g [d, a, b] fun x =>
    let (v, fl) := (x.fpOp prec a).add (fcrRm x.fcr) (x.fpOp prec b).neg
    x.fpRound prec d v fl

/-- FMUL (R163). -/
def execFmul (g : Guard) (prec : BitVec 2) (d a b : SReg) (s : State) : Out :=
  xFp s 4 g [d, a, b] fun x =>
    let (v, fl) := (x.fpOp prec a).mul (x.fpOp prec b)
    x.fpRound prec d v fl

/-- FFMA (R164). -/
def execFfma (g : Guard) (negp nega : Bool) (prec : BitVec 2) (d a b c : SReg) (s : State) : Out :=
  xFp s 8 g [d, a, b, c] fun x =>
    let (v, fl) := FVal.fma (fcrRm x.fcr) (x.fpOp prec a) (x.fpOp prec b) (x.fpOp prec c) negp nega
    x.fpRound prec d v fl

/-- FMIN and FMAX (R165): an operand's bits unchanged, apart from DZ. -/
def xMinMax (s : State) (g : Guard) (isMax : Bool) (prec : BitVec 2) (d a b : SReg) : Out :=
  xFp s 4 g [d, a, b] fun x =>
    let f := precFmt prec
    let rd (r : SReg) : Nat := f.dazBits (fcrDz x.fcr) ((x.getS r).toNat % 2 ^ f.width)
    let (r, fl) := fminmax f isMax (rd a) (rd b)
    (fl, fun y => y.setS d (BitVec.ofNat 64 r))

/-- FMIN (R165). -/
def execFmin (g : Guard) (prec : BitVec 2) (d a b : SReg) (s : State) : Out := xMinMax s g false prec d a b

/-- FMAX (R165). -/
def execFmax (g : Guard) (prec : BitVec 2) (d a b : SReg) (s : State) : Out := xMinMax s g true prec d a b

/-- FCMP (R159): compare to a predicate pair. -/
def execFcmp (g : Guard) (cond : BitVec 3) (comb : BitVec 2) (prec : BitVec 2) (pd pe : PReg) (a b : SReg)
    (s : State) : Out :=
  xFp s 8 g [a, b] fun x =>
    let (t, fl) := fcmpCond cond.toNat (x.fpOp prec a) (x.fpOp prec b)
    (fl, fun y => { y with p := combine comb.toNat y.p pd pe t })

/-- FCVT, floating point to floating point (R167 kind 0). A conversion to the same precision keeps the operand's value,
so rounding it is the identity but for NaN and FZ. -/
def execFcvtFpFp (g : Guard) (dst src : BitVec 2) (d a : SReg) (s : State) : Out :=
  xFp s 4 g [d, a] fun x =>
    let v := x.fpOp src a
    x.fpRound dst d v v.sigF

/-- Floating point to an integer range (R167 kinds 1 and 2). -/
def xToInt (s : State) (g : Guard) (src : BitVec 2) (d a : SReg) (lo hi : Int) : Out :=
  xFp s 4 g [d, a] fun x =>
    let (i, fl) := toIntRange (fcrRm x.fcr) lo hi (x.fpOp src a)
    (fl, fun y => y.setS d (BitVec.ofInt 64 i))

/-- FCVT to I64 (R167 kind 1). -/
def execFcvtFpI64 (g : Guard) (src : BitVec 2) (d a : SReg) (s : State) : Out :=
  xToInt s g src d a (-2 ^ 63) (2 ^ 63 - 1)

/-- FCVT to U64 (R167 kind 2). -/
def execFcvtFpU64 (g : Guard) (src : BitVec 2) (d a : SReg) (s : State) : Out := xToInt s g src d a 0 (2 ^ 64 - 1)

/-- FCVT from I64 (R167 kind 3). -/
def execFcvtI64Fp (g : Guard) (dst : BitVec 2) (d a : SReg) (s : State) : Out :=
  xFp s 4 g [d, a] fun x => x.fpRound dst d (FVal.ofInt (x.getS a).toInt) 0

/-- FCVT from U64 (R167 kind 4). -/
def execFcvtU64Fp (g : Guard) (dst : BitVec 2) (d a : SReg) (s : State) : Out :=
  xFp s 4 g [d, a] fun x => x.fpRound dst d (FVal.ofInt (x.getS a).toNat) 0

end Sys2Proof.Machine
end

