-- ==== Sys2Proof/Machine/XFlow.lean ====
section
/-!
DEFINITION. Machine/XFlow.lean: X's branches, calls and NOP (R168-R172).
-/

namespace Sys2Proof.Machine

/-- A branch (R169, R170, R172): when its guard is true X goes on at the target, three clocks later; `link` writes s30
with the address of the next word. -/
def xBranch (s : State) (len : Nat) (g : Guard) (regs : List SReg) (link : Bool) (target : XState → W32) : Out :=
  onCore s fun k c =>
    if !guardHolds g c.x.p then { c with x := c.x.next k.cyc len }
    else if regs.any c.x.busy then c
    else
      let t := target c.x
      let x := if link then c.x.setS 30 ((c.x.pc + BitVec.ofNat 32 len).setWidth 64) else c.x
      { c with x := { x with pc := t, ready := k.cyc + 3, wait := none } }

/-- The target of a relative branch (R169), `off` in parcels. -/
def relTarget (off : W32) (x : XState) : W32 := x.pc + off * 4

/-- The target in a register (R170). -/
def regTarget (a : SReg) (x : XState) : W32 := align4 ((x.getS a).setWidth 32)

/-- BR, 32-bit form (R169). -/
def execBr32 (g : Guard) (off : BitVec 10) (s : State) : Out := xBranch s 4 g [] false (relTarget (off.signExtend 32))

/-- BR, 64-bit form (R169). -/
def execBr64 (g : Guard) (off : BitVec 16) (s : State) : Out := xBranch s 8 g [] false (relTarget (off.signExtend 32))

/-- BR, 96-bit form (R169). -/
def execBr96 (g : Guard) (off : W32) (s : State) : Out := xBranch s 12 g [] false (relTarget off)

/-- CALL, 32-bit form (R169). -/
def execCall32 (g : Guard) (off : BitVec 10) (s : State) : Out :=
  xBranch s 4 g [30] true (relTarget (off.signExtend 32))

/-- CALL, 64-bit form (R169). -/
def execCall64 (g : Guard) (off : BitVec 16) (s : State) : Out :=
  xBranch s 8 g [30] true (relTarget (off.signExtend 32))

/-- CALL, 96-bit form (R169). -/
def execCall96 (g : Guard) (off : W32) (s : State) : Out := xBranch s 12 g [30] true (relTarget off)

/-- JMPR (R170). -/
def execJmpr (g : Guard) (a : SReg) (s : State) : Out := xBranch s 4 g [a] false (regTarget a)

/-- RET (R170). -/
def execRet (g : Guard) (s : State) : Out := xBranch s 4 g [30] false (regTarget 30)

/-- NOP, 32 bits (R171). -/
def execNop32 (g : Guard) (s : State) : Out := xDo s 4 g [] fun _ x => x

/-- NOP, 64 bits (R171). -/
def execNop64 (g : Guard) (s : State) : Out := xDo s 8 g [] fun _ x => x

/-- NOP, 96 bits (R171). -/
def execNop96 (g : Guard) (s : State) : Out := xDo s 12 g [] fun _ x => x

end Sys2Proof.Machine
end

