-- ==== Sys2Proof/Machine/XferCtl.lean ====
section
/-!
DEFINITION. Machine/XferCtl.lean: control flow and register arithmetic of a transfer context (R309-R313).
-/

namespace Sys2Proof.Machine

/-! ## Immediates and branches -/

/-- The immediate of a 64-bit word: SX(IMM16, 16). -/
def tImm16 (w : TArgs) : W64 := w.imm16.signExtend 64

/-- Branch by an offset in 8-byte units, modulo 2^32 (R309). -/
def Ctx.branch (x : Ctx) (off : W64) : Ctx := { x with tpc := x.tpc + (8 * off).setWidth 32 }

/-- TBR (R309). -/
def tbrCtx (w : TArgs) (long : Bool) (off : W64) (x : Ctx) : Ctx :=
  let take := match w.fn.toNat % 4 with
    | 0 => true
    | 1 => x.flag
    | _ => !x.flag
  if take then x.branch off else x.past long

/-- TBR, 64-bit form (R309). -/
def execTbr64 (w : TArgs) (s : State) : Out := ctxWord s [] (tbrCtx w false (tImm16 w))

/-- TBR, 128-bit form (R309). -/
def execTbr128 (w : TArgs) (s : State) : Out := ctxWord s [] (tbrCtx w true w.imm64)

/-- TLOOP (R309). -/
def tloopCtx (w : TArgs) (long : Bool) (off : W64) (x : Ctx) : Ctx :=
  let c := vget x.c w.d.toNat 0 - 1
  let x := { x with c := vset x.c w.d.toNat c }
  if c != 0 then x.branch off else x.past long

/-- TLOOP, 64-bit form (R309). -/
def execTloop64 (w : TArgs) (s : State) : Out := ctxWord s [] (tloopCtx w false (tImm16 w))

/-- TLOOP, 128-bit form (R309). -/
def execTloop128 (w : TArgs) (s : State) : Out := ctxWord s [] (tloopCtx w true w.imm64)

/-! ## Immediates and comparison (R310) -/

/-- TLI, 64-bit form (R310). -/
def execTli64 (w : TArgs) (s : State) : Out := ctxWord s [w.d] fun x => (x.setReg w.d (tImm16 w)).past false

/-- TLI, 128-bit form (R310). -/
def execTli128 (w : TArgs) (s : State) : Out := ctxWord s [w.d] fun x => (x.setReg w.d w.imm64).past true

/-- TCMP (R310). -/
def execTcmp (w : TArgs) (s : State) : Out :=
  ctxWord s [w.s, w.x] fun x => { x with flag := intCond w.fn.toNat (x.reg w.s) (x.reg w.x) }.past false

/-! ## The end and the parameter area (R311, R312) -/

/-- TEND (R311): the context is free at once when every command is complete. -/
def execTend (s : State) : Out :=
  onMach s fun k m =>
    let x := m.ctx k.eng k.ctx
    m.setCtx k.eng k.ctx ({ x.past false with ending := true }).freed

/-- A parameter offset as the engine takes it (R255). -/
def paramOff (a : W64) : Nat := a.toNat % 2 ^ 15 / 8 * 8

/-- A core's engine may serve a word that reaches the parameter area (R312): the clock is one of its positions, it is free, and
no write of the context that is ordered before it is on its way (R104). -/
def Mach.paramFree (m : Mach) (k : Ctl) (n off : Nat) : Bool :=
  let g := m.engine k.eng
  (m.core n).xferFree k.cyc && decide (g.posAt ≤ k.cyc) && !g.behind k.ctx.val 0 8 [(spKey n (0x3F8000 + off), 8)]

/-- A word that reaches the parameter area at an offset: a core transfer engine waits for its position (R312). -/
def paramWord (s : State) (w : TArgs) (off : Ctx → Nat) (core : Core → Ctx → Core × Ctx) (own : Engine → Ctx → Engine × Ctx) : Out :=
  onMach s fun k m =>
    let x := m.ctx k.eng k.ctx
    if x.awaits [w.d, w.s] then m
    else match engineCore k.eng with
      | some n =>
        if !m.paramFree k n.val (off x) then m
        else
          let m := m.takePos k.cyc (spKey n.val 0) k.eng
          let (c, x) := core (m.core n.val) x
          (m.setCore n.val c).setCtx k.eng k.ctx (x.past false)
      | none =>
        let (g, x) := own (m.engine k.eng) x
        (m.setEngine k.eng g).setCtx k.eng k.ctx (x.past false)

/-- TLDR (R312). -/
def execTldr (w : TArgs) (s : State) : Out :=
  let off (x : Ctx) : Nat := paramOff (x.reg w.s + tImm16 w)
  paramWord s w off (fun c x => (c, x.setReg w.d (BitVec.ofNat 64 (c.sp.rd (0x3F8000 + off x) 8))))
    fun g x => (g, x.setReg w.d (BitVec.ofNat 64 (g.param.rd (off x) 8)))

/-- TSTR (R312). -/
def execTstr (w : TArgs) (s : State) : Out :=
  let off (x : Ctx) : Nat := paramOff (x.reg w.d + tImm16 w)
  paramWord s w off (fun c x => ({ c with sp := c.sp.wr (0x3F8000 + off x) 8 (x.reg w.s).toNat }, x))
    fun g x => ({ g with param := g.param.wr (off x) 8 (x.reg w.s).toNat }, x)

/-! ## Arithmetic (R313) -/

/-- The second operand: a(X), or the immediate when FN[40] is set. -/
def tOperand (w : TArgs) (imm : W64) (x : Ctx) : W64 := if w.fn.getLsbD 0 then imm else x.reg w.x

/-- An arithmetic word. -/
def tArith (s : State) (w : TArgs) (long : Bool) (f : W64 → W64 → W64) : Out :=
  ctxWord s (if w.fn.getLsbD 0 then [w.d, w.s] else [w.d, w.s, w.x]) fun x =>
    (x.setReg w.d (f (x.reg w.s) (tOperand w (if long then w.imm64 else tImm16 w) x))).past long

/-- TADD, 64-bit form (R313). -/
def execTadd64 (w : TArgs) (s : State) : Out := tArith s w false aluAdd

/-- TADD, 128-bit form (R313). -/
def execTadd128 (w : TArgs) (s : State) : Out := tArith s w true aluAdd

/-- TSUB, 64-bit form (R313). -/
def execTsub64 (w : TArgs) (s : State) : Out := tArith s w false aluSub

/-- TSUB, 128-bit form (R313). -/
def execTsub128 (w : TArgs) (s : State) : Out := tArith s w true aluSub

/-- TMUL, 64-bit form (R313). -/
def execTmul64 (w : TArgs) (s : State) : Out := tArith s w false aluMul

/-- TMUL, 128-bit form (R313). -/
def execTmul128 (w : TArgs) (s : State) : Out := tArith s w true aluMul

/-- TAND, 64-bit form (R313). -/
def execTand64 (w : TArgs) (s : State) : Out := tArith s w false aluAndR

/-- TAND, 128-bit form (R313). -/
def execTand128 (w : TArgs) (s : State) : Out := tArith s w true aluAndR

/-- TOR, 64-bit form (R313). -/
def execTor64 (w : TArgs) (s : State) : Out := tArith s w false aluOrR

/-- TOR, 128-bit form (R313). -/
def execTor128 (w : TArgs) (s : State) : Out := tArith s w true aluOrR

/-- TSHL, 64-bit form (R313). -/
def execTshl64 (w : TArgs) (s : State) : Out := tArith s w false aluSll

/-- TSHL, 128-bit form (R313). -/
def execTshl128 (w : TArgs) (s : State) : Out := tArith s w true aluSll

/-- TSHR, 64-bit form (R313). -/
def execTshr64 (w : TArgs) (s : State) : Out := tArith s w false aluSrl

/-- TSHR, 128-bit form (R313). -/
def execTshr128 (w : TArgs) (s : State) : Out := tArith s w true aluSrl

end Sys2Proof.Machine
end

