-- ==== Sys2Proof/Machine/Dispatch.lean ====
section
/-!
DEFINITION. Machine/Dispatch.lean: one arm for each step of the ZX8.
-/

namespace Sys2Proof.Machine

/-- What a step does. -/
def exec (i : Instr) (s : State) : Host.Outcome State Fault Refusal :=
  match i with
  | .add g d a b => Sys2Proof.Machine.execAdd g d a b s
  | .sub g d a b => Sys2Proof.Machine.execSub g d a b s
  | .andR g d a b => Sys2Proof.Machine.execAndR g d a b s
  | .orR g d a b => Sys2Proof.Machine.execOrR g d a b s
  | .xorR g d a b => Sys2Proof.Machine.execXorR g d a b s
  | .andn g d a b => Sys2Proof.Machine.execAndn g d a b s
  | .sll g d a b => Sys2Proof.Machine.execSll g d a b s
  | .srl g d a b => Sys2Proof.Machine.execSrl g d a b s
  | .sra g d a b => Sys2Proof.Machine.execSra g d a b s
  | .minS g d a b => Sys2Proof.Machine.execMinS g d a b s
  | .maxS g d a b => Sys2Proof.Machine.execMaxS g d a b s
  | .minU g d a b => Sys2Proof.Machine.execMinU g d a b s
  | .maxU g d a b => Sys2Proof.Machine.execMaxU g d a b s
  | .clz g d a => Sys2Proof.Machine.execClz g d a s
  | .ctz g d a => Sys2Proof.Machine.execCtz g d a s
  | .popc g d a => Sys2Proof.Machine.execPopc g d a s
  | .addImm64 g d a imm => Sys2Proof.Machine.execAddImm64 g d a imm s
  | .addImm96 g d a imm => Sys2Proof.Machine.execAddImm96 g d a imm s
  | .subImm64 g d a imm => Sys2Proof.Machine.execSubImm64 g d a imm s
  | .subImm96 g d a imm => Sys2Proof.Machine.execSubImm96 g d a imm s
  | .andImm64 g d a imm => Sys2Proof.Machine.execAndImm64 g d a imm s
  | .andImm96 g d a imm => Sys2Proof.Machine.execAndImm96 g d a imm s
  | .orImm64 g d a imm => Sys2Proof.Machine.execOrImm64 g d a imm s
  | .orImm96 g d a imm => Sys2Proof.Machine.execOrImm96 g d a imm s
  | .xorImm64 g d a imm => Sys2Proof.Machine.execXorImm64 g d a imm s
  | .xorImm96 g d a imm => Sys2Proof.Machine.execXorImm96 g d a imm s
  | .andnImm64 g d a imm => Sys2Proof.Machine.execAndnImm64 g d a imm s
  | .andnImm96 g d a imm => Sys2Proof.Machine.execAndnImm96 g d a imm s
  | .sllImm64 g d a imm => Sys2Proof.Machine.execSllImm64 g d a imm s
  | .sllImm96 g d a imm => Sys2Proof.Machine.execSllImm96 g d a imm s
  | .srlImm64 g d a imm => Sys2Proof.Machine.execSrlImm64 g d a imm s
  | .srlImm96 g d a imm => Sys2Proof.Machine.execSrlImm96 g d a imm s
  | .sraImm64 g d a imm => Sys2Proof.Machine.execSraImm64 g d a imm s
  | .sraImm96 g d a imm => Sys2Proof.Machine.execSraImm96 g d a imm s
  | .minImm64 g d a imm => Sys2Proof.Machine.execMinImm64 g d a imm s
  | .minImm96 g d a imm => Sys2Proof.Machine.execMinImm96 g d a imm s
  | .maxImm64 g d a imm => Sys2Proof.Machine.execMaxImm64 g d a imm s
  | .maxImm96 g d a imm => Sys2Proof.Machine.execMaxImm96 g d a imm s
  | .minuImm64 g d a imm => Sys2Proof.Machine.execMinuImm64 g d a imm s
  | .minuImm96 g d a imm => Sys2Proof.Machine.execMinuImm96 g d a imm s
  | .maxuImm64 g d a imm => Sys2Proof.Machine.execMaxuImm64 g d a imm s
  | .maxuImm96 g d a imm => Sys2Proof.Machine.execMaxuImm96 g d a imm s
  | .mul g d a b => Sys2Proof.Machine.execMul g d a b s
  | .mulh g d a b => Sys2Proof.Machine.execMulh g d a b s
  | .mulhu g d a b => Sys2Proof.Machine.execMulhu g d a b s
  | .div g d a b => Sys2Proof.Machine.execDiv g d a b s
  | .divu g d a b => Sys2Proof.Machine.execDivu g d a b s
  | .rem g d a b => Sys2Proof.Machine.execRem g d a b s
  | .remu g d a b => Sys2Proof.Machine.execRemu g d a b s
  | .bfx g d a lsb width => Sys2Proof.Machine.execBfx g d a lsb width s
  | .bfxs g d a lsb width => Sys2Proof.Machine.execBfxs g d a lsb width s
  | .bfi g d a lsb width => Sys2Proof.Machine.execBfi g d a lsb width s
  | .li64 g d imm => Sys2Proof.Machine.execLi64 g d imm s
  | .li96 g d lit => Sys2Proof.Machine.execLi96 g d lit s
  | .lih g d lit => Sys2Proof.Machine.execLih g d lit s
  | .cmp g cond comb pd pe a b immForm imm => Sys2Proof.Machine.execCmp g cond comb pd pe a b immForm imm s
  | .fcmp g cond comb prec pd pe a b => Sys2Proof.Machine.execFcmp g cond comb prec pd pe a b s
  | .plogAnd g pd pa pb => Sys2Proof.Machine.execPlogAnd g pd pa pb s
  | .plogOr g pd pa pb => Sys2Proof.Machine.execPlogOr g pd pa pb s
  | .plogXor g pd pa pb => Sys2Proof.Machine.execPlogXor g pd pa pb s
  | .plogAndn g pd pa pb => Sys2Proof.Machine.execPlogAndn g pd pa pb s
  | .plogNand g pd pa pb => Sys2Proof.Machine.execPlogNand g pd pa pb s
  | .plogNor g pd pa pb => Sys2Proof.Machine.execPlogNor g pd pa pb s
  | .plogXnor g pd pa pb => Sys2Proof.Machine.execPlogXnor g pd pa pb s
  | .plogMov g pd pa => Sys2Proof.Machine.execPlogMov g pd pa s
  | .fadd g prec d a b => Sys2Proof.Machine.execFadd g prec d a b s
  | .fsub g prec d a b => Sys2Proof.Machine.execFsub g prec d a b s
  | .fmul g prec d a b => Sys2Proof.Machine.execFmul g prec d a b s
  | .ffma g negp nega prec d a b c => Sys2Proof.Machine.execFfma g negp nega prec d a b c s
  | .fmin g prec d a b => Sys2Proof.Machine.execFmin g prec d a b s
  | .fmax g prec d a b => Sys2Proof.Machine.execFmax g prec d a b s
  | .fcvtFpFp g dst src d a => Sys2Proof.Machine.execFcvtFpFp g dst src d a s
  | .fcvtFpI64 g src d a => Sys2Proof.Machine.execFcvtFpI64 g src d a s
  | .fcvtFpU64 g src d a => Sys2Proof.Machine.execFcvtFpU64 g src d a s
  | .fcvtI64Fp g dst d a => Sys2Proof.Machine.execFcvtI64Fp g dst d a s
  | .fcvtU64Fp g dst d a => Sys2Proof.Machine.execFcvtU64Fp g dst d a s
  | .br32 g off => Sys2Proof.Machine.execBr32 g off s
  | .br64 g off => Sys2Proof.Machine.execBr64 g off s
  | .br96 g off => Sys2Proof.Machine.execBr96 g off s
  | .call32 g off => Sys2Proof.Machine.execCall32 g off s
  | .call64 g off => Sys2Proof.Machine.execCall64 g off s
  | .call96 g off => Sys2Proof.Machine.execCall96 g off s
  | .jmpr g a => Sys2Proof.Machine.execJmpr g a s
  | .ret g => Sys2Proof.Machine.execRet g s
  | .nop32 g => Sys2Proof.Machine.execNop32 g s
  | .nop64 g => Sys2Proof.Machine.execNop64 g s
  | .nop96 g => Sys2Proof.Machine.execNop96 g s
  | .lds g d a size sx off => Sys2Proof.Machine.execLds g d a size sx off s
  | .sts g a b size off => Sys2Proof.Machine.execSts g a b size off s
  | .waitlc64 g n rp lim => Sys2Proof.Machine.execWaitlc64 g n rp lim s
  | .waitlc96 g n rp lim => Sys2Proof.Machine.execWaitlc96 g n rp lim s
  | .semadd g a b off => Sys2Proof.Machine.execSemadd g a b off s
  | .semwait64 g a b off take rp lim => Sys2Proof.Machine.execSemwait64 g a b off take rp lim s
  | .semwait96 g a b off take rp lim => Sys2Proof.Machine.execSemwait96 g a b off take rp lim s
  | .tagwait64 g d a all clr rp lim => Sys2Proof.Machine.execTagwait64 g d a all clr rp lim s
  | .tagwait96 g d a all clr rp lim => Sys2Proof.Machine.execTagwait96 g d a all clr rp lim s
  | .tagff g d a clr => Sys2Proof.Machine.execTagff g d a clr s
  | .qput64 g q a rp lim => Sys2Proof.Machine.execQput64 g q a rp lim s
  | .qput96 g q a rp lim => Sys2Proof.Machine.execQput96 g q a rp lim s
  | .qget64 g q d rp lim => Sys2Proof.Machine.execQget64 g q d rp lim s
  | .qget96 g q d rp lim => Sys2Proof.Machine.execQget96 g q d rp lim s
  | .fenceFull g scope => Sys2Proof.Machine.execFenceFull g scope s
  | .fenceRelease g scope => Sys2Proof.Machine.execFenceRelease g scope s
  | .fenceAcquire g scope => Sys2Proof.Machine.execFenceAcquire g scope s
  | .fencesc g => Sys2Proof.Machine.execFencesc g s
  | .launch g d a rp => Sys2Proof.Machine.execLaunch g d a rp s
  | .done g => Sys2Proof.Machine.execDone g s
  | .yield g => Sys2Proof.Machine.execYield g s
  | .csrr g d csr => Sys2Proof.Machine.execCsrr g d csr s
  | .csrw g d a csr => Sys2Proof.Machine.execCsrw g d a csr s
  | .csrwSet g d a csr => Sys2Proof.Machine.execCsrwSet g d a csr s
  | .csrwClr g d a csr => Sys2Proof.Machine.execCsrwClr g d a csr s
  | .trap g code => Sys2Proof.Machine.execTrap g code s
  | .tret g => Sys2Proof.Machine.execTret g s
  | .apcvtGlob g d a => Sys2Proof.Machine.execApcvtGlob g d a s
  | .apcvtOwn g d a => Sys2Proof.Machine.execApcvtOwn g d a s
  | .aptst g d a => Sys2Proof.Machine.execAptst g d a s
  | .txgo64 g a entry rp lim => Sys2Proof.Machine.execTxgo64 g a entry rp lim s
  | .txgo96 g a entry rp lim => Sys2Proof.Machine.execTxgo96 g a entry rp lim s
  | .gopen w => Sys2Proof.Machine.execGopen w s
  | .gopenX w => Sys2Proof.Machine.execGopenX w s
  | .gclose w => Sys2Proof.Machine.execGclose w s
  | .shfence w => Sys2Proof.Machine.execShfence w s
  | .gld w => Sys2Proof.Machine.execGld w s
  | .gldOa w => Sys2Proof.Machine.execGldOa w s
  | .gldOb w => Sys2Proof.Machine.execGldOb w s
  | .gldm w => Sys2Proof.Machine.execGldm w s
  | .gst w => Sys2Proof.Machine.execGst w s
  | .gstAccumulator w => Sys2Proof.Machine.execGstAccumulator w s
  | .gstz w => Sys2Proof.Machine.execGstz w s
  | .gadv w => Sys2Proof.Machine.execGadv w s
  | .gend w => Sys2Proof.Machine.execGend w s
  | .gldr w => Sys2Proof.Machine.execGldr w s
  | .fopen w => Sys2Proof.Machine.execFopen w s
  | .fadv w => Sys2Proof.Machine.execFadv w s
  | .fend w => Sys2Proof.Machine.execFend w s
  | .fclose w => Sys2Proof.Machine.execFclose w s
  | .fisect w => Sys2Proof.Machine.execFisect w s
  | .fldv w => Sys2Proof.Machine.execFldv w s
  | .fldvCrd w => Sys2Proof.Machine.execFldvCrd w s
  | .rwaitf w => Sys2Proof.Machine.execRwaitf w s
  | .rwaite w => Sys2Proof.Machine.execRwaite w s
  | .rclaim w => Sys2Proof.Machine.execRclaim w s
  | .rpub w => Sys2Proof.Machine.execRpub w s
  | .rrel w => Sys2Proof.Machine.execRrel w s
  | .qputVw w => Sys2Proof.Machine.execQputVw w s
  | .qgetVw w => Sys2Proof.Machine.execQgetVw w s
  | .semaddVw w => Sys2Proof.Machine.execSemaddVw w s
  | .semwaitVw w => Sys2Proof.Machine.execSemwaitVw w s
  | .kli w => Sys2Proof.Machine.execKli w s
  | .kadd w => Sys2Proof.Machine.execKadd w s
  | .loopn w => Sys2Proof.Machine.execLoopn w s
  | .vpm w => Sys2Proof.Machine.execVpm w s
  | .vadd w => Sys2Proof.Machine.execVadd w s
  | .vsub w => Sys2Proof.Machine.execVsub w s
  | .vmul w => Sys2Proof.Machine.execVmul w s
  | .vfma w => Sys2Proof.Machine.execVfma w s
  | .vminmax w => Sys2Proof.Machine.execVminmax w s
  | .vsgn w => Sys2Proof.Machine.execVsgn w s
  | .vclamp w => Sys2Proof.Machine.execVclamp w s
  | .viadd w => Sys2Proof.Machine.execViadd w s
  | .visub w => Sys2Proof.Machine.execVisub w s
  | .vimul w => Sys2Proof.Machine.execVimul w s
  | .vlogic w => Sys2Proof.Machine.execVlogic w s
  | .vshift w => Sys2Proof.Machine.execVshift w s
  | .viminmax w => Sys2Proof.Machine.execViminmax w s
  | .vcmp w => Sys2Proof.Machine.execVcmp w s
  | .vsel w => Sys2Proof.Machine.execVsel w s
  | .vcvt w => Sys2Proof.Machine.execVcvt w s
  | .vqnt w => Sys2Proof.Machine.execVqnt w s
  | .vsf w => Sys2Proof.Machine.execVsf w s
  | .vbcr w => Sys2Proof.Machine.execVbcr w s
  | .vbcc w => Sys2Proof.Machine.execVbcc w s
  | .vrotr w => Sys2Proof.Machine.execVrotr w s
  | .vrotc w => Sys2Proof.Machine.execVrotc w s
  | .vperm w => Sys2Proof.Machine.execVperm w s
  | .vmov w => Sys2Proof.Machine.execVmov w s
  | .vli w => Sys2Proof.Machine.execVli w s
  | .vredr w => Sys2Proof.Machine.execVredr w s
  | .vredc w => Sys2Proof.Machine.execVredc w s
  | .vsegr w => Sys2Proof.Machine.execVsegr w s
  | .vscanr w => Sys2Proof.Machine.execVscanr w s
  | .vrng w => Sys2Proof.Machine.execVrng w s
  | .upd w => Sys2Proof.Machine.execUpd w s
  | .updf w => Sys2Proof.Machine.execUpdf w s
  | .mma w => Sys2Proof.Machine.execMma w s
  | .mmaD w => Sys2Proof.Machine.execMmaD w s
  | .mmas w => Sys2Proof.Machine.execMmas w s
  | .mzero w => Sys2Proof.Machine.execMzero w s
  | .maccr w => Sys2Proof.Machine.execMaccr w s
  | .maccw w => Sys2Proof.Machine.execMaccw w s
  | .mscale w => Sys2Proof.Machine.execMscale w s
  | .mwait w => Sys2Proof.Machine.execMwait w s
  | .copy w => Sys2Proof.Machine.execCopy w s
  | .xpose w => Sys2Proof.Machine.execXpose w s
  | .conv w => Sys2Proof.Machine.execConv w s
  | .convZp w => Sys2Proof.Machine.execConvZp w s
  | .convFib w => Sys2Proof.Machine.execConvFib w s
  | .decomp w => Sys2Proof.Machine.execDecomp w s
  | .req w => Sys2Proof.Machine.execReq w s
  | .gather w => Sys2Proof.Machine.execGather w s
  | .scatter w => Sys2Proof.Machine.execScatter w s
  | .iread w => Sys2Proof.Machine.execIread w s
  | .mcast w => Sys2Proof.Machine.execMcast w s
  | .reduce w => Sys2Proof.Machine.execReduce w s
  | .accw w => Sys2Proof.Machine.execAccw w s
  | .atom w => Sys2Proof.Machine.execAtom w s
  | .signal w => Sys2Proof.Machine.execSignal w s
  | .semwt w => Sys2Proof.Machine.execSemwt w s
  | .rfill w => Sys2Proof.Machine.execRfill w s
  | .rdrain w => Sys2Proof.Machine.execRdrain w s
  | .tagset w => Sys2Proof.Machine.execTagset w s
  | .trel w => Sys2Proof.Machine.execTrel w s
  | .tacq w => Sys2Proof.Machine.execTacq w s
  | .tfence w => Sys2Proof.Machine.execTfence w s
  | .follow w => Sys2Proof.Machine.execFollow w s
  | .pref w => Sys2Proof.Machine.execPref w s
  | .migh w => Sys2Proof.Machine.execMigh w s
  | .udrain w => Sys2Proof.Machine.execUdrain w s
  | .urgn w => Sys2Proof.Machine.execUrgn w s
  | .coll w => Sys2Proof.Machine.execColl w s
  | .tbr64 w => Sys2Proof.Machine.execTbr64 w s
  | .tbr128 w => Sys2Proof.Machine.execTbr128 w s
  | .tloop64 w => Sys2Proof.Machine.execTloop64 w s
  | .tloop128 w => Sys2Proof.Machine.execTloop128 w s
  | .tli64 w => Sys2Proof.Machine.execTli64 w s
  | .tli128 w => Sys2Proof.Machine.execTli128 w s
  | .tcmp w => Sys2Proof.Machine.execTcmp w s
  | .tldr w => Sys2Proof.Machine.execTldr w s
  | .tstr w => Sys2Proof.Machine.execTstr w s
  | .tadd64 w => Sys2Proof.Machine.execTadd64 w s
  | .tadd128 w => Sys2Proof.Machine.execTadd128 w s
  | .tsub64 w => Sys2Proof.Machine.execTsub64 w s
  | .tsub128 w => Sys2Proof.Machine.execTsub128 w s
  | .tmul64 w => Sys2Proof.Machine.execTmul64 w s
  | .tmul128 w => Sys2Proof.Machine.execTmul128 w s
  | .tand64 w => Sys2Proof.Machine.execTand64 w s
  | .tand128 w => Sys2Proof.Machine.execTand128 w s
  | .tor64 w => Sys2Proof.Machine.execTor64 w s
  | .tor128 w => Sys2Proof.Machine.execTor128 w s
  | .tshl64 w => Sys2Proof.Machine.execTshl64 w s
  | .tshl128 w => Sys2Proof.Machine.execTshl128 w s
  | .tshr64 w => Sys2Proof.Machine.execTshr64 w s
  | .tshr128 w => Sys2Proof.Machine.execTshr128 w s
  | .tend => Sys2Proof.Machine.execTend s
  | .ldsComplete => Sys2Proof.Machine.execLdsComplete s
  | .fencescComplete => Sys2Proof.Machine.execFencescComplete s
  | .taskRetirement => Sys2Proof.Machine.execTaskRetirement s
  | .blockingConditionMet => Sys2Proof.Machine.execBlockingConditionMet s
  | .waitTimeout => Sys2Proof.Machine.execWaitTimeout s
  | .trapDelivery => Sys2Proof.Machine.execTrapDelivery s
  | .ringExtensionLink => Sys2Proof.Machine.execRingExtensionLink s
  | .matrixWordStart => Sys2Proof.Machine.execMatrixWordStart s
  | .tileStepStart => Sys2Proof.Machine.execTileStepStart s
  | .matrixWordComplete => Sys2Proof.Machine.execMatrixWordComplete s
  | .matrixEngineIdle => Sys2Proof.Machine.execMatrixEngineIdle s
  | .admissionGrant => Sys2Proof.Machine.execAdmissionGrant s
  | .contextWaitSatisfied => Sys2Proof.Machine.execContextWaitSatisfied s
  | .followAccept => Sys2Proof.Machine.execFollowAccept s
  | .collExchange => Sys2Proof.Machine.execCollExchange s
  | .invocationStart => Sys2Proof.Machine.execInvocationStart s
  | .transferCommandComplete => Sys2Proof.Machine.execTransferCommandComplete s
  | .pageWalkComplete => Sys2Proof.Machine.execPageWalkComplete s
  | .voteDissent => Sys2Proof.Machine.execVoteDissent s
  | .lockCycleTick => Sys2Proof.Machine.execLockCycleTick s
  | .selection => Sys2Proof.Machine.execSelection s
  | .bindDispatch => Sys2Proof.Machine.execBindDispatch s
  | .fastPathBind => Sys2Proof.Machine.execFastPathBind s
  | .overflowPromotion => Sys2Proof.Machine.execOverflowPromotion s
  | .renamedSetCopy => Sys2Proof.Machine.execRenamedSetCopy s
  | .preemptionEvaluation => Sys2Proof.Machine.execPreemptionEvaluation s
  | .preemption => Sys2Proof.Machine.execPreemption s
  | .swapOut => Sys2Proof.Machine.execSwapOut s
  | .coreFailed => Sys2Proof.Machine.execCoreFailed s
  | .readUncorrectable => Sys2Proof.Machine.execReadUncorrectable s
  | .eccCorrected => Sys2Proof.Machine.execEccCorrected s
  | .eccThreshold => Sys2Proof.Machine.execEccThreshold s
  | .drainUnitTake => Sys2Proof.Machine.execDrainUnitTake s
  | .basinAccept => Sys2Proof.Machine.execBasinAccept s
  | .spillExtensionLink => Sys2Proof.Machine.execSpillExtensionLink s
  | .granuleSweep => Sys2Proof.Machine.execGranuleSweep s
  | .basinChosenApply => Sys2Proof.Machine.execBasinChosenApply s
  | .epochDecision => Sys2Proof.Machine.execEpochDecision s
  | .prefRequestServe => Sys2Proof.Machine.execPrefRequestServe s
  | .tugMoveCommit => Sys2Proof.Machine.execTugMoveCommit s
  | .anchorExpiry => Sys2Proof.Machine.execAnchorExpiry s
  | .invalidationComplete => Sys2Proof.Machine.execInvalidationComplete s
  | .queueDoorbell => Sys2Proof.Machine.execQueueDoorbell s
  | .queueErrRead => Sys2Proof.Machine.execQueueErrRead s
  | .nopPacket => Sys2Proof.Machine.execNopPacket s
  | .enqueue => Sys2Proof.Machine.execEnqueue s
  | .fencePacket => Sys2Proof.Machine.execFencePacket s
  | .fencePoll => Sys2Proof.Machine.execFencePoll s
  | .write => Sys2Proof.Machine.execWrite s
  | .invalidate => Sys2Proof.Machine.execInvalidate s
  | .resume => Sys2Proof.Machine.execResume s
  | .priority => Sys2Proof.Machine.execPriority s
  | .revoke => Sys2Proof.Machine.execRevoke s
  | .pin => Sys2Proof.Machine.execPin s
  | .unpin => Sys2Proof.Machine.execUnpin s
  | .unmap => Sys2Proof.Machine.execUnmap s
  | .remap => Sys2Proof.Machine.execRemap s
  | .partcfg => Sys2Proof.Machine.execPartcfg s
  | .slotTableSwitch => Sys2Proof.Machine.execSlotTableSwitch s
  | .resetCoreWarm => Sys2Proof.Machine.execResetCoreWarm s
  | .resetPartitionWarm => Sys2Proof.Machine.execResetPartitionWarm s
  | .resetDeviceWarm => Sys2Proof.Machine.execResetDeviceWarm s
  | .resetCold => Sys2Proof.Machine.execResetCold s
  | .resetComplete => Sys2Proof.Machine.execResetComplete s
  | .checkpointFull => Sys2Proof.Machine.execCheckpointFull s
  | .checkpointIncremental => Sys2Proof.Machine.execCheckpointIncremental s
  | .restore => Sys2Proof.Machine.execRestore s
  | .retire => Sys2Proof.Machine.execRetire s
  | .remove => Sys2Proof.Machine.execRemove s
  | .routingTableLoad => Sys2Proof.Machine.execRoutingTableLoad s
  | .flitReceive => Sys2Proof.Machine.execFlitReceive s
  | .linkRetrain => Sys2Proof.Machine.execLinkRetrain s
  | .linkLost => Sys2Proof.Machine.execLinkLost s
  | .coldReset => Sys2Proof.Machine.execColdReset s
  | .bringupStepTimeout => Sys2Proof.Machine.execBringupStepTimeout s
  | .coreGroupRelease => Sys2Proof.Machine.execCoreGroupRelease s
  | .throttleEvaluation => Sys2Proof.Machine.execThrottleEvaluation s
  | .thermalTrip => Sys2Proof.Machine.execThermalTrip s
  | .coldrst => Sys2Proof.Machine.execColdrst s
  | .tripClear => Sys2Proof.Machine.execTripClear s
  | .pcapWrite => Sys2Proof.Machine.execPcapWrite s
  | .thrcntRead => Sys2Proof.Machine.execThrcntRead s
  | .registerWrite => Sys2Proof.Machine.execRegisterWrite s
  | .launchResult => Sys2Proof.Machine.execLaunchResult s
  | .suspensionEndedAsFault => Sys2Proof.Machine.execSuspensionEndedAsFault s
  | .linkRetrained => Sys2Proof.Machine.execLinkRetrained s
  | .freeFrameSupply => Sys2Proof.Machine.execFreeFrameSupply s
  | .dynamicCapacityChange => Sys2Proof.Machine.execDynamicCapacityChange s
  | .asidRootTableLoad => Sys2Proof.Machine.execAsidRootTableLoad s
  | .pkgnumLoad => Sys2Proof.Machine.execPkgnumLoad s

end Sys2Proof.Machine
end

