-- ==== Sys2Proof/Machine/Moves.lean ====
section
/-!
DEFINITION. Machine/Moves.lean: the step that each move names (notes/assumptions/1.md): what a sequencer or a context does in its
turn, a posted write performed at its home, a program loaded into an engine without a core (R255), and which of the traps that are
pending in one core clock is delivered (R136).
-/

namespace Sys2Proof.Machine

/-- A sequencer issues its next word, traps at it, or has none to issue (R37, R168, R199). -/
def issue (s : State) (n : Fin 320) (q : SeqName) : Out :=
  let s := s.forSeq n q
  if q == .x && s.mc.xGated n then .next s
  else match (s.mc.core n.val).fetch q s.ctl.cyc with
    | .run i => exec i s
    | .trap code i0 i1 =>
      onMach s fun k m => m.takeTrap k n ⟨code, seqSource q, (m.core n.val).pcOf q, i0, i1⟩
    | .idle => .next s

/-- A transfer context goes on with its command, issues its next word, or stops at it (R59, R257, R270). -/
def transfer (s : State) (e : EngineId) (n : Fin 4) : Out :=
  let t := { s with mc := s.mc.noteTurn e n }.forCtx e n
  match s.mc.ctxFetch e n with
  | .run i => exec i t
  | .stop code i0 i1 => onMach t fun _ m => m.decodeStop e n code i0 i1
  | .idle => .next (s.forCtx e n)

/-! ## Engines without a core (R17, R255) -/

/-- The engine runs nothing. R270 has a stopped context freed by TRET or by the end of its task, of which a die or far-tier engine has
neither, so that a program that stopped keeps its engine (DESIGN CHOICE, notes/assumptions/35.md). -/
def Engine.quiet (g : Engine) : Bool :=
  g.invq.isEmpty && g.posts.isEmpty && g.ctxs.toList.all fun x => x.st == .free && x.flight.isEmpty

/-- Load a program into a quiet die or far-tier engine (R255): within its program store (R17), parameter area, segment cache and
invocation queue. -/
def Mach.loadProgram (m : Mach) (e : EngineId) (p : Program) : Mach :=
  let g := m.engine e
  if (engineCore e).isSome || !g.quiet || decide (2 ^ 16 < p.code.length) || decide (2 ^ 15 < p.param.length) ||
      decide (64 < p.segs.length) || decide (16 < p.invs.length) then m
  else m.setEngine e { g with
    pstore := Cells.put [] 0 p.code
    plen := p.code.length
    segs := p.segs
    asid := p.asid.toNat
    param := Cells.put [] 0 p.param
    invq := p.invs }

/-! ## Traps pending in one clock (R136) -/

/-- A trap of a core is about to be taken. -/
def Core.stopping (c : Core) : Bool := c.task.any (·.stop.isSome)

/-- Core `n` has raised a trap between two machines: it is about to be taken, or has entered handler mode, or its task is gone. -/
def Mach.tookTrap (m t : Mach) (n : Nat) : Bool :=
  (m.core n).task.isSome && ((t.core n).task.isNone || ((t.core n).trap.hm && !(m.core n).trap.hm) ||
    ((t.core n).stopping && !(m.core n).stopping))

/-- The sequencers whose traps come before those of a source (R136). -/
def higherThan : Option SeqName → List SeqName
  | some .x => []
  | some .l => [.x]
  | some .c => [.x, .l]
  | some .s => [.x, .l, .c]
  | none => [.x, .l, .c, .s]

/-- The core and the source whose trap a move may take; a context's is none. -/
def Move.trapSource : Move → Option (Fin 320 × Option SeqName)
  | .issue n q => some (n, some q)
  | .occur .blockingConditionMet o => some (o.core, some o.seq)
  | .occur .waitTimeout o =>
    match o.waiter with
    | .seq n q => some (n, some q)
    | .ctx _ _ => none
  | .occur .trapDelivery o => some (o.core, none)
  | _ => none

/-- The trap that a sequencer would take in this clock: at its wait, C's also at the tile step that waits for a fill, or at its next
word. -/
def State.trapOf (s : State) (n : Fin 320) (q : SeqName) : Option State :=
  let took (t : State) : Option State := if s.mc.tookTrap t.mc n.val then some t else none
  ((s.dueWait n q).bind took) <|> (if q == .c then (s.dueStep n).bind took else none) <|> took ((issue s n q).stateOr s)

/-- Of a step that takes a trap and the traps of higher sources that are pending in the same clock, the first (R136). -/
def State.firstTrap (s : State) (src : Option (Fin 320 × Option SeqName)) (o : Out) : Out :=
  match src with
  | none => o
  | some (n, q) =>
    if s.mc.tookTrap (o.stateOr s).mc n.val then
      match (higherThan q).findSome? (s.trapOf n) with
      | some t => .next t
      | none => o
    else o

/-! ## Moves -/

/-- The step that a move names. -/
def perform (s : State) (v : Move) : Out :=
  s.firstTrap v.trapSource <|
    match v with
    | .clock => .next s.advance
    | .issue n q => issue s n q
    | .xfer e n => transfer s e n
    | .land e i => onMach s fun k m => m.land k.cyc e i
    | .occur i o => if i.isEvent then exec i (s.forOcc o) else .refused .notAnEvent
    | .program e p => onMach s fun _ m => m.loadProgram e p
    | .outside addr bytes => onMach s fun _ m => outsideWrite m addr bytes

end Sys2Proof.Machine
end

