-- ==== Sys2Proof/Machine/Step.lean ====
section
/-!
DEFINITION. Machine/Step.lean: one step of the package: whatever moves next (notes/assumptions/1.md), and the placing of
one instruction where the next step runs it (notes/assumptions/2.md).
-/

namespace Sys2Proof.Machine

/-- One step: the agenda's first move, or the one the free schedule names when the agenda is empty. -/
def step (s : State) : Host.Outcome State Fault Refusal :=
  match s.agenda with
  | m :: rest => perform { s with agenda := rest, turns := s.turns + 1 } m
  | [] => perform { s with turns := s.turns + 1 } (Config.schedule s.turns)

/-! ## Placing one instruction -/

/-- A privileged task that runs on core 0, with every section's code at offset 0. -/
def placedTask : Bound where
  tid := 1
  desc := { (default : Desc) with codeLen := 2 ^ 18, moveOff := 2 ^ 18, entC := 0xFFFF, entS := 0xFFFF, handler := 0xFFFF }
  ext := default
  part := 0
  asid := 0
  depth := 0
  priv := true
  vers := []
  tick0 := 0
  running := true
  vstop := false
  doneIssued := false
  replayable := false
  stop := none

/-- The sequencer whose decoder accepts the bytes of a word. -/
def placedSeq (bytes : List Byte) : Option SeqName :=
  [SeqName.x, .l, .c, .s].find? fun q => match decodeSeq q bytes with
    | .ok _ => true
    | .error _ => false

/-- What makes the next step run a word whose bytes are given: the sequencer whose decoder accepts them, else context
0 of core 0's engine. -/
def placedMove (bytes : List Byte) : Move :=
  match placedSeq bytes with
  | some q => .issue 0 q
  | none => .xfer (.core 0) 0

/-- A vector sequencer at the word: it may issue it in this clock when the word is its own. -/
def VState.placed (v : VState) (mine : Bool) (cyc : Nat) : VState :=
  { v with pc := 0, wait := none, acc := none, store := none, ext := none, ready := if mine then 0 else cyc + 1 }

/-- `s` with the instruction of `nbits` bits `w` stored where the next step fetches it: in core 0's instruction store
and in its engine's program store, with a task bound and context 0 running, and that issue as the next move. No other sequencer of the
core may issue in this clock, and no transfer fault waits. -/
def State.withFetchWord (s : State) (nbits w : Nat) : State :=
  let bytes := tableBytes nbits w
  let c := s.mc.core 0
  let e := s.mc.engine (.core 0)
  let ctxs := e.ctxs.map fun (x : Ctx) => { x with fault := none }
  let x := vget ctxs 0 Ctx.init
  let mine (q : SeqName) : Bool := placedSeq bytes == some q
  let cyc := s.ctl.cyc
  let m := s.mc.setCore 0 { c with
    task := some placedTask
    istore := c.istore.put 0 bytes
    x := { c.x with pc := 0, wait := none, ready := if mine .x then 0 else cyc + 1 }
    l := c.l.placed (mine .l) cyc
    c := c.c.placed (mine .c) cyc
    s := c.s.placed (mine .s) cyc }
  let m := m.setEngine (.core 0) { e with
    pstore := e.pstore.put 0 bytes
    plen := 2 ^ 16
    lastCtx := 3
    ctxs := vset ctxs 0 { x with st := .running, tpc := 0, cmd := none, hold := .none, ending := false } }
  { s with agenda := placedMove bytes :: s.agenda, mc := m }

end Sys2Proof.Machine
end

