-- ==== Sys2Proof/Safety.lean ====
section
/-!
DEFINITION. Safety.lean: the properties of a state that claims use, and the words claims are written in: the core a step
acts for, what it is for a word to be free to act, and the state after a word that was passed.
-/

namespace Sys2Proof.Machine

/-! ## Properties of a state -/

/-- The tick counter counts whole lock cycles of 96 core clocks (R21, R22). -/
def State.ticksRight (s : State) : Prop := s.ctl.tick = s.ctl.cyc / 96

/-- Every store of bytes that addresses reach is in its canonical form: memory, and each core's scratchpad. -/
def Mach.memWf (m : Mach) : Prop := m.mem.wf = true ∧ ∀ n, (m.core n).sp.wf = true

/-- Memory is in its canonical form wherever the machine holds it: in place, in the scratchpads of the frames of saved tasks, and in
those of the dry dock's checkpoints. The form is the model's own (log entry 4). -/
def Mach.canonical (m : Mach) : Prop :=
  m.memWf ∧ (∀ f ∈ m.frames, f.2.core.sp.wf = true) ∧ ∀ c, some c ∈ m.dock.toList → ∀ f ∈ c.frames, f.2.core.sp.wf = true

/-- The step answers a next state. -/
def State.steps (s t : State) : Prop := step s = .next t

/-! ## The core a step acts for -/

/-- The core a step acts for. -/
def State.core (s : State) : Core := s.mc.core s.ctl.cur.val

/-- The transfer engine of that core. -/
def State.coreEngine (s : State) : Engine := s.mc.engine (.core s.ctl.cur)

/-- The state with the machine replaced. -/
def State.put (s : State) (m : Mach) : State := { s with mc := m }

/-- The state with the step's core replaced, and nothing else. -/
def State.putCore (s : State) (c : Core) : State := s.put (s.mc.setCore s.ctl.cur.val c)

/-! ## Words of X -/

/-- X's state after a word of `len` bytes is passed: its pc moved on, free to issue in the next clock, not waiting. -/
def XState.past (x : XState) (pc : W32) (cyc len : Nat) : XState :=
  { x with pc := pc + BitVec.ofNat 32 len, ready := cyc + 1, wait := none }

/-- The state after a word of X of `len` bytes whose effect leaves the step's core as `c`. -/
def State.xPass (s : State) (len : Nat) (c : Core) : State :=
  s.putCore { c with x := c.x.past s.core.x.pc s.ctl.cyc len }

/-- The state after a word of X of `len` bytes whose effect makes `x` of X. -/
def State.xAfter (s : State) (len : Nat) (x : XState) : State := s.xPass len { s.core with x := x }

/-- A word's guard holds and none of the registers it uses awaits a load. -/
def State.xGo (s : State) (g : Guard) (regs : List SReg) : Prop :=
  guardHolds g s.core.x.p = true ∧ regs.any s.core.x.busy = false

/-- A word of X of `len` bytes that only changes X (R38, R151): under a true guard it makes `x` of X; under a false
guard it is only passed; while a register it uses awaits a load the state stays as it is. -/
def XWord (s : State) (i : Instr) (g : Guard) (len : Nat) (regs : List SReg) (x : XState) : Prop :=
  (s.xGo g regs → exec i s = .next (s.xAfter len x)) ∧
  (guardHolds g s.core.x.p = false → exec i s = .next (s.xAfter len s.core.x)) ∧
  (guardHolds g s.core.x.p = true → regs.any s.core.x.busy = true → exec i s = .next s)

/-- The state after X raises a trap at its word: as the shared trap entry leaves it (R136, R139). -/
def State.xTrap (s : State) (code : Byte) (info0 info1 : W64) : State :=
  s.put (s.mc.takeTrap s.ctl s.ctl.cur ⟨code, 0, s.core.x.pc, info0, info1⟩)

/-- A core whose X reports to a predicate. -/
def Core.report (c : Core) (rp : PReg) (b : Bool) : Core := { c with x := { c.x with p := setPred c.x.p rp b } }

/-! ## Words of L, C and S -/

/-- The vector sequencer that the step acts for. -/
def State.vs (s : State) : VState := s.core.vs s.ctl.curV

/-- A k register of that sequencer. -/
def State.k (s : State) (r : Reg4) : W64 := s.vs.getK r.toNat

/-- The guard of a word of that sequencer holds. -/
def State.vGo (s : State) (g : Guard) : Prop := guardHolds g s.vs.p = true

/-- The state after a word of `len` bytes of the sequencer, whose effect leaves the step's core as `c`. -/
def State.vPass (s : State) (len : Nat) (c : Core) : State := s.putCore (c.vNext s.ctl.curV s.ctl.cyc len)

/-- A word of L, C or S that acts on its core and does not trap (R38): under a true guard it leaves the core as `c`;
under a false one it is only passed. -/
def VWord (s : State) (i : Instr) (g : Guard) (len : Nat) (c : Core) : Prop :=
  (guardHolds g s.vs.p = true → exec i s = .next (s.vPass len c)) ∧
  (guardHolds g s.vs.p = false → exec i s = .next (s.vPass len s.core))

/-- The state after the sequencer raises a trap at its word. -/
def State.vTrap (s : State) (code : Byte) (info0 info1 : W64) : State :=
  s.put (s.mc.takeTrap s.ctl s.ctl.cur ⟨code, vSource s.ctl.curV, s.vs.pc, info0, info1⟩)

/-! ## Transfer contexts -/

/-- The context that the step acts for. -/
def State.ctx (s : State) : Ctx := s.mc.ctx s.ctl.eng s.ctl.ctx

/-- The state with that context replaced, and nothing else. -/
def State.putCtx (s : State) (x : Ctx) : State := s.put (s.mc.setCtx s.ctl.eng s.ctl.ctx x)

end Sys2Proof.Machine
end

