-- ==== Sys2Proof/Certificates/Slice0/Obligations.lean ====
section
/-!
DEFINITION. Certificates/Slice0/Obligations.lean: the statements for the provers. Each formalises numbered rules of spec/,
named in its docstring; helper definitions beside them write a rule's table or condition out from the rule's words.
-/

open Sys2Proof Sys2Proof.Machine

/-! ## X: arithmetic -/

/-- R153, register forms: what each two-source word makes of a = s[A] and b = s[B]. -/
def Sys2Proof.Machine.aluTable (g : Guard) (d a b : SReg) : List (Instr × (W64 → W64 → W64)) := [
  (.add g d a b, fun x y => x + y), (.sub g d a b, fun x y => x - y), (.andR g d a b, fun x y => x &&& y),
  (.orR g d a b, fun x y => x ||| y), (.xorR g d a b, fun x y => x ^^^ y), (.andn g d a b, fun x y => x &&& ~~~y),
  (.sll g d a b, fun x y => x <<< (y.toNat % 64)), (.srl g d a b, fun x y => x >>> (y.toNat % 64)),
  (.sra g d a b, fun x y => x.sshiftRight (y.toNat % 64)),
  (.minS g d a b, fun x y => if x.toInt ≤ y.toInt then x else y), (.maxS g d a b, fun x y => if y.toInt ≤ x.toInt then x else y),
  (.minU g d a b, fun x y => if x.toNat ≤ y.toNat then x else y), (.maxU g d a b, fun x y => if y.toNat ≤ x.toNat then x else y)]

/-- R153, FN 13-15: the words that count bits of a. -/
def Sys2Proof.Machine.countTable (g : Guard) (d a : SReg) : List (Instr × (W64 → W64)) := [
  (.clz g d a, fun x => BitVec.ofNat 64 (if x.toNat = 0 then 64 else 63 - x.toNat.log2)),
  (.ctz g d a, fun x => BitVec.ofNat 64 ((List.range 64).findIdx x.getLsbD)),
  (.popc g d a, fun x => BitVec.ofNat 64 ((List.range 64).filter x.getLsbD).length)]

/-- R153: each word of the register forms writes r of its table to s[D], discarded for s0, and changes nothing else; under
a false guard no register changes. -/
def Sys2Proof.Machine.AluRegisterForms : Prop :=
  ∀ (s : State) (g : Guard) (d a b : SReg),
    (∀ p ∈ aluTable g d a b, XWord s p.1 g 4 [d, a, b] (s.core.x.setS d (p.2 (s.core.x.getS a) (s.core.x.getS b)))) ∧
    (∀ p ∈ countTable g d a, XWord s p.1 g 4 [d, a] (s.core.x.setS d (p.2 (s.core.x.getS a))))

/-- R153, immediate forms: the 64-bit and the 96-bit word of each operation and what it makes of a = s[A] and b = imm. -/
def Sys2Proof.Machine.immTable (g : Guard) (d a : SReg) (i : BitVec 16) (l : W32) : List (Instr × Instr × (W64 → W64 → W64)) := [
  (.addImm64 g d a i, .addImm96 g d a l, fun x y => x + y), (.subImm64 g d a i, .subImm96 g d a l, fun x y => x - y),
  (.andImm64 g d a i, .andImm96 g d a l, fun x y => x &&& y), (.orImm64 g d a i, .orImm96 g d a l, fun x y => x ||| y),
  (.xorImm64 g d a i, .xorImm96 g d a l, fun x y => x ^^^ y), (.andnImm64 g d a i, .andnImm96 g d a l, fun x y => x &&& ~~~y),
  (.sllImm64 g d a i, .sllImm96 g d a l, fun x y => x <<< (y.toNat % 64)),
  (.srlImm64 g d a i, .srlImm96 g d a l, fun x y => x >>> (y.toNat % 64)),
  (.sraImm64 g d a i, .sraImm96 g d a l, fun x y => x.sshiftRight (y.toNat % 64)),
  (.minImm64 g d a i, .minImm96 g d a l, fun x y => if x.toInt ≤ y.toInt then x else y),
  (.maxImm64 g d a i, .maxImm96 g d a l, fun x y => if y.toInt ≤ x.toInt then x else y),
  (.minuImm64 g d a i, .minuImm96 g d a l, fun x y => if x.toNat ≤ y.toNat then x else y),
  (.maxuImm64 g d a i, .maxuImm96 g d a l, fun x y => if y.toNat ≤ x.toNat then x else y)]

/-- R153, R41: each immediate form takes b from the sign-extended I16 of its 64-bit word or LIT of its 96-bit word. -/
def Sys2Proof.Machine.AluImmediateForms : Prop :=
  ∀ (s : State) (g : Guard) (d a : SReg) (i : BitVec 16) (l : W32), ∀ p ∈ immTable g d a i l,
    XWord s p.1 g 8 [d, a] (s.core.x.setS d (p.2.2 (s.core.x.getS a) (i.signExtend 64))) ∧
    XWord s p.2.1 g 12 [d, a] (s.core.x.setS d (p.2.2 (s.core.x.getS a) (l.signExtend 64)))

/-- R154: what each multiply or divide word makes of its operands, computed on integers. -/
def Sys2Proof.Machine.mulTable (g : Guard) (d a b : SReg) : List (Instr × (W64 → W64 → W64)) := [
  (.mul g d a b, fun x y => BitVec.ofNat 64 (x.toNat * y.toNat)),
  (.mulh g d a b, fun x y => BitVec.ofInt 64 (x.toInt * y.toInt / 2 ^ 64)),
  (.mulhu g d a b, fun x y => BitVec.ofNat 64 (x.toNat * y.toNat / 2 ^ 64)),
  (.div g d a b, fun x y => if y = 0 then 0xFFFFFFFFFFFFFFFF else BitVec.ofInt 64 (x.toInt.tdiv y.toInt)),
  (.divu g d a b, fun x y => if y = 0 then 0xFFFFFFFFFFFFFFFF else BitVec.ofNat 64 (x.toNat / y.toNat)),
  (.rem g d a b, fun x y => if y = 0 then x else BitVec.ofInt 64 (x.toInt - y.toInt * x.toInt.tdiv y.toInt)),
  (.remu g d a b, fun x y => if y = 0 then x else BitVec.ofNat 64 (x.toNat - y.toNat * (x.toNat / y.toNat)))]

/-- R154: multiplication and division, the corners of division among them; none of them sets a flag or traps. -/
def Sys2Proof.Machine.MultiplyDivide : Prop :=
  ∀ (s : State) (g : Guard) (d a b : SReg), ∀ p ∈ mulTable g d a b,
    XWord s p.1 g 4 [d, a, b] (s.core.x.setS d (p.2 (s.core.x.getS a) (s.core.x.getS b)))

/-- R153, R154: the register forms of the integer words and the multiply and divide words, in one statement. -/
def Obligations.RegisterArithmetic : Prop := AluRegisterForms ∧ MultiplyDivide

/-- R155, R156: bit fields bit by bit, and the immediate loads. For BFX, BFXS and BFI the width is 1-64 and lsb + width at
most 64, as the encoding requires. -/
def Sys2Proof.Machine.BitFieldsAndLoadImmediate : Prop :=
  ∀ (s : State) (g : Guard) (d a : SReg) (lsb : BitVec 6) (width : BitVec 7) (i : BitVec 16) (l : W32),
    let x := s.core.x
    let field (r : W64) (top : Bool) : Prop := ∀ j < 64,
      r.getLsbD j = if j < width.toNat then (x.getS a).getLsbD (lsb.toNat + j) else top
    (1 ≤ width.toNat → lsb.toNat + width.toNat ≤ 64 →
      (∃ r, field r false ∧ XWord s (.bfx g d a lsb width) g 8 [d, a] (x.setS d r)) ∧
      (∃ r, field r ((x.getS a).getLsbD (lsb.toNat + width.toNat - 1)) ∧
        XWord s (.bfxs g d a lsb width) g 8 [d, a] (x.setS d r)) ∧
      (∃ r : W64, (∀ j < 64, r.getLsbD j = if lsb.toNat ≤ j ∧ j < lsb.toNat + width.toNat
          then (x.getS a).getLsbD (j - lsb.toNat) else (x.getS d).getLsbD j) ∧
        XWord s (.bfi g d a lsb width) g 8 [d, a] (x.setS d r))) ∧
    XWord s (.li64 g d i) g 8 [d] (x.setS d (i.signExtend 64)) ∧
    XWord s (.li96 g d l) g 12 [d] (x.setS d (l.signExtend 64)) ∧
    XWord s (.lih g d l) g 12 [d] (x.setS d (BitVec.ofNat 64 (l.toNat * 2 ^ 32 + (x.getS d).toNat % 2 ^ 32)))

/-- R153, R155, R156: the immediate forms, the bit-field words and the immediate loads, in one statement. -/
def Obligations.ImmediateArithmetic : Prop := AluImmediateForms ∧ BitFieldsAndLoadImmediate

/-- R158: the condition of CMP on a and b. -/
def Sys2Proof.Machine.cmpHolds (cond : BitVec 3) (a b : W64) : Bool :=
  match cond.toNat with
  | 0 => decide (a = b)
  | 1 => decide (a ≠ b)
  | 2 => decide (a.toInt < b.toInt)
  | 3 => decide (b.toInt ≤ a.toInt)
  | 4 => decide (a.toNat < b.toNat)
  | _ => decide (b.toNat ≤ a.toNat)

/-- R158: the values a comparison with outcome t gives the predicate pair from its old values, set, and, or. -/
def Sys2Proof.Machine.pairAfter (comb : BitVec 2) (t od oe : Bool) : Bool × Bool :=
  match comb.toNat with
  | 0 => (t, !t)
  | 1 => (od && t, oe || !t)
  | _ => (od || t, oe && !t)

/-- R160: the words of predicate logic and what each makes of x = p[pa] and y = p[pb]. -/
def Sys2Proof.Machine.plogTable (g : Guard) (pd pa pb : PReg) : List (Instr × (Bool → Bool → Bool)) := [
  (.plogAnd g pd pa pb, fun x y => x && y), (.plogOr g pd pa pb, fun x y => x || y),
  (.plogXor g pd pa pb, fun x y => xor x y), (.plogAndn g pd pa pb, fun x y => x && !y),
  (.plogNand g pd pa pb, fun x y => !(x && y)), (.plogNor g pd pa pb, fun x y => !(x || y)),
  (.plogXnor g pd pa pb, fun x y => !(xor x y)), (.plogMov g pd pa, fun x _ => x)]

/-- R157, R158, R160: CMP in both its forms and predicate logic change predicates only, both old values of a pair read
before either is written. -/
def Obligations.PredicateWords : Prop :=
  ∀ (s : State) (g : Guard) (cond : BitVec 3) (comb : BitVec 2) (pd pe pa pb : PReg) (a b : SReg) (i : BitVec 16),
    let x := s.core.x
    let pair (t : Bool) : XState :=
      let v := pairAfter comb t (getPred x.p pd) (getPred x.p pe)
      { x with p := setPred (setPred x.p pd v.1) pe v.2 }
    XWord s (.cmp g cond comb pd pe a b false i) g 8 [a, b] (pair (cmpHolds cond (x.getS a) (x.getS b))) ∧
    XWord s (.cmp g cond comb pd pe a b true i) g 8 [a] (pair (cmpHolds cond (x.getS a) (i.signExtend 64))) ∧
    ∀ p ∈ plogTable g pd pa pb,
      XWord s p.1 g 4 [] { x with p := setPred x.p pd (p.2 (getPred x.p pa) (getPred x.p pb)) }

/-! ## X: floating point -/

/-- R162: a floating-point word of X whose flags are `fl` and whose write is `w`: an enabled flag traps with the word's
address and changes nothing else; otherwise the destination is written and the flags are ORed into `fsr`. -/
def Sys2Proof.Machine.XFloatWord (s : State) (i : Instr) (g : Guard) (len : Nat) (regs : List SReg) (fl : Flags) (w : XState → XState) : Prop :=
  (s.xGo g regs → fl.setWidth 5 &&& s.core.x.fcr.extractLsb' 5 5 = 0 →
    exec i s = .next (s.xAfter len { w s.core.x with fsr := s.core.x.fsr ||| fl.setWidth 64 })) ∧
  (s.xGo g regs → fl.setWidth 5 &&& s.core.x.fcr.extractLsb' 5 5 ≠ 0 →
    exec i s = .next (s.xTrap 0x20 (fl.setWidth 64 &&& 31) (s.core.x.pc.setWidth 64))) ∧
  (guardHolds g s.core.x.p = false → exec i s = .next (s.xAfter len s.core.x))

/-- A value that a word rounds once, in the captured mode, to a precision's format, and the flags with it (R161). -/
def Sys2Proof.Machine.rounds (x : XState) (prec : BitVec 2) (d : SReg) (v : FVal × Flags) : Flags × (XState → XState) :=
  let r := (precFmt prec).round (fcrRm x.fcr) (fcrFz x.fcr) v.1
  (v.2 ||| r.2, fun y => y.setS d (BitVec.ofNat 64 r.1))

/-- R162-R167: each floating-point word rounds its exact result once, writes it in the low bits with zeros above, and ORs
its flags, or traps on an enabled one. -/
def Sys2Proof.Machine.FloatWords : Prop :=
  ∀ (s : State) (g : Guard) (prec src : BitVec 2) (d a b c : SReg) (negp nega : Bool),
    let x := s.core.x
    let rm := fcrRm x.fcr
    let op (r : SReg) : FVal := x.fpOp prec r
    let word (i : Instr) (len : Nat) (regs : List SReg) (r : Flags × (XState → XState)) : Prop := XFloatWord s i g len regs r.1 r.2
    let int (v : Int × Flags) : Flags × (XState → XState) := (v.2, fun y => y.setS d (BitVec.ofInt 64 v.1))
    word (.fadd g prec d a b) 4 [d, a, b] (rounds x prec d ((op a).add rm (op b))) ∧
    word (.fsub g prec d a b) 4 [d, a, b] (rounds x prec d ((op a).add rm (op b).neg)) ∧
    word (.fmul g prec d a b) 4 [d, a, b] (rounds x prec d ((op a).mul (op b))) ∧
    word (.ffma g negp nega prec d a b c) 8 [d, a, b, c]
      (rounds x prec d (FVal.fma rm (op a) (op b) (op c) negp nega)) ∧
    word (.fcvtFpFp g prec src d a) 4 [d, a] (rounds x prec d (x.fpOp src a, (x.fpOp src a).sigF)) ∧
    word (.fcvtI64Fp g prec d a) 4 [d, a] (rounds x prec d (FVal.ofInt (x.getS a).toInt, 0)) ∧
    word (.fcvtU64Fp g prec d a) 4 [d, a] (rounds x prec d (FVal.ofInt (x.getS a).toNat, 0)) ∧
    word (.fcvtFpI64 g prec d a) 4 [d, a] (int (toIntRange rm (-2 ^ 63) (2 ^ 63 - 1) (op a))) ∧
    word (.fcvtFpU64 g prec d a) 4 [d, a] (int (toIntRange rm 0 (2 ^ 64 - 1) (op a)))

/-- R158, R159, R165: minima and maxima answer an operand's bits unchanged apart from DZ, or the canonical NaN when both are
NaN, and comparisons write a predicate pair; NV is the only flag of either. -/
def Sys2Proof.Machine.FloatCompareMinMax : Prop :=
  ∀ (s : State) (g : Guard) (prec : BitVec 2) (d a b : SReg) (cond : BitVec 3) (comb : BitVec 2) (pd pe : PReg),
    let x := s.core.x
    let f := precFmt prec
    let bits (r : SReg) : Nat := f.dazBits (fcrDz x.fcr) ((x.getS r).toNat % 2 ^ f.width)
    let pick (isMax : Bool) : Nat × Flags := fminmax f isMax (bits a) (bits b)
    let t := fcmpCond cond.toNat (x.fpOp prec a) (x.fpOp prec b)
    let v := pairAfter comb t.1 (getPred x.p pd) (getPred x.p pe)
    (∀ m, ((pick m).1 = bits a ∨ (pick m).1 = bits b ∨ (pick m).1 = f.qnan) ∧ ((pick m).2 = 0 ∨ (pick m).2 = 0x10)) ∧
    (t.2 = 0 ∨ t.2 = 0x10) ∧
    XFloatWord s (.fmin g prec d a b) g 4 [d, a, b] (pick false).2 (fun y => y.setS d (BitVec.ofNat 64 (pick false).1)) ∧
    XFloatWord s (.fmax g prec d a b) g 4 [d, a, b] (pick true).2 (fun y => y.setS d (BitVec.ofNat 64 (pick true).1)) ∧
    XFloatWord s (.fcmp g cond comb prec pd pe a b) g 8 [a, b] t.2
      (fun y => { y with p := setPred (setPred y.p pd v.1) pe v.2 })

/-- R158, R159, R162-R167: every floating-point word of X, each under the rule of R162, in one statement. -/
def Obligations.FloatingPointOfX : Prop := FloatWords ∧ FloatCompareMinMax

/-! ## X: control flow, scalar memory, waits and fences -/

/-- R169, R170: BR, CALL, JMPR and RET with their lengths, the register they read and their targets. -/
def Sys2Proof.Machine.branchTable (g : Guard) (a : SReg) (o10 : BitVec 10) (o16 : BitVec 16) (o32 : W32) (x : XState) :
    List (Instr × Nat × List SReg × W32) := [
  (.br32 g o10, 4, [], x.pc + 4 * o10.signExtend 32), (.br64 g o16, 8, [], x.pc + 4 * o16.signExtend 32),
  (.br96 g o32, 12, [], x.pc + 4 * o32),
  (.call32 g o10, 4, [30], x.pc + 4 * o10.signExtend 32), (.call64 g o16, 8, [30], x.pc + 4 * o16.signExtend 32),
  (.call96 g o32, 12, [30], x.pc + 4 * o32),
  (.jmpr g a, 4, [a], (x.getS a).setWidth 32 &&& 0xFFFFFFFC), (.ret g, 4, [30], (x.getS 30).setWidth 32 &&& 0xFFFFFFFC)]

/-- The word writes s30 with the address of the next word (R169). -/
def Sys2Proof.Machine.isCall : Instr → Bool
  | .call32 _ _ => true
  | .call64 _ _ => true
  | .call96 _ _ => true
  | _ => false

/-- R169-R172: a taken branch sets the pc to its target and the next word issues 3 clocks later; CALL alone writes s30; under a
false guard neither changes; NOP has no effect, whatever its guard. -/
def Obligations.Branches : Prop :=
  ∀ (s : State) (g : Guard) (a : SReg) (o10 : BitVec 10) (o16 : BitVec 16) (o32 : W32),
    let x := s.core.x
    (∀ p ∈ branchTable g a o10 o16 o32 x,
      (s.xGo g p.2.2.1 →
        let y := if isCall p.1 then x.setS 30 ((x.pc + BitVec.ofNat 32 p.2.1).setWidth 64) else x
        exec p.1 s = .next (s.putCore { s.core with x := { y with pc := p.2.2.2, ready := s.ctl.cyc + 3, wait := none } })) ∧
      (guardHolds g x.p = false → exec p.1 s = .next (s.xAfter p.2.1 x))) ∧
    ∀ p ∈ [(Instr.nop32 g, 4), (.nop64 g, 8), (.nop96 g, 12)], exec p.1 s = .next (s.xAfter p.2 x)

/-- R174-R176, R180: a scalar access is posted behind X's earlier ones, with its offset taken modulo 4 MiB and aligned down to
its size, and X goes on at once; a SEMADD outside semaphores 0-4,095 raises SEM_RANGE with its index; a guarded-off LDS still
counts, the others do nothing.
X's posted accesses stand in one list (log entry 8). -/
def Obligations.ScalarAccesses : Prop :=
  ∀ (s : State) (g : Guard) (d a b : SReg) (size : BitVec 2) (sx : Bool) (off : BitVec 16),
    let x := s.core.x
    let n := 2 ^ size.toNat
    let at0 := (x.getS a + off.signExtend 64).toNat % 2 ^ 22 / n * n
    let idx := x.getS a + off.signExtend 64
    let post (p : Posted) : State := s.xAfter 8 { x with pend := x.pend ++ [p] }
    (x.lc < 64 → s.xGo g [d, a] → exec (.lds g d a size sx off) s = .next (post (.load d at0 n sx none))) ∧
    (x.lc < 64 → guardHolds g x.p = false → exec (.lds g d a size sx off) s = .next (post (.skip d s.ctl.cyc))) ∧
    (64 ≤ x.lc → exec (.lds g d a size sx off) s = .next s) ∧
    (s.xGo g [a, b] → exec (.sts g a b size off) s = .next (post (.store at0 n (x.getS b)))) ∧
    (guardHolds g x.p = false → exec (.sts g a b size off) s = .next (s.xAfter 8 x)) ∧
    (s.xGo g [a, b] → idx.toNat < 4096 → exec (.semadd g a b off) s = .next (post (.semadd idx.toNat (x.getS b)))) ∧
    (s.xGo g [a, b] → 4096 ≤ idx.toNat → exec (.semadd g a b off) s = .next (s.xTrap 0x42 idx 0)) ∧
    (guardHolds g x.p = false → exec (.semadd g a b off) s = .next (s.xAfter 8 x))

/-- R24, R173-R176, R180: in X's position of a core clock a lone posted access is performed: a load takes the bytes of the
scratchpad, a store writes its low bytes, discarded in the semaphore area, and a semaphore operation adds modulo 2^64. -/
def Sys2Proof.Machine.ScalarAccessServed : Prop :=
  ∀ (c : Core) (cyc : Nat) (d : SReg) (at0 n : Nat) (sx : Bool) (v : W64) (i : Nat),
    cyc % 8 = 6 → cyc / 8 % 2 = 0 →
    let raw := c.sp.rd at0 n
    (c.x.pend = [.load d at0 n sx none] → c.clocked cyc = { c with x := { c.x with pend := [.load d at0 n sx (some
      (if sx then (BitVec.ofNat (8 * n) raw).signExtend 64 else BitVec.ofNat 64 raw, cyc + 4))] } }) ∧
    (c.x.pend = [.store at0 n v] → c.clocked cyc = { c with
      sp := if at0 < 0x3E8000 ∧ 0x3E0000 < at0 + n then c.sp else c.sp.wr at0 n v.toNat, x := { c.x with pend := [] } }) ∧
    (c.x.pend = [.semadd i v] → c.clocked cyc = { c with
      sp := c.sp.wr (0x3E0000 + 8 * i) 8 (BitVec.ofNat 64 (c.sp.rd (0x3E0000 + 8 * i) 8) + v).toNat, x := { c.x with pend := [] } })

/-- R145, R174, R175: LDS_COMPLETE of the oldest load, served 4 clocks before, writes its value to its register, discarded for
s0, and takes it off `lc`; a guarded-off load is only taken off. Loads complete in issue order: while the oldest is not due, nothing
completes. -/
def Sys2Proof.Machine.LoadCompletes : Prop :=
  ∀ (s : State) (d : SReg) (at0 n t : Nat) (sx : Bool) (v : W64) (rest : List Posted),
    let x := s.core.x
    let off (y : XState) : State := s.putCore { s.core with x := { y with pend := rest, lastDone := s.ctl.cyc } }
    (x.pend = .load d at0 n sx (some (v, t)) :: rest → t ≤ s.ctl.cyc → exec .ldsComplete s = .next (off (x.setS d v))) ∧
    (x.pend = .skip d t :: rest → t + 4 < s.ctl.cyc → x.lastDone < s.ctl.cyc → exec .ldsComplete s = .next (off x)) ∧
    (x.pend = .load d at0 n sx none :: rest → exec .ldsComplete s = .next s) ∧
    (x.pend = .load d at0 n sx (some (v, t)) :: rest → s.ctl.cyc < t → exec .ldsComplete s = .next s) ∧
    (x.pend = .skip d t :: rest → s.ctl.cyc ≤ t + 4 ∨ s.ctl.cyc ≤ x.lastDone → exec .ldsComplete s = .next s) ∧
    (∀ p, x.pend = p :: rest → (∃ w, p = .load d at0 n sx w ∨ p = .skip d t) → x.lc = (rest.filter fun q => match q with
      | .load _ _ _ _ _ => true
      | .skip _ _ => true
      | _ => false).length + 1)

/-- R24, R145, R173-R176, R180: how posted scalar accesses are served and how loads complete, in one statement.
X's posted accesses stand in one list (log entry 8). -/
def Obligations.ScalarAccessPerformed : Prop := ScalarAccessServed ∧ LoadCompletes

/-- A blocking word of X, met for the first time (R43, R178). `ready` says that the clock is one of its opportunities, `act` is
the machine its action leaves when its condition holds. Condition true: it acts and reports true. Condition false with limit
code 0 at an opportunity: it reports false and does nothing. Otherwise it waits from this clock on. Guard false: it is passed. -/
def Sys2Proof.Machine.XBlocks (s : State) (i : Instr) (g : Guard) (len lim : Nat) (rp : PReg) (free : Prop) (ready : Prop)
    (act : Option Mach) : Prop :=
  let n := s.ctl.cur.val
  let pass (m : Mach) (b : Bool) : State :=
    let c := m.core n
    s.put (m.setCore n { c with x := { c.x.past c.x.pc s.ctl.cyc len with p := setPred c.x.p rp b } })
  (guardHolds g s.core.x.p = true → free → s.core.x.wait = none → ready → ∀ m, act = some m → exec i s = .next (pass m true)) ∧
  (guardHolds g s.core.x.p = true → free → s.core.x.wait = none → ready → act = none → lim = 0 → exec i s = .next (pass s.mc false)) ∧
  (guardHolds g s.core.x.p = true → free → s.core.x.wait = none → (ready → act = none ∧ lim ≠ 0) →
    exec i s = .next (s.putCore { s.core with x := { s.core.x with wait := some ⟨i, s.ctl.cyc, some lim⟩ } })) ∧
  (guardHolds g s.core.x.p = false → exec i s = .next (s.xAfter len s.core.x))

/-- R43, R177, R178, R182, R184: what WAITLC, TAGWAIT, QPUT and QGET of X wait for and do, in both lengths. QPUT is a release,
so X's earlier accesses are served first. QGET takes the oldest entry that the clock found in the queue, and the register writes that
travel before it leave with it; from an empty queue it waits, or reports false with a limit code of 0. -/
def Obligations.WaitsOfX : Prop :=
  ∀ (s : State) (g : Guard) (d a : SReg) (n : Byte) (q : BitVec 3) (all clr : Bool) (rp : PReg) (l8 : Byte) (l32 : W32),
    let c := s.core
    let x := c.x
    let put (c : Core) : Mach := s.mc.setCore s.ctl.cur.val c
    let both (i8 i32 : Instr) (free : Prop) (act : Option Mach) : Prop :=
      XBlocks s i8 g 8 l8.toNat rp free True act ∧ XBlocks s i32 g 12 l32.toNat rp free True act
    let t := c.tagr &&& x.getS a
    both (.waitlc64 g n rp l8) (.waitlc96 g n rp l32) True (if x.lc ≤ n.toNat then some s.mc else none) ∧
    both (.tagwait64 g d a all clr rp l8) (.tagwait96 g d a all clr rp l32) ([d, a].any x.busy = false)
      (if (if all then t = x.getS a else t ≠ 0)
        then some (put { c with tagr := if clr then c.tagr &&& ~~~t else c.tagr, x := x.setS d t, lastSem := c.emit.written })
        else none) ∧
    both (.qput64 g q a rp l8) (.qput96 g q a rp l32) ([a].any x.busy = false ∧ x.pend.any Posted.unserved = false)
      (if ((vget c.q q.toNat []).filter QItem.isEntry).length < 16
        then some (put { c with q := vset c.q q.toNat (vget c.q q.toNat [] ++ [.entry (x.getS a) s.ctl.cyc c.emit.written]) })
        else none) ∧
    ((vget c.q q.toNat []).any QItem.isEntry = false →
      both (.qget64 g q d rp l8) (.qget96 g q d rp l32) ([d].any x.busy = false) none) ∧
    ∀ ws v t e rest, ws.any QItem.isEntry = false → vget c.q q.toNat [] = ws ++ .entry v t e :: rest →
      both (.qget64 g q d rp l8) (.qget96 g q d rp l32) ([d].any x.busy = false)
        (if t < s.ctl.cyc then some (put { c with
          q := vset c.q q.toNat rest, x := x.setS d v, lastQ6 := if q = 6 then e else c.lastQ6, lastSem := c.emit.written }) else none)

/-- R178-R181, R196: SEMWAIT of X tests in X's positions once X's accesses are served, and takes the count with `.take`; a count
of 0 holds at once; an index outside 0-4,095 raises SEM_RANGE. TXGO appends its entry and argument to the invocation queue. -/
def Obligations.SemwaitAndTxgoOfX : Prop :=
  ∀ (s : State) (g : Guard) (a b : SReg) (off : BitVec 16) (take : Bool) (entry : BitVec 13) (rp : PReg) (l8 : Byte) (l32 : W32),
    let c := s.core
    let x := c.x
    let idx := x.getS a + off.signExtend 64
    let n : Nat := (x.getS b).toNat % 2 ^ 32
    let old := c.sem idx.toNat
    let position : Prop := s.ctl.cyc % 8 = 6 ∧ s.ctl.cyc / 8 % 2 = 0 ∧ x.pend.any Posted.unserved = false
    let act : Option Mach :=
      if n = 0 then some s.mc
      else if (n : Int) ≤ old.toInt then
        some (s.mc.setCore s.ctl.cur.val
          { (if take then c.setSem idx.toNat (old - BitVec.ofNat 64 n) else c) with lastSem := c.emit.written })
      else none
    let free : Prop := [a, b].any x.busy = false ∧ idx.toNat < 4096
    let e := s.coreEngine
    let started : Option Mach :=
      if e.invq.length < 16 then some (s.mc.setEngine (.core s.ctl.cur) { e with invq := e.invq ++ [(entry, x.getS a)] }) else none
    let inCode : Prop := ∀ t, c.task = some t → 8 * entry.toNat < t.desc.codeLen - t.desc.moveOff
    let freeGo : Prop := [a].any x.busy = false ∧ x.pend.any Posted.unserved = false ∧ inCode
    XBlocks s (.semwait64 g a b off take rp l8) g 8 l8.toNat rp free position act ∧
    XBlocks s (.semwait96 g a b off take rp l32) g 12 l32.toNat rp free position act ∧
    (s.xGo g [a, b] → 4096 ≤ idx.toNat → exec (.semwait64 g a b off take rp l8) s = .next (s.xTrap 0x42 idx 0) ∧
      exec (.semwait96 g a b off take rp l32) s = .next (s.xTrap 0x42 idx 0)) ∧
    XBlocks s (.txgo64 g a entry rp l8) g 8 l8.toNat rp freeGo True started ∧
    XBlocks s (.txgo96 g a entry rp l32) g 12 l32.toNat rp freeGo True started

/-- R183, R100, R195: TAGFF answers the lowest ready tag or 64 and clears that one tag with `.clr`; only a tag that it finds set acquires
what C has written before it; APCVT and APTST convert
addresses of this package and core, and classify windows. -/
def Obligations.TagsAndAddresses : Prop :=
  ∀ (s : State) (g : Guard) (d a : SReg) (clr : Bool),
    let c := s.core
    let x := c.x
    let v := x.getS a
    let t := c.tagr &&& v
    let low := (List.range 64).findIdx t.getLsbD
    let n := s.ctl.cur.val
    (s.xGo g [d, a] → exec (.tagff g d a clr) s = .next (s.xPass 4 { c with
      tagr := if clr ∧ low < 64 then c.tagr &&& ~~~BitVec.twoPow 64 low else c.tagr, x := x.setS d (BitVec.ofNat 64 low)
      lastSem := if t = 0 then c.lastSem else c.emit.written })) ∧
    (guardHolds g x.p = false → exec (.tagff g d a clr) s = .next (s.xAfter 4 x)) ∧
    XWord s (.apcvtGlob g d a) g 4 [d, a] (x.setS d (if v.toNat / 2 ^ 22 = 0xFF00 * 2 ^ 26 then
      BitVec.ofNat 64 (0xFE * 2 ^ 56 + s.mc.ownPkg * 2 ^ 32 + n / 40 * 2 ^ 28 + n % 40 * 2 ^ 22 + v.toNat % 2 ^ 22)
      else 0xFFFFFFFFFFFFFFFF)) ∧
    (∀ off pkg : Nat, off < 2 ^ 22 → pkg < 256 → (pkg = 0xFF ∨ pkg = s.mc.ownPkg) →
      v = BitVec.ofNat 64 (0xFE * 2 ^ 56 + pkg * 2 ^ 32 + n / 40 * 2 ^ 28 + n % 40 * 2 ^ 22 + off) →
      XWord s (.apcvtOwn g d a) g 4 [d, a] (x.setS d (BitVec.ofNat 64 (0xFF * 2 ^ 56 + off)))) ∧
    (v.toNat / 2 ^ 40 ≠ 0xFE0000 → XWord s (.apcvtOwn g d a) g 4 [d, a] (x.setS d 0xFFFFFFFFFFFFFFFF)) ∧
    XWord s (.aptst g d a) g 4 [d, a] (x.setS d (BitVec.ofNat 64 (s.mc.window v)))

/-- What happens before a release of X is performed at a scope (R110, R113): X's posted accesses are served, and no write is on its way
that the scope waits for, of a command that is complete or that another release has covered. -/
def Sys2Proof.Machine.Performed (s : State) (scope : Nat) : Prop :=
  s.core.x.pend.any Posted.unserved = false ∧
  (∀ p ∈ s.coreEngine.posts, p.done.isSome = true → p.awaited (.core s.ctl.cur) scope = false) ∧
  ∀ e : EngineId, ∀ p ∈ (s.mc.engine e).posts, p.told = true → p.awaited (.core s.ctl.cur) scope = false

/-- The core's engine once a release of X beyond the core covers the writes of its complete commands (R110). -/
def Sys2Proof.Machine.State.toldEngine (s : State) : Engine :=
  { s.coreEngine with posts := s.coreEngine.posts.map fun p => { p with told := p.told || p.done.isSome } }

/-- R110, R113, R185: a fence of X whose accesses are performed lets X go on; until then X waits in it without a limit. Release: every
posted access served, and no write on its way that happens before it and that the scope waits for: those of commands that are
complete, and those that another release has covered; acquire: no load outstanding; full: both; at package and fabric scope the
awaited UPD triples are accepted as well. Beyond the core a release covers what happens before it, and nothing else changes. -/
def Sys2Proof.Machine.Fences : Prop :=
  ∀ (s : State) (g : Guard) (scope : BitVec 2),
    let c := s.core
    let served : Prop := Performed s scope.toNat
    let loaded : Prop := c.x.lc = 0
    let accepted : Prop := scope.toNat < 2 ∨ c.lastQ6 ≤ c.emit.freed
    let told : State :=
      let t := s.xAfter 4 c.x
      if scope = 0 then t else t.put (t.mc.setEngine (.core s.ctl.cur) s.toldEngine)
    let fence (i : Instr) (done : Prop) (after : State) : Prop :=
      (guardHolds g c.x.p = true → done → exec i s = .next after) ∧
      (guardHolds g c.x.p = true → ¬done → exec i s = .next (s.putCore { c with
        x := { c.x with wait := some (c.x.wait.getD ⟨i, s.ctl.cyc, none⟩) } })) ∧
      (guardHolds g c.x.p = false → exec i s = .next (s.xAfter 4 c.x))
    fence (.fenceFull g scope) (served ∧ loaded ∧ accepted) told ∧
    fence (.fenceRelease g scope) (served ∧ accepted) told ∧
    fence (.fenceAcquire g scope) (loaded ∧ accepted) (s.xAfter 4 c.x)

/-- R115, R186: FENCESC makes X wait for the commands that have begun, and for what an earlier release has covered; the clock in which nothing is left to perform is taken at its
end; FENCESC_COMPLETE ends the wait at the first tick that falls in a later clock, and before it changes nothing. -/
def Sys2Proof.Machine.SequentialFence : Prop :=
  ∀ (s : State) (g h : Guard) (t iss cyc : Nat) (l : Option Nat),
    let c := s.core
    (guardHolds g c.x.p = true → c.x.wait = none → exec (.fencesc g) s = .next (s.putCore { c with
      x := { c.x with wait := some ⟨.fencesc g, s.ctl.cyc, none⟩, fscWait := s.mc.begun s.ctl.cur } })) ∧
    (c.x.wait = some ⟨.fencesc h, iss, l⟩ → c.x.fsc = none → s.mc.scDrained s.ctl.cur = true →
      s.mc.noteFence cyc s.ctl.cur = s.mc.setCore s.ctl.cur.val { c with x := { c.x with fsc := some cyc } }) ∧
    (c.x.wait = some ⟨.fencesc h, iss, l⟩ → c.x.fsc ≠ none ∨ s.mc.scDrained s.ctl.cur = false →
      s.mc.noteFence cyc s.ctl.cur = s.mc) ∧
    (guardHolds g c.x.p = false → exec (.fencesc g) s = .next (s.xAfter 4 c.x)) ∧
    (c.x.wait = some ⟨.fencesc h, iss, l⟩ → c.x.fsc = some t → s.ctl.cyc % 96 = 0 → t < s.ctl.cyc →
      exec .fencescComplete s = .next (s.xAfter 4 { c.x with fsc := none })) ∧
    (c.x.wait = some ⟨.fencesc h, iss, l⟩ → c.x.fsc = some t → s.ctl.cyc % 96 ≠ 0 ∨ s.ctl.cyc ≤ t →
      exec .fencescComplete s = .next s)

/-- R113, R115, R185, R186: FENCE and FENCESC, in one statement.
X's posted accesses stand in one list (log entry 8). -/
def Obligations.FencesOfX : Prop := Fences ∧ SequentialFence

/-- R146-R150, R192: CSRR answers the register's value; CSRW, `.set` and `.clr` write it from the old value and s[A] and answer the
old value; nothing else of the state changes but what the register is. Reads of some registers: `tick`, `cyc`, `lc`, `pr`, `tagr`. -/
def Sys2Proof.Machine.CsrWords : Prop :=
  ∀ (s : State) (g : Guard) (d a : SReg) (csr : BitVec 12),
    let c := s.core
    let old := csrRead s.ctl s.mc csr
    let word (i : Instr) (regs : List SReg) (c' : Core) : Prop :=
      (s.xGo g regs → exec i s = .next (s.xPass 8 { c' with x := c'.x.setS d old })) ∧
      (guardHolds g c.x.p = false → exec i s = .next (s.xAfter 8 c.x))
    word (.csrr g d csr) [d] c ∧
    word (.csrw g d a csr) [d, a] (csrWrite c csr (c.x.getS a)) ∧
    word (.csrwSet g d a csr) [d, a] (csrWrite c csr (old ||| c.x.getS a)) ∧
    word (.csrwClr g d a csr) [d, a] (csrWrite c csr (old &&& ~~~c.x.getS a)) ∧
    csrRead s.ctl s.mc 0x101 = BitVec.ofNat 64 s.ctl.tick ∧ csrRead s.ctl s.mc 0x102 = BitVec.ofNat 64 s.ctl.cyc ∧
    csrRead s.ctl s.mc 0x005 = BitVec.ofNat 64 c.x.lc ∧ (csrRead s.ctl s.mc 0x006).toNat = c.x.p.toNat % 128 + 128 ∧
    csrRead s.ctl s.mc 0x105 = c.tagr

/-- R147, R148: a write of `fcr` keeps reserved bits zero and leaves RM when its code is 5-7; a write of `fsr` sets its six flags
and nothing else; a write to a read-only register, such as `tid` or `cyc`, changes nothing. -/
def Sys2Proof.Machine.CsrFieldRules : Prop :=
  ∀ (c : Core) (v : W64),
    (∀ j, 10 ≤ j → (csrWrite c 0x001 v).x.fcr.getLsbD j = false) ∧
    (∀ j, 3 ≤ j → j < 10 → (csrWrite c 0x001 v).x.fcr.getLsbD j = v.getLsbD j) ∧
    ((csrWrite c 0x001 v).x.fcr.toNat % 8 = if v.toNat % 8 < 5 then v.toNat % 8 else c.x.fcr.toNat % 8) ∧
    ((csrWrite c 0x002 v).x.fsr.toNat = v.toNat % 64) ∧
    (∀ a ∈ ([0x005, 0x100, 0x101, 0x102, 0x103, 0x104, 0x106, 0x107, 0x108, 0x110, 0x111, 0x113, 0x114, 0x115] : List (BitVec 12)),
      csrWrite c a v = c)

/-- R149, R150, R182: what hardware raises in a clock is kept apart until the clock ends: then it is ORed into the flag registers and
the tag register, on top of what a CSR write of the same clock left there. -/
def Sys2Proof.Machine.FlagsMerge : Prop :=
  ∀ (c : Core) (v : W64),
    let d := c.mergeNew
    d.x.fsr = c.x.fsr ||| c.x.fsrNew ∧ d.l.fsr = c.l.fsr ||| c.l.fsrNew ∧ d.c.fsr = c.c.fsr ||| c.c.fsrNew ∧
    d.s.fsr = c.s.fsr ||| c.s.fsrNew ∧ d.tagr = c.tagr ||| c.tagNew ∧ d.tagNew = 0 ∧ d.x.fsrNew = 0 ∧
    (csrWrite c 0x105 v).mergeNew.tagr = v ||| c.tagNew ∧
    (csrWrite c 0x022 v).mergeNew.c.fsr = BitVec.ofNat 64 (v.toNat % 64) ||| c.c.fsrNew

/-- R146-R150, R192: the CSR words, the rules of the fields they write, and the merge of flags and tags, in one statement. -/
def Obligations.ControlRegisters : Prop := CsrWords ∧ CsrFieldRules ∧ FlagsMerge

/-! ## X: traps and the end of a task -/

/-- What entering the handler of a core's task makes of a core (R136-R138): the trap CSRs hold the code, the source, the word's address
and the information, HM is set, X continues at HANDLER in the next clock, and L, C and S are stopped. -/
def Sys2Proof.Machine.HandlerEntered (cyc : Nat) (b : Bound) (t : Trap) (c : Core) : Prop :=
  c.trap = ⟨t.code, t.src, t.pc, t.info0, t.info1, true⟩ ∧ c.x.pc = BitVec.ofNat 32 (4 * b.desc.handler) ∧ c.x.ready = cyc + 1 ∧
  ∃ b', c.task = some b' ∧ b'.vstop = true ∧ b'.stop = none ∧ b'.running = b.running ∧ b'.tid = b.tid ∧ b'.desc = b.desc

/-- No word of a core is left waiting, and its accesses stand as before (R136, R178). -/
def Sys2Proof.Machine.SequencersStopped (c d : Core) : Prop :=
  d.x.pend = c.x.pend ∧ d.x.wait = none ∧ d.l.wait = none ∧ d.c.wait = none ∧ d.s.wait = none ∧ d.sp = c.sp ∧ d.emit = c.emit ∧
    d.s.store = c.s.store ∧ d.mat = c.mat

/-- R136-R138: a trap of X, L, C or S in a task with a handler, outside handler mode: no word is left waiting; with every access of X
complete the handler is entered, else the trap stands until they are, and then it is. A second trap does not displace it. -/
def Sys2Proof.Machine.TrapEntry : Prop :=
  ∀ (m : Mach) (k : Ctl) (n : Fin 320) (b : Bound) (t u : Trap),
    let c := m.core n.val
    (c.task = some b → b.desc.handler ≠ 0xFFFF → c.trap.hm = false → t.src.toNat < 4 → b.stop = none →
      ∃ d : Core, m.takeTrap k n t = m.setCore n.val d ∧ SequencersStopped c d ∧
        (c.x.pend = [] → HandlerEntered k.cyc b t d) ∧
        (c.x.pend ≠ [] → d.trap = c.trap ∧ ∃ b', d.task = some b' ∧ b'.stop = some ⟨t, false⟩ ∧ b'.vstop = true ∧
          b'.running = b.running ∧ b'.tid = b.tid ∧ b'.desc = b.desc)) ∧
    (c.task = some b → b.stop = some ⟨t, false⟩ → c.x.pend = [] →
      ∃ d : Core, m.endStop k n = m.setCore n.val d ∧ HandlerEntered k.cyc b t d) ∧
    (c.task = some b → b.stop = some ⟨t, false⟩ → c.x.pend ≠ [] → m.endStop k n = m) ∧
    (c.task = some b → b.stop = some ⟨t, false⟩ → b.desc.handler ≠ 0xFFFF → c.trap.hm = false → m.takeTrap k n u = m)

/-- R139, R151: a trap with no handler, or of X in handler mode, terminates the task: the sequencers and the contexts stop, and once every
word that has issued is complete and nothing else of its end is open the task ends with STATE 2 and a record of the trap. -/
def Sys2Proof.Machine.TrapEndsTask : Prop :=
  ∀ (m : Mach) (k : Ctl) (n : Fin 320) (b : Bound) (t : Trap),
    let c := m.core n.val
    let t' : Trap := if 4 ≤ t.src.toNat then { t with pc := c.x.takeLaunch.pc } else t
    (c.task = some b → b.desc.handler = 0xFFFF ∨ (t.src = 0 ∧ c.trap.hm = true) → b.stop = none →
      ∃ (d : Core) (b' : Bound), d.task = some b' ∧ b'.running = false ∧ b'.stop = some ⟨t', true⟩ ∧ b'.tid = b.tid ∧ b'.desc = b.desc ∧
        SequencersStopped c d ∧ m.takeTrap k n t = (m.setCore n.val d).endStop k n) ∧
    (c.task = some b → b.stop = some ⟨t, true⟩ → c.wordsDone = true → m.mayEnd k.cyc n b = true →
      m.endStop k n = m.endTask k n.val b 2 ⟨t.code, t.src, t.pc, t.info0, t.info1, true⟩) ∧
    (c.task = some b → b.stop = some ⟨t, true⟩ → c.wordsDone = false ∨ m.mayEnd k.cyc n b = false → m.endStop k n = m)

/-- R193: TRAP raises SOFTWARE with its code, precisely at its word; under a false guard it does nothing. -/
def Sys2Proof.Machine.TrapWord : Prop :=
  ∀ (s : State) (g : Guard) (code : Byte),
    (guardHolds g s.core.x.p = true → exec (.trap g code) s = .next (s.xTrap 0x03 (code.setWidth 64) 0)) ∧
    (guardHolds g s.core.x.p = false → exec (.trap g code) s = .next (s.xAfter 4 s.core.x))

/-- R138, R194: TRET in handler mode, with no transfer fault pending: HM clears; the sequencer that tsrc names goes on at tepc with
its low bits cleared, X where the trap stopped it when another sequencer trapped; L, C and S are let go unless DONE has issued.
Outside handler mode it raises ILLEGAL_ENCODING; under a false guard it does nothing. -/
def Sys2Proof.Machine.TrapReturn : Prop :=
  ∀ (s : State) (g : Guard),
    let c := s.core
    let at0 := c.trap.tepc &&& 0xFFFFFFFC
    let src := c.trap.tsrc.toNat
    (guardHolds g c.x.p = true → c.trap.hm = true → src < 4 → s.coreEngine.pendFault = none →
      ∃ c' : Core, exec (.tret g) s = .next (s.putCore c') ∧ c'.trap = { c.trap with hm := false } ∧
        c'.x.pc = (if src = 0 then at0 else c.xret) ∧ c'.l.pc = (if src = 1 then at0 else c.l.pc) ∧
        c'.c.pc = (if src = 2 then at0 else c.c.pc) ∧ c'.s.pc = (if src = 3 then at0 else c.s.pc) ∧
        c'.task = c.task.map (fun b => { b with vstop := b.doneIssued }) ∧
        c'.x.s = c.x.s ∧ c'.x.p = c.x.p ∧ c'.sp = c.sp ∧ c'.tagr = c.tagr) ∧
    (guardHolds g c.x.p = true → c.trap.hm = false →
      exec (.tret g) s = .next (s.xTrap 0x01 (BitVec.ofNat 64 (((encode (.tret g)).map (·.2)).getD 0)) (c.x.pc.setWidth 64))) ∧
    (guardHolds g c.x.p = false → exec (.tret g) s = .next (s.xAfter 4 c.x))

/-- R138, R193, R194: TRAP and TRET, in one statement.
Where X goes on after a trap of L, C or S is the model's reading (log entry 23). -/
def Obligations.TrapAndReturn : Prop := TrapWord ∧ TrapReturn

/-- R136-R138, R270: TRAP_DELIVERY takes the first pending transfer fault of the core's contexts as a trap and takes it off that
context; in a task with a handler that leaves the trap CSRs with the fault's code and information, source 4 plus the context and X's
next word as tepc, HM set and X at HANDLER once X's accesses are complete; in handler mode, with none pending, or while another trap
is about to be taken, it changes nothing. -/
def Sys2Proof.Machine.TransferFaultDelivered : Prop :=
  ∀ (s : State),
    let e := EngineId.core s.ctl.cur
    (s.core.trap.hm = true → exec .trapDelivery s = .next s) ∧
    (s.core.task = none → exec .trapDelivery s = .next s) ∧
    (s.coreEngine.pendFault = none → exec .trapDelivery s = .next s) ∧
    (∀ b, s.core.task = some b → b.stop ≠ none → exec .trapDelivery s = .next s) ∧
    ∀ (i : Fin 4) (f : PendFault) (b : Bound), s.core.trap.hm = false → s.core.task = some b → b.stop = none →
      s.coreEngine.pendFault = some (i.val, f) →
      exec .trapDelivery s = .next (s.put ((s.mc.setEngine e { s.coreEngine with
        ctxs := vset s.coreEngine.ctxs i.val { vget s.coreEngine.ctxs i.val Ctx.init with fault := none } }).takeTrap s.ctl
          s.ctl.cur ⟨f.code, BitVec.ofNat 3 (4 + i.val), 0, f.info0, f.info1⟩)) ∧
      (b.desc.handler ≠ 0xFFFF → s.core.x.launch = none → s.core.x.pend = [] →
        ∃ t : State, exec .trapDelivery s = .next t ∧
          t.core.trap = ⟨f.code, BitVec.ofNat 3 (4 + i.val), s.core.x.pc, f.info0, f.info1, true⟩ ∧
          t.core.x.pc = BitVec.ofNat 32 (4 * b.desc.handler) ∧ t.core.x.wait = none ∧ t.core.x.pend = [] ∧
          (t.coreEngine.ctx i).fault = none ∧ (t.coreEngine.ctx i).st = (s.coreEngine.ctx i).st ∧
          t.core.task = some { b with vstop := true })

/-- R136-R139, R270: taking a trap, its termination of a task, and the delivery of a transfer fault as a trap, in one statement.
That the handler is entered when X's accesses are complete, while words of L, C and S that have issued go on, is the model's reading (log
entries 8 and 37). -/
def Obligations.TakingTraps : Prop := TrapEntry ∧ TrapEndsTask ∧ TransferFaultDelivered

/-- R187-R189: LAUNCH at depth 24 raises LAUNCH_DEPTH with the descriptor's address; once all that happens before it is performed at
package scope, and the triples of the UPDs that X has synchronised with are accepted, it asks for the child, whose result is
outstanding until LAUNCH_RESULT writes D and the acceptance predicate, true only for status 0, and X goes on; an accepted one ends the
task's replayability (R142). Before, or while its descriptor is not read, since its page is moved (R377) or its scratchpad has no free
position (R26), it waits without a limit; that it also waits behind an enqueue of its clock that R387 puts after it is the model's reading
of R387, which fixes the order of tids alone (log entry 37). -/
def Sys2Proof.Machine.LaunchWord : Prop :=
  ∀ (s : State) (g : Guard) (d a : SReg) (rp : PReg) (b : Bound) (r : LaunchRes),
    let c := s.core
    let w : Wait := c.x.wait.getD ⟨.launch g d a rp, s.ctl.cyc, none⟩
    let performed : Prop := Performed s 2 ∧ c.lastQ6 ≤ c.emit.freed ∧ c.lastSem ≤ c.emit.freed ∧
      s.mc.mayEnqueue s.ctl.cyc (launchRank s.ctl.cur.val) = true
    let child := (s.mc.setEngine (.core s.ctl.cur) s.toldEngine).launchChild s.ctl.cyc s.ctl.cur b (c.x.getS a)
    let asked (f : XState → XState) : State := s.put (child.1.setCore s.ctl.cur.val { child.1.core s.ctl.cur.val with
      x := { f (child.1.core s.ctl.cur.val).x with wait := some w } })
    (s.xGo g [d, a] → c.x.launch = none → c.task = some b → b.depth = 24 →
      exec (.launch g d a rp) s = .next (s.xTrap 0xC0 (c.x.getS a) 24)) ∧
    (s.xGo g [d, a] → c.x.launch = none → c.task = some b → b.depth ≠ 24 → ¬performed →
      exec (.launch g d a rp) s = .next (s.putCore { c with x := { c.x with wait := some w } })) ∧
    (s.xGo g [d, a] → c.x.launch = none → c.task = some b → b.depth ≠ 24 → performed →
      (∀ v, child.2 = .ok v →
        exec (.launch g d a rp) s = .next (asked fun x => { x with launch := some ⟨d, rp, v⟩, descGot := none })) ∧
      ∀ got, child.2 = .error got → exec (.launch g d a rp) s = .next (asked fun x => { x with descGot := got })) ∧
    (guardHolds g c.x.p = false → exec (.launch g d a rp) s = .next (s.xAfter 8 c.x)) ∧
    (c.x.launch = some r → exec .launchResult s = .next (s.xPass 8 { c with
      task := c.task.map fun b => { b with replayable := b.replayable && decide (r.value.toNat % 256 ≠ 0) }
      x := { c.x.setS r.d r.value with launch := none, p := setPred c.x.p r.rp (decide (r.value.toNat % 256 = 0)) } })) ∧
    (c.x.launch = none → exec .launchResult s = .next s)

/-- R134, R190, R191, R395: DONE leaves X waiting in it, stops L, C and S and discards what they wait in; YIELD makes its partition's
evaluation, in which an equal priority lets a passed-over candidate pre-empt the task that yields: if its core is then to be
pre-empted, X waits in it and the task keeps whom it stands behind, else X goes on. Under a false guard neither does anything. -/
def Sys2Proof.Machine.DoneAndYield : Prop :=
  ∀ (s : State) (g : Guard) (b : Bound) (t : Task),
    let c := s.core
    (guardHolds g c.x.p = true → c.task = some b → exec (.done g) s = .next (s.putCore { c with
      x := { c.x with wait := some (c.x.wait.getD ⟨.done g, s.ctl.cyc, none⟩) }
      l := { c.l with wait := none, acc := none, ext := none }, c := { c.c with wait := none, acc := none, ext := none }
      s := { c.s with wait := none, acc := none, ext := none }
      task := some { b with vstop := true, doneIssued := true } })) ∧
    (guardHolds g c.x.p = false → exec (.done g) s = .next (s.xAfter 4 c.x)) ∧
    (let n := s.ctl.cur.val
     let m := s.mc.preemptFor (some t.tid) (s.mc.passedOver t.part)
     let peers := (m.tasks.filter fun u => u.part == t.part && u.candidate && u.prio == t.prio).map (·.tid)
     guardHolds g c.x.p = true → c.task = some b → s.mc.taskOf b.tid = some t →
      (c.inYield = false → n ∈ s.mc.preReqs ∨ n ∉ m.preReqs → exec (.yield g) s = .next ((s.put m).xAfter 4 c.x)) ∧
      (n ∉ s.mc.preReqs → n ∈ m.preReqs → exec (.yield g) s = .next
        (s.put ((m.mapTask t.tid fun u => { u with behind := peers }).setCore n
          { c with x := { c.x with wait := some (c.x.wait.getD ⟨.yield g, s.ctl.cyc, none⟩) } })))) ∧
    (guardHolds g c.x.p = false → exec (.yield g) s = .next (s.xAfter 4 c.x))

/-- R134, R187-R191: LAUNCH, DONE and YIELD, in one statement.
That a LAUNCH waits behind an enqueue of a later rank is the model's reading (log entry 37), and when an accepted one ends replayability
too (log entry 29). -/
def Obligations.TaskWordsOfX : Prop := LaunchWord ∧ DoneAndYield

/-- R134, R139, R140, R399: TASK_RETIREMENT of a task whose X waits in DONE, with every invocation ended or stopped and none queued, every
write of the contexts performed, no fault to deliver, no access, store or emission pending, no matrix word, its record's page not moving
and a position of its semaphore's core free: the task ends with STATE 1 and a record of zeros; a task that is not waiting in DONE, or has an invocation that runs, is left alone. The end of a
task frees its core and takes the task from the table. -/
def Sys2Proof.Machine.RetirementEndsTask : Prop :=
  (∀ (s : State) (b : Bound),
    let c := s.core
    let g := s.coreEngine
    (c.task = some b → b.doneIssued = true → c.inDone = true → b.stop = none → g.invq = [] →
      (∀ i : Fin 4, ((g.ctx i).st = .free ∨ (g.ctx i).st = .stopped) ∧ (g.ctx i).fault = none) → c.emit.count = 0 → c.x.pend = [] →
      c.s.store = none → c.emit.todo = [] → c.mat.queue = [] → c.mat.port = [] → c.mat.run = none → g.posts = [] →
      s.mc.recordHeld s.ctl.cyc b = false → s.mc.mayIncrement s.ctl.cyc b.desc.doneSem (s.mc.incTag b.tid) = true →
      exec .taskRetirement s = .next (s.put (s.mc.endTask s.ctl s.ctl.cur.val b 1 ⟨0, 0, 0, 0, 0, false⟩))) ∧
    (c.inDone = false → exec .taskRetirement s = .next s) ∧
    (c.x.pend ≠ [] ∨ g.posts ≠ [] ∨ c.emit.count ≠ 0 → exec .taskRetirement s = .next s) ∧
    ((∃ i : Fin 4, (g.ctx i).st ≠ .free ∧ (g.ctx i).st ≠ .stopped) → exec .taskRetirement s = .next s)) ∧
  ∀ (m : Mach) (k : Ctl) (n : Fin 320) (b : Bound) (st : Nat) (t : TrapRegs),
    let m' := m.endTask k n.val b st t
    (m'.core n.val).task = none ∧ (m'.core n.val).x.pend = [] ∧ (m'.core n.val).x.wait = none ∧
    (∀ i : Fin 4, (m'.engine (.core n)).ctx i = Ctx.init) ∧ (m'.engine (.core n)).invq = [] ∧
    (∀ u ∈ m'.tasks, u.tid ≠ b.tid ∧ b.tid ∉ u.after)

/-- R140: the status record is the 48 bytes at EXT + 0x10: STATE, CODE, SRC, a zero byte, PC, INFO0, INFO1, TICKS and zeros, little-endian;
it is written under the system's translation, which takes a position of each scratchpad that it reaches (R26), and a write that faults is
reported with its code and address. -/
def Sys2Proof.Machine.StatusRecord : Prop :=
  ∀ (m : Mach) (cyc part asid tid : Nat) (ext : W64) (state : Nat) (t : TrapRegs) (ticks : Nat), state < 256 →
    let v := state + t.tcause.toNat * 0x100 + t.tsrc.toNat * 0x10000 + t.tepc.toNat * 2 ^ 32 + t.tinfo0.toNat * 2 ^ 64 +
      t.tinfo1.toNat * 2 ^ 128 + ticks % 2 ^ 64 * 2 ^ 192
    let A := Access.system asid part
    let w := m.writeAt A (ext + 0x10) 48 v
    let record := m.statusRecord cyc part asid tid ext state t ticks
    (w.2 = none → record = (m.accessPlaces A .write (ext + 0x10) 48).foldl (fun m p => m.takeFree cyc p.1) w.1) ∧
    (w.2 = none → (∀ ps, m.resolve A .write (ext + 0x10) 48 = .ok ps → ps.all (fun p => !isSp p.1) = true ∧ m.statusPlaces ps = []) →
      record = w.1) ∧
    (∀ x, w.2 = some x → record = w.1.report x.code part tid (ext + 0x10))

/-- R134, R139, R140: the end of a task and its status record, in one statement.
An event whose condition does not hold changes nothing (log entry 6). -/
def Obligations.EndOfTask : Prop := RetirementEndsTask ∧ StatusRecord

/-! ## Waits that end -/

/-- R27, R178: BLOCKING_CONDITION_MET of a sequencer whose word waits, or whose load is reading, in a running task and not stopped, is
that word looked at again: its condition met within its limit, it acts and its sequencer goes on, as for WAITLC, whose `lc` has
come down to its count, QGET, whose queue has an entry, and the ring wait RWAITF, whose ring has a filled slot; not met, it waits
on. With no word waiting, or the task stopped, nothing changes. -/
def Sys2Proof.Machine.ConditionMetLooksAgain : Prop :=
  ∀ (s : State) (i : Instr) (b : Bound),
    let q := s.ctl.occ.seq
    let s' : State := { s with ctl := { s.ctl with curV := seqV q } }
    (s.core.waiting q = none → exec .blockingConditionMet s = .next s) ∧
    (s.core.waiting q = some i → s.core.task = some b → b.running = false ∨ b.stop ≠ none → exec .blockingConditionMet s = .next s) ∧
    (s.core.waiting q = some i → s.core.task = some b → b.running = true → b.stop = none → q = .x → ∀ (g : Guard) (d : SReg) (n : Byte) (u : BitVec 3)
        (p : PReg) (l8 : Byte) (iss : Nat),
      guardHolds g s.core.x.p = true → s.core.x.wait = some ⟨i, iss, some l8.toNat⟩ → s.ctl.cyc < iss + 256 * l8.toNat →
      let on (c : Core) : State := s'.put (s.mc.setCore s.ctl.cur.val
        { c with x := { c.x.past s.core.x.pc s.ctl.cyc 8 with p := setPred s.core.x.p p true } })
      (i = .waitlc64 g n p l8 → s.core.x.lc ≤ n.toNat → exec .blockingConditionMet s = .next (on s.core)) ∧
      (i = .waitlc64 g n p l8 → n.toNat < s.core.x.lc → exec .blockingConditionMet s = .next s') ∧
      ∀ v t e rest, i = .qget64 g u d p l8 → vget s.core.q u.toNat [] = .entry v t e :: rest → t < s.ctl.cyc → s.core.x.busy d = false →
        exec .blockingConditionMet s = .next (on { s.core with
          q := vset s.core.q u.toNat rest, x := s.core.x.setS d v, lastQ6 := if u = 6 then e else s.core.lastQ6
          lastSem := s.core.emit.written })) ∧
    (∀ (v : VSeq) (w : VArgs) (iss : Nat), q = v.toSeq → i = .rwaitf w → (s.core.vs v).wait = some ⟨i, iss, some w.imm.toNat⟩ →
      s.core.task = some b → b.running = true → b.stop = none → b.vstop = false → guardHolds w.g (s.core.vs v).p = true →
      vPosition v s.ctl.cyc = true → s.ctl.cyc < iss + 256 * w.imm.toNat →
      let j := s.core.k v w.a
      let blk := s.core.ring j.toNat
      j.toNat < 1024 → ringCheck blk = none → 1 ≤ ringFilled blk → exec .blockingConditionMet s = .next (s'.put (s.mc.setCore s.ctl.cur.val
        (((s.core.setKreg v w.d (BitVec.ofNat 64 (ringSlot blk (ringHead blk)))).setVPred v w.msel true).vNext v s.ctl.cyc 12)))) ∧
    (s.core.waiting q = some i → s.core.task = some b → b.running = true → b.stop = none → (q = .x ∨ b.vstop = false) →
      ∀ (g : Guard) (d a c : SReg) (n : Byte) (sz : BitVec 3) (p : PReg) (l8 : Byte) (l32 : W32) (all clr : Bool) (off : BitVec 16)
        (ent : BitVec 13) (sc : BitVec 2) (va : VArgs) (ma : MArgs),
        i ∈ [Instr.waitlc64 g n p l8, .waitlc96 g n p l32, .semwait64 g a c off all p l8, .semwait96 g a c off all p l32,
          .tagwait64 g d a all clr p l8, .tagwait96 g d a all clr p l32, .qput64 g sz a p l8, .qput96 g sz a p l32,
          .qget64 g sz d p l8, .qget96 g sz d p l32, .rwaitf va, .rwaite va, .qputVw va, .qgetVw va, .semwaitVw va,
          .txgo64 g a ent p l8, .txgo96 g a ent p l32, .fenceFull g sc, .fenceRelease g sc, .fenceAcquire g sc,
          .gldOa va, .gldOb va, .mwait ma, .mma ma, .mmaD ma, .mmas ma, .mzero ma, .maccr ma, .maccw ma, .mscale ma,
          .gopen va, .gopenX va, .gld va, .gldm va, .gldr va, .fopen va, .fadv va, .fend va, .fldv va, .fldvCrd va] →
        exec .blockingConditionMet s = exec i s')

/-- R43, R137, R178: WAIT_TIMEOUT of X's waiting word whose limit W is at least 1: 256 × W clocks after it issued it raises
WAIT_TIMEOUT at the word with its kind and index, the value it required and the value it observed; before that nothing changes. -/
def Sys2Proof.Machine.WaitTimesOut : Prop :=
  ∀ (s : State) (n : Fin 320) (w : Wait) (l : Nat) (b : Bound) (g : Guard) (a d c : SReg) (cnt : Byte) (q : BitVec 3) (rp : PReg)
    (l8 : Byte) (off : BitVec 16) (f : Bool),
    let k := s.mc.core n.val
    let x := k.x
    let idx := x.getS a + off.signExtend 64
    let need := (x.getS c).toNat % 2 ^ 32
    let trap (kind index req : Nat) (seen : W64) : State := s.put (s.mc.takeTrap s.ctl n
      ⟨0x40, 0, x.pc, BitVec.ofNat 64 (kind + index % 2 ^ 24 * 2 ^ 8 + req % 2 ^ 32 * 2 ^ 32), seen⟩)
    s.ctl.occ.waiter = .seq n .x → x.wait = some w → w.limit = some l → k.task = some b → b.running = true → b.stop = none →
    (s.ctl.cyc < w.issued + 256 * l → exec .waitTimeout s = .next s) ∧
    (1 ≤ l → w.issued + 256 * l ≤ s.ctl.cyc →
      (w.word = .waitlc64 g cnt rp l8 → exec .waitTimeout s = .next (trap 7 0 cnt.toNat (BitVec.ofNat 64 x.lc))) ∧
      (w.word = .semwait64 g a c off f rp l8 → exec .waitTimeout s = .next (trap 1 idx.toNat need (k.sem idx.toNat))) ∧
      (w.word = .tagwait64 g d a f f rp l8 → exec .waitTimeout s = .next (trap 6 0 0 (x.getS a))) ∧
      (w.word = .qput64 g q a rp l8 → exec .waitTimeout s = .next (trap 3 q.toNat 1 (BitVec.ofNat 64 (k.qCount q.toNat)))) ∧
      (w.word = .qget64 g q d rp l8 → exec .waitTimeout s = .next (trap 2 q.toNat 1 (BitVec.ofNat 64 (k.qCount q.toNat)))))

/-- R43, R137, R178: how a wait ends, met or timed out, in one statement.
An event whose condition does not hold changes nothing (log entry 6). -/
def Obligations.WaitsEnd : Prop := ConditionMetLooksAgain ∧ WaitTimesOut

/-! ## L, C and S: scalars, loops, queues, semaphores, rings -/

/-- R198, R228: KLI and KADD write k(D), discarded for k0, and change nothing else. -/
def Sys2Proof.Machine.ScalarWordsOfLCS : Prop :=
  ∀ (s : State) (w : VArgs),
    VWord s (.kli w) w.g 12 (s.core.setVs s.ctl.curV (s.vs.setK w.d.toNat (w.imm.signExtend 64))) ∧
    VWord s (.kadd w) w.g 12 (s.core.setVs s.ctl.curV (s.vs.setK w.d.toNat (s.k w.a + w.imm.signExtend 64)))

/-- R229, R230: LOOPN whose body of IMM[4:0] + 1 words, none of them a LOOPN, ends within the program: with every level bound of
k(A) nonzero the body is entered with every counter 0, with a zero bound the sequencer goes on after the body; otherwise the word
raises LOOP_BODY with the body's length. -/
def Sys2Proof.Machine.LoopWord : Prop :=
  ∀ (s : State) (w : VArgs) (stop : Nat),
    let v := s.vs
    let words := w.imm.toNat % 32 + 1
    let body := bodyEnd s.core.istore (s.core.vEnd s.ctl.curV) words (v.pc.toNat + 12)
    let bounds := (List.range (w.fn.toNat + 1)).map fun j => (s.k w.a).toNat / 2 ^ (10 * j) % 1024
    let on (u : VState) : State := s.putCore (s.core.setVs s.ctl.curV { u with ready := s.ctl.cyc + 1, wait := none })
    (s.vGo w.g → body = some (stop, false) → (∀ x ∈ bounds, x ≠ 0) → exec (.loopn w) s = .next (on { v with
      pc := BitVec.ofNat 32 (v.pc.toNat + 12)
      loop := some ⟨BitVec.ofNat 32 (v.pc.toNat + 12), BitVec.ofNat 32 stop, bounds, bounds.map fun _ => 0⟩ })) ∧
    (s.vGo w.g → body = some (stop, false) → (∃ x ∈ bounds, x = 0) →
      exec (.loopn w) s = .next (on { v with pc := BitVec.ofNat 32 stop, loop := none })) ∧
    (s.vGo w.g → body = none ∨ body = some (stop, true) →
      exec (.loopn w) s = .next (s.vTrap 0x14 (v.pc.setWidth 64) (BitVec.ofNat 64 words))) ∧
    (guardHolds w.g v.p = false → exec (.loopn w) s = .next (s.vPass 12 s.core))

/-- R229: after the last word of a loop body the innermost counter that has passes left rises, those inside it start over, and the
body begins again; when none has, the loop is over and the sequencer goes on after the body: for a nest of any number of levels, and
written out for one and for two. Anywhere else it just goes on. -/
def Sys2Proof.Machine.LoopPasses : Prop :=
  ∀ (v : VState) (cyc len : Nat) (l : Loop), v.loop = some l →
    let pc := v.pc + BitVec.ofNat 32 len
    let on : VState := { v with pc := pc, ready := cyc + 1, wait := none, acc := none, ext := none }
    let bound (j : Nat) : Nat := (l.bounds[j]?).getD 0
    let count (j : Nat) : Nat := (l.count[j]?).getD 0
    (pc ≠ l.stop → v.next cyc len = on) ∧
    (∀ k : Nat, pc = l.stop → l.count.length = l.bounds.length → k < l.bounds.length → (∀ j < k, bound j ≤ count j + 1) →
      count k + 1 < bound k → v.next cyc len = { on with
        pc := l.start, loop := some { l with count := List.replicate k 0 ++ (count k + 1) :: l.count.drop (k + 1) } }) ∧
    (pc = l.stop → l.count.length = l.bounds.length → (∀ j < l.bounds.length, bound j ≤ count j + 1) →
      v.next cyc len = { on with loop := none }) ∧
    (∀ (b n : Nat), pc = l.stop → l.bounds = [b] → l.count = [n] → v.next cyc len =
      if n + 1 < b then { on with pc := l.start, loop := some { l with count := [n + 1] } } else { on with loop := none }) ∧
    (∀ (b₀ b₁ n₀ n₁ : Nat), pc = l.stop → l.bounds = [b₀, b₁] → l.count = [n₀, n₁] → v.next cyc len =
      if n₀ + 1 < b₀ then { on with pc := l.start, loop := some { l with count := [n₀ + 1, n₁] } }
      else if n₁ + 1 < b₁ then { on with pc := l.start, loop := some { l with count := [0, n₁ + 1] } }
      else { on with loop := none })

/-- R228-R230: KLI, KADD and LOOPN with its passes, in one statement. -/
def Obligations.ScalarsAndLoopsOfLCS : Prop := ScalarWordsOfLCS ∧ LoopWord ∧ LoopPasses

/-- A blocking word of L, C or S, met for the first time (R43): as XBlocks for X. `act` answers the core and the report. -/
def Sys2Proof.Machine.VBlocks (s : State) (i : Instr) (w : VArgs) (free ready : Prop) (act : Option (Core × Bool)) : Prop :=
  let q := s.ctl.curV
  let pass (c : Core) (b : Bool) : State := s.vPass 12 (c.setVs q { c.vs q with p := setPred (c.vs q).p w.msel b })
  (s.vGo w.g → free → s.vs.wait = none → ready → ∀ c b, act = some (c, b) → exec i s = .next (pass c b)) ∧
  (s.vGo w.g → free → s.vs.wait = none → ready → act = none → w.imm = 0 → exec i s = .next (pass s.core false)) ∧
  (s.vGo w.g → free → s.vs.wait = none → (ready → act = none ∧ w.imm ≠ 0) → exec i s = .next (s.putCore
    (s.core.setVs q { s.vs with wait := some ⟨i, s.ctl.cyc, some w.imm.toNat⟩ }))) ∧
  (guardHolds w.g s.vs.p = false → exec i s = .next (s.vPass 12 s.core))

/-- A vector sequencer's wheel positions (R26): L 1 and 5, S 2, C 6 of odd turns. -/
def Sys2Proof.Machine.inPosition (q : VSeq) (cyc : Nat) : Prop :=
  match q with
  | .l => cyc % 8 = 1 ∨ cyc % 8 = 5
  | .s => cyc % 8 = 2
  | .c => cyc % 8 = 6 ∧ cyc / 8 % 2 = 1

/-- R76: what the register writes that travel in a queue make of the core of the sequencer that reads it: `fcr` is that sequencer's, the
others are C's. -/
def Sys2Proof.Machine.adopted (q : VSeq) (c : Core) : List QItem → Core
  | [] => c
  | .fcr v :: r => adopted q (c.setVs q { c.vs q with fcr := v }) r
  | .srkey v :: r => adopted q { c with srkey := v } r
  | .sridxLo v :: r => adopted q { c with sridx := c.sridx.extractLsb' 64 32 ++ v } r
  | .sridxHi v :: r => adopted q { c with sridx := v ++ c.sridx.extractLsb' 0 64 } r
  | .entry _ _ _ :: r => adopted q c r

/-- R76, R226, R227, R353: QPUT appends k(A) when an entry is free, C's once C's matrix words and UPDs are complete; C's QGET and SEMWAIT
wait for its UPDs; QGET adopts the register writes that travel before the oldest entry, and removes that entry, if it was there before
this clock, into k(D); from an empty queue it waits, or reports false with a limit code of 0; SEMWAIT tests in a position and takes with `.take`; SEMADD adds in a position; an index
outside 0-4,095 raises SEM_RANGE. -/
def Obligations.QueuesAndSemaphoresOfLCS : Prop :=
  ∀ (s : State) (w : VArgs),
    let c := s.core
    let q := s.ctl.curV
    let n := w.fn.toNat
    let idx := s.k w.a
    let need : Nat := (s.k w.b).toNat % 2 ^ 32
    let addIdx := s.k w.a + w.imm.signExtend 64
    VBlocks s (.qputVw w) w (c.ownMatrixDone q = true) True (if ((vget c.q n []).filter QItem.isEntry).length < 16
      then some ({ c with q := vset c.q n (vget c.q n [] ++ [.entry (s.k w.a) s.ctl.cyc c.emit.written]) }, true) else none) ∧
    ((vget c.q n []).any QItem.isEntry = false → VBlocks s (.qgetVw w) w (c.emitting q = false) True none) ∧
    (∀ ws v t e rest, ws.any QItem.isEntry = false → vget c.q n [] = ws ++ .entry v t e :: rest →
      let c' := adopted q { c with q := vset c.q n rest } ws
      VBlocks s (.qgetVw w) w (c.emitting q = false) True
        (if t < s.ctl.cyc then some (c'.setVs q ((c'.vs q).setK w.d.toNat v), true) else none)) ∧
    VBlocks s (.semwaitVw w) w (c.emitting q = false ∧ idx.toNat < 4096) (inPosition q s.ctl.cyc) (if (need : Int) ≤ (c.sem idx.toNat).toInt
      then some (if w.fn.getLsbD 0 then c.setSem idx.toNat (c.sem idx.toNat - BitVec.ofNat 64 need) else c, true) else none) ∧
    (s.vGo w.g → c.ownMatrixDone q = true → addIdx.toNat < 4096 → inPosition q s.ctl.cyc → exec (.semaddVw w) s = .next (s.vPass 12
      (c.setSem addIdx.toNat (c.sem addIdx.toNat + s.k w.b)))) ∧
    (s.vGo w.g → c.ownMatrixDone q = true → addIdx.toNat < 4096 → ¬inPosition q s.ctl.cyc → exec (.semaddVw w) s = .next s) ∧
    (s.vGo w.g → c.ownMatrixDone q = true → 4096 ≤ addIdx.toNat → exec (.semaddVw w) s = .next (s.vTrap 0x42 addIdx 0)) ∧
    (s.vGo w.g → c.emitting q = false → 4096 ≤ idx.toNat → exec (.semwaitVw w) s = .next (s.vTrap 0x42 idx 0))

/-- A ring's control block that the checks of R221 pass. -/
def Sys2Proof.Machine.ringGood (b : Nat) : Prop := ringCheck b = none

/-- R220-R225: on a ring in good order, RWAITF waits for a filled slot and answers the offset of HEAD's, RWAITE for a free slot and
answers TAIL's; with STATE 1 and none they answer all ones and report false. RCLAIM of an open ring with a free slot takes TAIL's
slot, else answers all ones; RPUB publishes a claimed slot, RREL frees a filled one, and with none each raises RING_STATE. An index
of 1,024 or more raises RING_RANGE; a ring with STATE 2 raises RING_FAULTED with its ERR, and a block that breaks the layout rules or the
count bounds gets STATE 2 and ERR 1 or 2 and raises it. Each acts in one of its sequencer's positions and waits for it. -/
def Sys2Proof.Machine.RingWords : Prop :=
  ∀ (s : State) (w : VArgs),
    let c := s.core
    let q := s.ctl.curV
    let j := s.k w.a
    let b := c.ring j.toNat
    let setD (c : Core) (v : W64) : Core := c.setVs q ((c.vs q).setK w.d.toNat v)
    let slot (n : Nat) : W64 := BitVec.ofNat 64 (ringSlot b n)
    let counts : W64 := BitVec.ofNat 64 (ringHead b * 2 ^ 32 + ringTail b)
    let wait (i : Instr) (have1 : Prop) [Decidable have1] (n : Nat) : Prop :=
      VBlocks s i w (j.toNat < 1024 ∧ ringGood b) (inPosition q s.ctl.cyc)
        (if have1 then some (setD c (slot n), true) else if ringState b = 1 then some (setD c 0xFFFFFFFFFFFFFFFF, false) else none)
    let good : Prop := s.vGo w.g ∧ inPosition q s.ctl.cyc ∧ j.toNat < 1024 ∧ ringGood b
    wait (.rwaitf w) (1 ≤ ringFilled b) (ringHead b) ∧
    wait (.rwaite w) (1 ≤ ringFree b) (ringTail b) ∧
    (good → ringState b = 0 → 1 ≤ ringFree b → exec (.rclaim w) s = .next (s.vPass 12
      (setD (c.setRing j.toNat (putFld (putFld b 16 4 (ringTail b + 1)) 20 2 (ringClaim b + 1))) (slot (ringTail b))))) ∧
    (good → ringState b ≠ 0 ∨ ringFree b = 0 → exec (.rclaim w) s = .next (s.vPass 12 (setD c 0xFFFFFFFFFFFFFFFF))) ∧
    (good → ringClaim b ≠ 0 → exec (.rpub w) s = .next (s.vPass 12 (c.setRing j.toNat (putFld b 20 2 (ringClaim b - 1))))) ∧
    (good → ringClaim b = 0 → exec (.rpub w) s = .next (s.vTrap 0x44 j counts)) ∧
    (good → ringFilled b ≠ 0 → exec (.rrel w) s = .next (s.vPass 12 (c.setRing j.toNat (putFld b 12 4 (ringHead b + 1))))) ∧
    (good → ringFilled b = 0 → exec (.rrel w) s = .next (s.vTrap 0x44 j counts)) ∧
    (∀ i ∈ [Instr.rwaitf w, .rwaite w, .rclaim w, .rpub w, .rrel w], s.vGo w.g → inPosition q s.ctl.cyc →
      (1024 ≤ j.toNat → exec i s = .next (s.vTrap 0x43 j 0)) ∧
      (j.toNat < 1024 → ringState b = 2 → exec i s = .next (s.vTrap 0x41 j (BitVec.ofNat 64 (ringErr b)))) ∧
      (j.toNat < 1024 → ringState b ≠ 2 → ringLayoutOk b = false ∨ ringCountOk b = false →
        let err := if ringLayoutOk b then 2 else 1
        exec i s = .next ((s.putCore (c.setRing j.toNat (putFld (putFld b 9 1 2) 24 4 err))).vTrap 0x41 j (BitVec.ofNat 64 err)))) ∧
    (s.vGo w.g → ¬inPosition q s.ctl.cyc → exec (.rclaim w) s = .next s ∧ exec (.rpub w) s = .next s ∧ exec (.rrel w) s = .next s)

/-- R224: a RWAITE whose limit has passed, on a full ring whose extension may be linked, does not trap: it is kept for its extension.
RING_EXTENSION_LINK then links it in a position that is free: EXTAT takes TAIL, EXTENDED is set, and the wait goes on; with no wait kept it
changes nothing. That it links though a slot may have come free meanwhile, and that the wait then has a limit of its own, R224 does not
say: they are the model's reading (log entry 31). -/
def Sys2Proof.Machine.RingExtension : Prop :=
  ∀ (s : State) (n : Fin 320) (q : VSeq) (w : VArgs) (iss l t : Nat) (b : Bound),
    let c := s.mc.core n.val
    let j := (c.k q w.a).toNat
    let blk := c.ring j
    let c' := c.setRing j (if blk.testBit 81 then blk else putBits (putFld blk 28 4 (ringTail blk)) 81 1 1)
    s.ctl.occ.waiter = .seq n q.toSeq → (c.vs q).wait = some ⟨.rwaite w, iss, some l⟩ →
    ((c.vs q).ext = none → 1 ≤ l → c.task = some b → b.running = true → b.stop = none → b.vstop = false → j < 1024 → ringLinkable blk = true →
      (iss + 256 * l ≤ s.ctl.cyc → exec .waitTimeout s = .next (s.put (s.mc.setCore n.val (c.setVs q { c.vs q with ext := some s.ctl.cyc })))) ∧
      (s.ctl.cyc < iss + 256 * l → (q = .c → c.stepExpired s.ctl.cyc = none) → exec .waitTimeout s = .next s)) ∧
    ((c.vs q).ext = some t → s.ctl.cyc % 4 = 0 → c.pos.1 ≤ s.ctl.cyc → exec .ringExtensionLink s = .next (s.put (s.mc.setCore n.val
      { c'.setVs q { c'.vs q with ext := none, wait := some ⟨.rwaite w, s.ctl.cyc, some l⟩ } with pos := (s.ctl.cyc + 1, 0) }))) ∧
    (s.ctl.cyc % 4 ≠ 0 ∨ s.ctl.cyc < c.pos.1 → exec .ringExtensionLink s = .next s) ∧
    ((c.vs q).ext = none → exec .ringExtensionLink s = .next s)

/-- R220-R225: the ring words and the link of an extension, in one statement.
An event whose condition does not hold changes nothing (log entry 6); what a link does once a slot has come free, and the limit that the
wait then has, are log entry 31. -/
def Obligations.Rings : Prop := RingWords ∧ RingExtension

/-! ## C: lane words -/

/-- A word of L, C or S whose flags are `fl` and whose effect makes `c` of its core (R162, R201): an enabled flag traps with the
word's address and nothing else changes; otherwise the flags are raised, to be ORed into the sequencer's `fsr` as the clock ends; under
a false guard it is passed. -/
def Sys2Proof.Machine.FpWord (s : State) (i : Instr) (w : VArgs) (free : Prop) (fl : Flags) (c : Core) : Prop :=
  let q := s.ctl.curV
  let enabled := fl.setWidth 5 &&& s.vs.fcr.extractLsb' 5 5
  (s.vGo w.g → free → enabled = 0 →
    exec i s = .next (s.vPass 12 (c.setVs q { c.vs q with fsrNew := (c.vs q).fsrNew ||| fl.setWidth 64 }))) ∧
  (s.vGo w.g → free → enabled ≠ 0 →
    exec i s = .next (s.vTrap 0x20 (fl.setWidth 64 &&& 31) (s.vs.pc.setWidth 64))) ∧
  (guardHolds w.g s.vs.p = false → exec i s = .next (s.vPass 12 s.core))

/-- Such a word of C (R233, R236), which reads or writes `tiles`: while one of them awaits a MACCR it is not issued. -/
def Sys2Proof.Machine.CWord (s : State) (i : Instr) (w : VArgs) (tiles : List Reg4) (fl : Flags) (c : Core) : Prop :=
  FpWord s i w (s.core.maccrPending tiles = false) fl c ∧
  (s.vGo w.g → s.core.maccrPending tiles = true → exec i s = .next s)

/-- The tiles that a word which writes the lanes of v(D) reads (R234, R238-R240, R242, R244, R247-R251, R253). -/
def Sys2Proof.Machine.tileSources : Instr → List Reg4
  | .vfma w => [w.a, w.b, w.c]
  | .vclamp w => [w.a, w.b, w.c]
  | .vsgn w => if w.fn.toNat ≤ 1 then [w.a] else [w.a, w.b]
  | .vlogic w => if w.fn.toNat ≤ 3 then [w.a, w.b] else [w.a]
  | .vadd w => [w.a, w.b]
  | .vsub w => [w.a, w.b]
  | .vmul w => [w.a, w.b]
  | .vminmax w => [w.a, w.b]
  | .viadd w => [w.a, w.b]
  | .visub w => [w.a, w.b]
  | .vimul w => [w.a, w.b]
  | .vshift w => [w.a, w.b]
  | .viminmax w => [w.a, w.b]
  | .vsel w => [w.a, w.b]
  | .vperm w => [w.a, w.b]
  | .vbcr w => [w.a]
  | .vbcc w => [w.a]
  | .vrotr w => [w.a]
  | .vrotc w => [w.a]
  | .vcvt w => [w.a]
  | .vsf w => [w.a]
  | .vredr w => [w.a]
  | .vredc w => [w.a]
  | .vsegr w => [w.a]
  | .vscanr w => [w.a]
  | .vmov w => if w.fn = 0 then [w.a] else []
  | .vrng w => [w.b]
  | _ => []

/-- A word that writes the active lanes of v(D) and leaves its inactive lanes (R232, R236): `f` gives each lane's value and the flags it
raises; the word's flags are those of its active lanes. -/
def Sys2Proof.Machine.LaneWord (s : State) (i : Instr) (w : VArgs) (f : Nat → W32 × Flags) : Prop :=
  let on (n : Nat) : Prop := s.core.active w n = true
  ∃ (t : Tile) (fl : Flags),
    (∀ n < 1024, (on n → lane t n = (f n).1) ∧ (¬on n → lane t n = lane (s.core.tile w.d.toNat) n)) ∧
    (∀ j < 6, fl.getLsbD j = true ↔ ∃ n < 1024, on n ∧ (f n).2.getLsbD j = true) ∧
    CWord s i w (w.d :: tileSources i) fl (s.core.setTile w.d.toNat t)

/-- A strided operand's lane for lane n (R45, R235), its sign field apart. -/
def Sys2Proof.Machine.srcLane (c : Core) (r : Reg4) (sb : Byte) (n : Nat) : W32 :=
  lane (c.tile r.toNat) (64 * ((sb.toNat % 16 + n / 64 * (sb.toNat / 16 % 8)) % 16) + n % 64)

/-- An I32 operand (R235): the sign field negates it. -/
def Sys2Proof.Machine.intLane (c : Core) (r : Reg4) (sb : Byte) (n : Nat) : W32 :=
  if sb.getLsbD 7 then -srcLane c r sb n else srcLane c r sb n

/-- R240: what each integer and logic word makes of the operands, by FN. -/
def Sys2Proof.Machine.laneIntTable (w : VArgs) : List (Instr × (W32 → W32 → W32 × Flags)) :=
  let sat (z : Int) : W32 × Flags :=
    if 2147483647 < z then (0x7FFFFFFF, 0x20) else if z < -2147483648 then (0x80000000, 0x20) else (BitVec.ofInt 32 z, 0)
  let by4 (l : List W32) : W32 × Flags := ((l[min w.fn.toNat (l.length - 1)]?).getD 0, 0)
  [(.viadd w, fun a b => if w.fn = 1 then sat (a.toInt + b.toInt) else (a + b, 0)),
   (.visub w, fun a b => if w.fn = 1 then sat (a.toInt - b.toInt) else (a - b, 0)),
   (.vimul w, fun a b => by4 [a * b, BitVec.ofInt 32 (a.toInt * b.toInt / 2 ^ 32), BitVec.ofNat 32 (a.toNat * b.toNat / 2 ^ 32)]),
   (.vlogic w, fun a b => by4 [a &&& b, a ||| b, a ^^^ b, a &&& ~~~b, ~~~a]),
   (.vshift w, fun a b => by4 [a <<< (b.toNat % 32), a >>> (b.toNat % 32), a.sshiftRight (b.toNat % 32)]),
   (.viminmax w, fun a b => by4 [if a.toInt ≤ b.toInt then a else b, if b.toInt ≤ a.toInt then a else b,
      if a.toNat ≤ b.toNat then a else b, if b.toNat ≤ a.toNat then a else b])]

/-- R240: the integer and logic words act lane by lane on their I32 operands; the saturating forms alone raise a flag, IS, which
never traps. -/
def Obligations.LaneIntegers : Prop :=
  ∀ (s : State) (w : VArgs), ∀ p ∈ laneIntTable w,
    LaneWord s p.1 w fun n => p.2 (intLane s.core w.a w.sa n) (intLane s.core w.b w.sb n)

/-- R236, R238: each element of an active lane is the exact result rounded once in the captured mode, two elements to a lane for
the packed types; flags of both elements count. -/
def Obligations.LaneFloatArithmetic : Prop :=
  ∀ (s : State) (w : VArgs),
    let t := w.fmt.toNat
    let rm := fcrRm s.vs.fcr
    let fz := fcrFz s.vs.fcr
    let el (r : Reg4) (sb : Byte) (n h : Nat) : FVal :=
      (elemFmt t).daz (fcrDz s.vs.fcr) ((elemFmt t).decode (part t (s.core.opFp t r sb n) h))
    let word (i : Instr) (v : Nat → Nat → FVal × Flags) : Prop := LaneWord s i w fun n => perElem t fun h =>
      let r := (elemFmt t).round rm fz (v n h).1
      (r.1, r.2 ||| (v n h).2)
    word (.vadd w) (fun n h => (el w.a w.sa n h).add rm (el w.b w.sb n h)) ∧
    word (.vsub w) (fun n h => (el w.a w.sa n h).add rm (el w.b w.sb n h).neg) ∧
    word (.vmul w) (fun n h => (el w.a w.sa n h).mul (el w.b w.sb n h)) ∧
    word (.vfma w) (fun n h => FVal.fma rm (el w.a w.sa n h) (el w.b w.sb n h) (el w.c w.sc n h) false false)

/-- R239, R242, R248: minimum and maximum, sign operations, clamp, select, and the immediate and index words. -/
def Sys2Proof.Machine.LaneSelection : Prop :=
  ∀ (s : State) (w : VArgs),
    let c := s.core
    let t := w.fmt.toNat
    let sign : W32 := if t = 2 ∨ t = 3 then 0x80008000 else 0x80000000
    let bits (x : W32) (h : Nat) : Nat := (elemFmt t).dazBits (fcrDz s.vs.fcr) (part t x h)
    let a (n : Nat) : W32 := c.opFp t w.a w.sa n
    let b (n : Nat) : W32 := c.opFp t w.b w.sb n
    let x (n : Nat) : W32 := c.opFp t w.c w.sc n
    let ia (n : Nat) : Int := (intLane c w.a w.sa n).toInt
    let ib (n : Nat) : Int := (intLane c w.b w.sb n).toInt
    let ic (n : Nat) : Int := (intLane c w.c w.sc n).toInt
    LaneWord s (.vminmax w) w (fun n => perElem t fun h => fminmax (elemFmt t) (w.fn = 1) (bits (a n) h) (bits (b n) h)) ∧
    LaneWord s (.vsgn w) w (fun n => (if w.fn = 0 then a n &&& ~~~sign else if w.fn = 1 then a n ^^^ sign
      else (a n &&& ~~~sign) ||| (b n &&& sign), 0)) ∧
    (t = 1 → LaneWord s (.vclamp w) w fun n => (BitVec.ofInt 32 (min (max (ia n) (ib n)) (ic n)), 0)) ∧
    (t ≠ 1 → LaneWord s (.vclamp w) w fun n => perElem t fun h =>
      let lo := fminmax (elemFmt t) true (bits (a n) h) (bits (b n) h)
      let hi := fminmax (elemFmt t) false lo.1 (bits (x n) h)
      (hi.1, lo.2 ||| hi.2)) ∧
    (t ≠ 1 → LaneWord s (.vsel w) w fun n => (if (c.getM (w.c.toNat % 8)).getLsbD n then a n else b n, 0)) ∧
    (t = 1 → LaneWord s (.vsel w) w fun n =>
      (if (c.getM (w.c.toNat % 8)).getLsbD n then intLane c w.a w.sa n else intLane c w.b w.sb n, 0)) ∧
    LaneWord s (.vli w) w fun n => (if w.fn = 1 then w.imm + BitVec.ofNat 32 n else w.imm, 0)

/-- R248: the movement words take each lane of v(D) from the lane they name, bits unchanged: row IMM, column IMM, the row or
the column IMM further round, or the one B's lane names. -/
def Sys2Proof.Machine.LaneMovement : Prop :=
  ∀ (s : State) (w : VArgs),
    let c := s.core
    let i := w.imm.toNat
    let b (n : Nat) : Nat := (srcLane c w.b w.sb n).toNat
    let move (j : Instr) (from1 : Nat → Nat → Nat × Nat) : Prop :=
      LaneWord s j w fun n => let f := from1 (n / 64) (n % 64)
        (srcLane c w.a w.sa (64 * f.1 + f.2), 0)
    (i < 16 → move (.vbcr w) fun _ col => (i, col)) ∧
    (i < 64 → move (.vbcc w) fun row _ => (row, i)) ∧
    move (.vrotr w) (fun row col => ((row + i) % 16, col)) ∧
    move (.vrotc w) (fun row col => (row, (col + i) % 64)) ∧
    (w.fn = 0 → move (.vperm w) fun row col => (row, b (64 * row + col) % 64)) ∧
    (w.fn ≠ 0 → move (.vperm w) fun row col => (b (64 * row + col) % 16, col))

/-- R239, R242, R248: the lane words that select and move, in one statement. -/
def Obligations.LaneSelectionAndMovement : Prop := LaneSelection ∧ LaneMovement

/-- R232, R241, R243, R248: words that write masks and predicates. A comparison writes its result to the active bits of m(D) and the
complement to m(C); moves copy mask bits, or test and build lanes; VPM reports any, all or none of a mask. m7 keeps its ones. -/
def Obligations.MasksOfC : Prop :=
  ∀ (s : State) (w : VArgs),
    let c := s.core
    let q := s.ctl.curV
    let t := w.fmt.toNat
    let k := Fp.ofFcr s.vs.fcr
    let cmp (n : Nat) : Bool × Flags := cmpLane k t w.fn.toNat (c.opOf t w.a w.sa n) (c.opOf t w.b w.sb n)
    let on (n : Nat) : Bool := c.active w n
    let d := w.d.toNat % 8
    let e := w.c.toNat % 8
    let becomes (m old : Mask) (f : Nat → Bool) : Prop := ∀ n < 1024, m.getLsbD n = if on n then f n else old.getLsbD n
    let m := if w.ms then ~~~c.getM w.msel.toNat else c.getM w.msel.toNat
    let report : Bool := if w.fn = 0 then m ≠ 0 else if w.fn = 1 then m = BitVec.allOnes 1024 else m = 0
    (∃ (x y : Mask) (fl : Flags), becomes x (c.getM d) (fun n => (cmp n).1) ∧ becomes y (c.getM e) (fun n => !(cmp n).1) ∧
      (∀ j < 6, fl.getLsbD j = true ↔ ∃ n < 1024, on n = true ∧ (cmp n).2.getLsbD j = true) ∧
      CWord s (.vcmp w) w [w.a, w.b] fl ((c.setM d x).setM e y)) ∧
    (t = 1 → ∀ n, (cmp n).2 = 0 ∧ (w.fn = 0 → (cmp n).1 = decide (c.opOf t w.a w.sa n = c.opOf t w.b w.sb n)) ∧
      (w.fn = 1 → (cmp n).1 = decide ((c.opOf t w.a w.sa n).toInt < (c.opOf t w.b w.sb n).toInt))) ∧
    (w.fn = 0 → LaneWord s (.vmov w) w fun n => (srcLane c w.a w.sa n, 0)) ∧
    (w.fn = 1 → ∃ x, becomes x (c.getM d) (fun n => (c.getM (w.a.toNat % 8)).getLsbD n) ∧ CWord s (.vmov w) w [] 0 (c.setM d x)) ∧
    (w.fn = 2 → ∃ x, becomes x (c.getM d) (fun n => srcLane c w.a w.sa n ≠ 0) ∧ CWord s (.vmov w) w [w.a] 0 (c.setM d x)) ∧
    (w.fn = 3 → LaneWord s (.vmov w) w fun n => (if (c.getM (w.a.toNat % 8)).getLsbD n then 1 else 0, 0)) ∧
    VWord s (.vpm w) w.g 12 (c.setVs q { s.vs with p := setPred s.vs.p (w.d.extractLsb' 0 3) report }) ∧
    (c.getM 7 = BitVec.allOnes 1024 ∧ ∀ x, c.setM 7 x = c)

/-- R244-R247, R252, R253: conversion, special functions and random numbers lane by lane, and quantisation row by row: the codes of
a row's line in v(D), its scale bytes in v(D+1), each active lane with the flags of the codes and scales that have a bit in it.
What the special functions compute inside their bounds is the model's (log entry 13), as are the flags of a code that two lanes share
(log entry 22) and the captured mode of conversions to formats 4-10 (log entry 34). -/
def Obligations.LaneConversion : Prop :=
  ∀ (s : State) (w : VArgs),
    let c := s.core
    let k := Fp.ofFcr s.vs.fcr
    let t := w.fmt.toNat
    let dest := w.fn.toNat
    let a (n : Nat) : W32 := c.opFp t w.a w.sa n
    let rnd (n : Nat) : W32 × W32 := zcg c.srkey w.imm (c.sridx + BitVec.ofNat 96 n)
    let u (n h : Nat) : Option W32 := if w.c.getLsbD 0 then some (if h = 0 then (rnd n).1 else (rnd n).2) else none
    let v (n h : Nat) : FVal := if t = 1 then FVal.ofInt (a n).toInt
      else (elemFmt t).daz (k.dz && !(4 ≤ dest && dest ≤ 10)) ((elemFmt t).decode (part t (a n) h))
    let el (n h : Nat) : Nat × Flags := convElem k dest (u n h) (v n h)
    let codes (n : Nat) : W32 × Flags := packedLane (fmtBits w.fn.toNat) (c.quantRow w k.rm (n / 64)).1 (n % 64)
    let scales (n : Nat) : W32 × Flags := packedLane 8 (c.quantRow w k.rm (n / 64)).2 (n % 64)
    (t ≠ 2 → t ≠ 3 → LaneWord s (.vcvt w) w fun n => (BitVec.ofNat 32 (el n 0).1, (el n 0).2)) ∧
    (t = 2 ∨ t = 3 → LaneWord s (.vcvt w) w fun n =>
      (BitVec.ofNat 32 ((el n 0).1 + (el n 1).1 * 2 ^ cvtBits dest), (el n 0).2 ||| (el n 1).2)) ∧
    LaneWord s (.vsf w) w (fun n => perElem t fun h => vsfElem (elemFmt t) k w.fn.toNat (part t (a n) h)) ∧
    LaneWord s (.vrng w) w (fun n =>
      let z := (zcg (s.vs.getK (w.a.toNat % 8)) w.imm (s.vs.getK (w.c.toNat % 8) ++ srcLane c w.b w.sb n)).1
      let unit (x : Nat) : W32 := (toF32 .rne (.fin false x (-24))).1
      (if w.fn = 0 then z else if w.fn = 1 then unit (z.toNat / 256) else unit (z.toNat / 256 + 1), 0)) ∧
    (w.d.toNat < 15 → ∃ (x y : Tile) (fl : Flags),
      (∀ n < 1024, c.active w n = true →
        lane x n = (codes n).1 ∧ lane y n = (scales n).1) ∧
      (∀ n < 1024, c.active w n = false → lane x n = lane (c.tile w.d.toNat) n ∧ lane y n = lane (c.tile (w.d.toNat + 1)) n) ∧
      (∀ j < 6, fl.getLsbD j = true ↔ ∃ n < 1024, c.active w n = true ∧
        ((codes n).2.getLsbD j = true ∨ (scales n).2.getLsbD j = true)) ∧
      CWord s (.vqnt w) w [w.d, w.d + 1, w.a] fl ((c.setTile w.d.toNat x).setTile (w.d.toNat + 1) y))

/-- The lanes of a set that are active, in the order given, as element type t reads them (R249). -/
def Sys2Proof.Machine.reduced (s : State) (w : VArgs) (l : List Nat) : List W32 :=
  (l.filter (s.core.active w)).map (s.core.opOf w.fmt.toNat w.a w.sa)

/-- R249: the combination that FN names of a set of I32 lanes, over integers. -/
def Sys2Proof.Machine.intCombined (fn : Nat) (l : List W32) : W32 :=
  match fn with
  | 0 => BitVec.ofInt 32 (l.map BitVec.toInt).sum
  | 1 => BitVec.ofInt 32 (l.foldl (fun a x => min a x.toInt) 2147483647)
  | 2 => BitVec.ofInt 32 (l.foldl (fun a x => max a x.toInt) (-2147483648))
  | 3 => l.foldl (· &&& ·) 0xFFFFFFFF
  | 4 => l.foldl (· ||| ·) 0
  | _ => l.foldl (· ^^^ ·) 0

/-- R249-R251: a reduction combines the active lanes of a lane's column, row, segment or rows so far, exactly, rounded once; for I32
the sum is modulo 2^32; the first row of an exclusive scan gets the sum of nothing.
A NaN among ADD's operands is read as in log entry 24. -/
def Obligations.LaneReductions : Prop :=
  ∀ (s : State) (w : VArgs),
    let t := w.fmt.toNat
    let fn := w.fn.toNat
    let k := Fp.ofFcr s.vs.fcr
    let col (n : Nat) : List Nat := (List.range 16).map fun r => 64 * r + n % 64
    let row (n : Nat) : List Nat := (List.range 64).map fun j => 64 * (n / 64) + j
    let edge (n : Nat) : Bool := (s.core.getM (w.c.toNat % 8)).getLsbD n
    let seg (n : Nat) : List Nat := (List.range (n + 1)).filter fun m =>
      (List.range (n + 1)).all fun x => decide (x ≤ m) || !edge x
    let above (n : Nat) : List Nat := (col n).filter fun m => if fn = 1 then decide (m < n) else decide (m ≤ n)
    let scanFn := if fn = 2 then 1 else if fn = 3 then 2 else 0
    let word (i : Instr) (f : Nat) (set : Nat → List Nat) : Prop :=
      (t = 1 → LaneWord s i w fun n => (intCombined f (reduced s w (set n)), 0)) ∧
      (t ≠ 1 → LaneWord s i w fun n => redFp k t (if f = 0 then .add else if f = 1 then .min else .max) (reduced s w (set n)))
    (fn ≤ 5 → (t = 1 ∨ fn ≤ 2) → word (.vredr w) fn col ∧ word (.vredc w) fn row) ∧
    (fn ≤ 2 → word (.vsegr w) fn seg) ∧
    (fn ≤ 3 → word (.vscanr w) scanFn above)

/-! ## C: update triples -/

/-- R233, R351-R354: UPD checks its active lanes in ascending order and traps with the first that names no U segment or whose type does
not fit; it waits, without a limit, for room for all its entries, and then appends them in lane order; C's positions write their
bytes, 256 entries in each, and until they are written neither word issues. UPDF waits until its port has nothing unaccepted, and
changes nothing. -/
def Obligations.UpdateWords : Prop :=
  ∀ (s : State) (w : VArgs) (p : Fin 4),
    let c := s.core
    let q := s.ctl.curV
    let lanes := (List.range 1024).filter (c.active w)
    let per := if w.fmt = 4 then 2 else 1
    let free : Prop := s.vGo w.g ∧ c.emit.todo = []
    let go : Prop := free ∧ c.maccrPending (if w.fmt = 4 then [w.a, w.b, w.b + 1, w.c] else [w.a, w.b, w.c]) = false
    let waits (i : Instr) : State := s.putCore (c.setVs q { s.vs with wait := some (s.vs.wait.getD ⟨i, s.ctl.cyc, none⟩) })
    let out := lanes.foldl (fun c n => c.emitLane q w n) c
    (∀ n i0 i1, go → c.updTrap q w = some (n, i0, i1) → exec (.upd w) s = .next (s.vTrap n i0 i1)) ∧
    (go → c.updTrap q w = none → c.emit.count + lanes.length * per ≤ 2048 →
      exec (.upd w) s = .next (s.vPass 12 out) ∧ out.emit.count = c.emit.count + lanes.length * per ∧
      out.emit.written = c.emit.written + lanes.length * per) ∧
    (go → c.updTrap q w = none → 2048 < c.emit.count + lanes.length * per → exec (.upd w) s = .next (waits (.upd w))) ∧
    (s.vGo w.g → c.emit.todo ≠ [] → exec (.upd w) s = .next s ∧ exec (.updf w) s = .next s) ∧
    (w.d.toNat % 4 = p.val → free →
      (c.emit.ports[p.val] = 0 → exec (.updf w) s = .next (s.vPass 12 c)) ∧
      (c.emit.ports[p.val] ≠ 0 → exec (.updf w) s = .next (waits (.updf w)))) ∧
    (guardHolds w.g s.vs.p = false → exec (.upd w) s = .next (s.vPass 12 c) ∧ exec (.updf w) s = .next (s.vPass 12 c)) ∧
    c.serveEmit = { c with
      sp := (c.emit.todo.take 256).foldl (fun sp e => sp.wr e.1 16 e.2) c.sp, emit := { c.emit with todo := c.emit.todo.drop 256 } }

/-! ## L and S: streams and fibres -/

/-- A stream just opened from a record at an offset: position 0, not at its end (R203, R208). -/
def Sys2Proof.Machine.opened (r : Shape) (offset : Nat) (obj : Option ObjBind) : Stream :=
  ⟨r, offset, obj, [0, 0, 0, 0, 0, 0], false, 0, 0, 0⟩

/-- R27, R205: a load under a true guard that its checks let pass. `need` are the 64-byte units that it reads, as far as what it has
read of them tells, in element order; in one of its positions it reads of every bank the first that is left. Once none is left,
`done` says what the word does with the scratchpad as it has read it; until then its sequencer holds what it has read. -/
def Sys2Proof.Machine.LoadWord (s : State) (i : Instr) (q : VSeq) (position : Prop) (need : Core → List Nat) (done : Core → Prop) : Prop :=
  let c := s.core
  let seen (l : List (Nat × List Byte)) : Core := { c with sp := l.foldl (fun sp u => sp.put (64 * u.1) u.2) c.sp }
  let got := ((c.vs q).acc.map (·.got)).getD []
  let left (l : List (Nat × List Byte)) : List Nat := (need (seen l)).filter fun u => !l.any fun x => x.1 == u
  let more := got ++ (wheelServes (left got)).map fun u => (u, c.sp.bytes (64 * u) 64)
  let now : Prop := position ∧ c.pos.1 ≤ s.ctl.cyc
  (left got = [] → done (seen got)) ∧
  (left got ≠ [] → now → left more = [] → done { seen more with pos := (s.ctl.cyc + 1, 0) }) ∧
  (left got ≠ [] → now → left more ≠ [] → exec i s = .next (s.putCore (({ c with pos := (s.ctl.cyc + 1, 0) } : Core).setVs q
    { c.vs q with acc := some ⟨i, more⟩, wait := none, ready := s.ctl.cyc + 1 }))) ∧
  (left got ≠ [] → ¬now → exec i s = .next (s.putCore (c.setVs q { c.vs q with acc := some ⟨i, got⟩, wait := none })))

/-- Such a load of the sequencer that the step acts for, in its own positions. -/
def Sys2Proof.Machine.OwnLoad (s : State) (i : Instr) (need : Core → List Nat) (done : Core → Prop) : Prop :=
  LoadWord s i s.ctl.curV (inPosition s.ctl.curV s.ctl.cyc) need done

/-- R27, R95, R96, R208: GOPEN opens the record at k(A) + IMM, read in its sequencer's positions unless the record cache holds it, and puts
it first in the cache; GOPEN.X opens an object of the object table with its bounds and rights. A record that fails its checks, an
offset that is not aligned or too high, an index not in the table: each traps. GCLOSE and SHFENCE close a register and empty the
cache. -/
def Obligations.StreamsOpenAndClose : Prop :=
  ∀ (s : State) (w : VArgs),
    let c := s.core
    let q := s.ctl.curV
    let d := w.d.toNat
    let o := s.k w.a + w.imm.signExtend 64
    let aligned : Prop := o.toNat % 8 = 0 ∧ o.toNat + 192 ≤ 0x3E0000
    let held := c.cache.find? (fun e => e.offset = o.toNat)
    let rec1 (v : Core) : Shape := match held with
      | some e => e.recd
      | none => v.record o.toNat
    let i := w.imm.toNat % 65536
    let at0 := c.otbase.toNat + 256 * i
    let rights (v : Core) : Byte := v.sp.get (at0 + 208)
    let obj (v : Core) : ObjBind := ⟨i, v.sp.rd (at0 + 192) 8, v.sp.rd (at0 + 200) 8, (rights v).getLsbD 0, (rights v).getLsbD 1⟩
    (s.vGo w.g → aligned → OwnLoad s (.gopen w) (fun _ => if held.isSome then [] else unitsOf o.toNat 192) fun v =>
      ((rec1 v).openFault o = none → exec (.gopen w) s = .next (s.vPass 12 (({ v with
        sp := c.sp
        cache := (⟨o.toNat, rec1 v⟩ :: c.cache.filter fun e => e.offset ≠ o.toNat).take 16 } : Core).setStream q d
          (some (opened (rec1 v) o.toNat none))))) ∧
      ∀ code at1, (rec1 v).openFault o = some (code, at1) → exec (.gopen w) s = .next (s.vTrap code at1 0)) ∧
    (s.vGo w.g → ¬aligned → exec (.gopen w) s = .next (s.vTrap 0x12 o 0)) ∧
    (s.vGo w.g → i < c.otlen.toNat → OwnLoad s (.gopenX w) (fun _ => unitsOf at0 209) fun v =>
      ((rights v).getLsbD 7 = true → (v.record at0).openFault (BitVec.ofNat 64 i) = none →
        exec (.gopenX w) s = .next (s.vPass 12 (({ v with sp := c.sp } : Core).setStream q d
          (some (opened (v.record at0) at0 (some (obj v))))))) ∧
      (∀ code at1, (rights v).getLsbD 7 = true → (v.record at0).openFault (BitVec.ofNat 64 i) = some (code, at1) →
        exec (.gopenX w) s = .next (s.vTrap code at1 0)) ∧
      ((rights v).getLsbD 7 = false → exec (.gopenX w) s = .next (s.vTrap 0x81 (BitVec.ofNat 64 i) 0))) ∧
    (s.vGo w.g → c.otlen.toNat ≤ i → exec (.gopenX w) s = .next (s.vTrap 0x81 (BitVec.ofNat 64 i) 0)) ∧
    VWord s (.gclose w) w.g 12 (c.setStream q d none) ∧
    VWord s (.shfence w) w.g 12 { c with cache := [] } ∧
    (guardHolds w.g s.vs.p = false → exec (.gopen w) s = .next (s.vPass 12 c) ∧ exec (.gopenX w) s = .next (s.vPass 12 c))

/-- R27, R204-R206, R209, R210, R327: a load of an open stream whose checks pass, read in its sequencer's positions. GLD writes every lane
of v(D) from the stream's next unit and moves the stream on by it; to an operand buffer it fills the buffer and sets FULL, and
waits, under the limit 255, while the buffer is FULL. A failing check traps, and a register that is not open raises STREAM_CLOSED.
How a buffer keeps its bytes, and the scale of a group that straddles two, is the model's (log entry 25), as is the use of several positions
by one load, of every bank the first unit left (log entry 36). -/
def Obligations.StreamLoads : Prop :=
  ∀ (s : State) (w : VArgs) (t : Stream),
    let c := s.core
    let q := s.ctl.curV
    let a := w.a.toNat
    let d := w.d.toNat
    let unit := if t.recd.fmt = 2 ∨ t.recd.fmt = 3 then 128 else 64
    let bad := t.fault a unit 16 (t.recd.layout == 0 && !t.recd.isRagged && !t.recd.zplane) false
    let lane1 (v : Core) (n : Nat) : W32 × Flags := t.laneAt v.sp (fcrRm s.vs.fcr) (n % 64) (n / 64)
    let badB := t.fault a 96 64 (t.recd.layout == 1) false
    let filled (v : Core) (b : OpBuf) : OpBuf := b.fill (t.blockBytes v.sp) (t.blockScales v.sp) t.recd.fmt
    let past (c : Core) : State := s.vPass 12 (c.setStream q a (some (t.advance 96 64)))
    let waits (i : Instr) : State := s.putCore (c.setVs q { s.vs with wait := some (s.vs.wait.getD ⟨i, s.ctl.cyc, some 255⟩) })
    let fresh : Prop := ∀ x, s.vs.wait = some x → x.expired s.ctl.cyc = false
    let oa := vget c.oa d OpBuf.init
    let ob := vget c.ob d OpBuf.init
    let block (_ : Core) : List Nat := t.accessUnits 96 64
    (s.vGo w.g → c.stream q a = some t → bad = none → OwnLoad s (.gld w) (fun _ => t.accessUnits unit 16) fun v =>
      ∃ (x : Tile) (fl : Flags), (∀ n < 1024, lane x n = (lane1 v n).1) ∧
        (∀ j < 6, fl.getLsbD j = true ↔ ∃ n < 1024, (lane1 v n).2.getLsbD j = true) ∧
        FpWord s (.gld w) w True fl ((({ v with sp := c.sp } : Core).setTile d x).setStream q a (some (t.advance unit 16)))) ∧
    (∀ code i0 i1, s.vGo w.g → c.stream q a = some t → bad = some (code, i0, i1) →
      exec (.gld w) s = .next (s.vTrap code i0 i1)) ∧
    (s.vGo w.g → c.stream q a = some t → badB = none → fresh →
      (oa.full = false → OwnLoad s (.gldOa w) block fun v =>
        exec (.gldOa w) s = .next (past { v with sp := c.sp, oa := vset c.oa d (filled v oa) })) ∧
      (ob.full = false → OwnLoad s (.gldOb w) block fun v =>
        exec (.gldOb w) s = .next (past { v with sp := c.sp, ob := vset c.ob d (filled v ob) }))) ∧
    (filled c oa).full = true ∧
    (∀ code i0 i1, s.vGo w.g → c.stream q a = some t → badB = some (code, i0, i1) → fresh →
      (oa.full = false → exec (.gldOa w) s = .next (s.vTrap code i0 i1)) ∧
      (ob.full = false → exec (.gldOb w) s = .next (s.vTrap code i0 i1))) ∧
    (s.vGo w.g → c.stream q a = none → fresh →
      (oa.full = false → exec (.gldOa w) s = .next (s.vTrap 0x13 (BitVec.ofNat 64 a) 0)) ∧
      (ob.full = false → exec (.gldOb w) s = .next (s.vTrap 0x13 (BitVec.ofNat 64 a) 0))) ∧
    (s.vGo w.g → (oa.full = true → exec (.gldOa w) s = .next (waits (.gldOa w))) ∧
      (ob.full = true → exec (.gldOb w) s = .next (waits (.gldOb w)))) ∧
    (∀ i ∈ [Instr.gld w, .gldm w, .gldr w], s.vGo w.g → c.stream q a = none →
      exec i s = .next (s.vTrap 0x13 (BitVec.ofNat 64 a) 0)) ∧
    (∀ i ∈ [Instr.gst w, .gstAccumulator w, .gstz w, .gadv w], s.vGo w.g → c.stream q d = none →
      exec i s = .next (s.vTrap 0x13 (BitVec.ofNat 64 d) 0)) ∧
    ∀ i ∈ [Instr.gld w, .gldOa w, .gldOb w, .gldm w, .gldr w], guardHolds w.g s.vs.p = false → exec i s = .next (s.vPass 12 c)

/-- R27, R89, R204, R211, R214: GLDM expands 16 rows of zero-plane blocks, absent elements zero, FILL under the pad's scale past the
last; GLDR takes 1,024 elements of consecutive lines, skipping lines without one, and marks the lanes that begin a line. Each reads in
its sequencer's positions and moves its stream on by what it read. The use of several positions by one load is the model's (log entry
36), and that a padded element's band scale is 1.0, 0x3F80 (log entry 21). -/
def Obligations.PackedAndRaggedLoads : Prop :=
  ∀ (s : State) (w : VArgs) (t : Stream),
    let c := s.core
    let q := s.ctl.curV
    let r := t.recd
    let rm := fcrRm s.vs.fcr
    let unit := 16 * r.tileW
    let el (es : List Nat) (i : Nat) : Nat := if t.elt + i < r.count then (es[i]?).getD 0 else r.fill.toNat
    let zlane (v : Core) (es : List Nat) (n : Nat) : W32 × Flags :=
      if r.fmt = 2 ∨ r.fmt = 3 then (BitVec.ofNat 32 (el es (2 * n) + 2 ^ 16 * el es (2 * n + 1)), 0)
      else if t.elt + n < r.count then
        laneOf r.fmt rm (el es n) (t.scale v.sp (r.indices (t.elt + n))) (t.band v.sp (r.indices (t.elt + n)))
      else laneOf r.fmt rm (el es n) r.padScale 0x3F80
    let rag (v : Core) := t.ragLanes v.sp 1024 t.line t.elt
    let ix (l e : Nat) : List Nat := r.indices (l * r.bound 0 + e)
    let rlane (v : Core) (n : Nat) : W32 × Flags := match (rag v).1[n]? with
      | some (.elem l e) => laneOf r.fmt rm (t.raw v.sp (ix l e)) (t.scale v.sp (ix l e)) (t.band v.sp (ix l e))
      | _ => laneOf r.fmt rm r.fill.toNat r.padScale 0x3F80
    let begins (v : Core) (n : Nat) : Prop := ∃ l, (rag v).1[n]? = some (.elem l 0)
    let good (v : Core) : Prop := ∀ x ∈ (rag v).1, (∀ l, x ≠ .tooLong l) ∧ ∀ l e, x = .elem l e → t.elemOk (ix l e) = true
    s.vGo w.g → c.stream q w.a.toNat = some t → t.ended = false → t.rightsBad false = none →
    (r.zplane = true → OwnLoad s (.gldm w) (fun v => (t.zpUnits v.sp (unit / 64) t.zpos t.elt).eraseDups) fun v => ∀ es p,
      t.readZp v.sp (unit / 64) t.zpos t.elt = .ok es p → (r.count < t.elt + unit → r.pad = true) →
      ∃ (x : Tile) (fl : Flags), (∀ n < 1024, lane x n = (zlane v es n).1) ∧
        (∀ j < 6, fl.getLsbD j = true ↔ ∃ n < 1024, (zlane v es n).2.getLsbD j = true) ∧
        FpWord s (.gldm w) w True fl ((({ v with sp := c.sp } : Core).setTile w.d.toNat x).setStream q w.a.toNat (some { t with
          elt := min (t.elt + unit) r.count, zpos := p, ended := decide (r.count ≤ t.elt + unit) }))) ∧
    (r.isRagged = true → OwnLoad s (.gldr w) (fun v => t.ragUnits v.sp) fun v => good v →
      ∃ (x : Tile) (m : Mask) (fl : Flags), (∀ n < 1024, lane x n = (rlane v n).1) ∧
        (∀ n < 1024, m.getLsbD n = true ↔ begins v n) ∧ (∀ j < 6, fl.getLsbD j = true ↔ ∃ n < 1024, (rlane v n).2.getLsbD j = true) ∧
        FpWord s (.gldr w) w True fl (((({ v with sp := c.sp } : Core).setTile w.d.toNat x).setM w.c.toNat m).setStream q w.a.toNat
          (some { t with line := (rag v).2.1, elt := (rag v).2.2, ended := decide (r.lines ≤ (rag v).2.1) })))

/-- R27, R103, R149, R206, R212, R213: GST reads the elements of its unit that lie inside the bounds, each converted to the stored format,
from a tile or an accumulator, and moves the stream on; GSTZ lays out zero-plane blocks from its position on; what they write goes to
the scratchpad in S's positions, and the flags are raised when the last of it is written; an enabled flag traps at issue. GADV moves a
stream along one dimension and GEND reports its end, true for a register that is not open. -/
def Sys2Proof.Machine.StreamStores : Prop :=
  ∀ (s : State) (w : VArgs) (t : Stream),
    let c := s.core
    let q := s.ctl.curV
    let d := w.d.toNat
    let r := t.recd
    let rm := fcrRm s.vs.fcr
    let kind := r.layout == 0 && !r.isRagged && !r.zplane && decide (r.fmt ≤ 10)
    let issues (i : Instr) (fl : Flags) (ws : List BitWrite) (u : Stream) : Prop :=
      let c' := c.setStream q d (some u)
      let enabled := fl.setWidth 5 &&& s.vs.fcr.extractLsb' 5 5
      (s.vGo w.g → enabled = 0 →
        exec i s = .next (s.vPass 12 { c' with s := { c'.s with store := some ⟨storeChunks ws.length ws, fl⟩ } })) ∧
      (s.vGo w.g → enabled ≠ 0 → exec i s = .next (s.vTrap 0x20 (fl.setWidth 64 &&& 31) (s.vs.pc.setWidth 64))) ∧
      (guardHolds w.g s.vs.p = false → exec i s = .next (s.vPass 12 c))
    let store (i : Instr) (wd rows : Nat) (el : Nat → Nat → Nat × Flags) : Prop :=
      t.fault d wd rows kind true = none →
        let ps := t.positions wd rows
        ∃ fl : Flags, (∀ j < 6, fl.getLsbD j = true ↔ ∃ p ∈ ps, (el p.2.1 p.2.2).2.getLsbD j = true) ∧
          issues i fl (ps.map fun p => t.put p.1 (el p.2.1 p.2.2).1).flatten (t.advance wd rows)
    let n := min (16 * r.tileW) (r.count - t.elt)
    let es := (List.range n).map fun i => tileElem r.fmt rm (c.tile w.a.toNat) (i % r.tileW) (i / r.tileW)
    let block (b : Nat) : Nat × Nat := zpBlock r.width (((es.drop (64 * b)).take 64).map (·.1))
    let start (b : Nat) : Nat := t.zpos + ((List.range b).map fun x => (block x).1).sum
    let blocks := (n + 63) / 64
    let lay := t.layZp (groupsOf 64 (es.map (·.1))) t.zpos t.elt
    (c.stream q d = some t →
      store (.gst w) r.tileW 16 (fun j y => tileElem r.fmt rm (c.tile w.a.toNat) j y) ∧
      store (.gstAccumulator w) 64 64 (fun j y => storeLane r.fmt rm (vget (c.accum w.a.toNat) (64 * y + j) 0)) ∧
      (r.zplane = true → r.fmt ≤ 10 → t.ended = false → (r.count < t.elt + 16 * r.tileW → r.pad = true) →
        lay.2.2 = none → t.rightsBad true = none →
        ∃ fl : Flags, (∀ j < 6, fl.getLsbD j = true ↔ ∃ e ∈ es, e.2.getLsbD j = true) ∧
          issues (.gstz w) fl (lay.1.map fun b => bitWrites b.1.toNat b.2.1 0 (8 * b.2.1) b.2.2).flatten
            { t with elt := t.elt + n, zpos := lay.2.1, ended := decide (r.count ≤ t.elt + n) }) ∧
      lay.1 = (List.range blocks).map (fun b => (offOf r.base + start b, block b)) ∧ lay.2.1 = start blocks ∧
      (s.vGo w.g → r.zplane = false → r.isRagged = false → exec (.gadv w) s = .next (s.vPass 12 (if t.ended then c
        else c.setStream q d (some (({ t with cur := addAt t.cur w.fn.toNat w.imm.toNat } : Stream).advance 0 0))))) ∧
      (s.vGo w.g → r.zplane = true ∨ r.isRagged = true → exec (.gadv w) s = .next (s.vTrap 0x12 t.shapeAt 0))) ∧
    (s.vGo w.g → c.stream q d = none → exec (.gadv w) s = .next (s.vTrap 0x13 (BitVec.ofNat 64 d) 0)) ∧
    ∀ x, c.stream q w.a.toNat = x → VWord s (.gend w) w.g 12 (c.setVs q { s.vs with
      p := setPred s.vs.p (w.d.extractLsb' 0 3) ((x.map Stream.ended).getD true) })

/-- R27, R205: the positions that serve a store write all that its elements write in their order: each takes of every bank the first
unit that is left, and the writes of one unit keep their order. A position writes the next of them; with the last, the flags are
raised. Every write of an element lies within its bytes, and within one unit; together they set its bits and leave the others. -/
def Sys2Proof.Machine.StorePositions : Prop :=
  (∀ (sp : Cells) (ws : List BitWrite), sp.wf = true → (∀ x ∈ ws, 1 ≤ x.len ∧ x.addr % 64 + x.len ≤ 64) →
    (storeChunks ws.length ws).foldl applyChunk sp = ws.foldl BitWrite.apply sp) ∧
  (∀ (c : Core) (x : List BitWrite) (xs : List (List BitWrite)) (fl : BitVec 6), c.s.store = some ⟨x :: xs, fl⟩ →
    c.serveStore.sp = applyChunk c.sp x ∧
    (xs ≠ [] → c.serveStore.s = { c.s with store := some ⟨xs, fl⟩ }) ∧
    (xs = [] → c.serveStore.s = { c.s with store := none, fsrNew := c.s.fsrNew ||| fl.setWidth 64 })) ∧
  ∀ (sp : Cells) (a n sh width v : Nat), sp.wf = true → sh + width ≤ 8 * n →
    (∀ x ∈ bitWrites a n sh width v, a ≤ x.addr ∧ x.addr + x.len ≤ a + n ∧ 1 ≤ x.len ∧ x.addr % 64 + x.len ≤ 64) ∧
    (v < 2 ^ width → (bitWrites a n sh width v).foldl BitWrite.apply sp = sp.wr a n (putBits (sp.rd a n) sh width v))

/-- R204: moving a cursor over a unit of `wd` elements by `rows` lines: dimension 0 moves on within its bound; at its end it starts
over and the lines go up; at theirs the next dimension does; the stream ends when every dimension has. -/
def Sys2Proof.Machine.CursorMoves : Prop :=
  ∀ (t : Stream) (wd rows c0 c1 c2 c3 c4 c5 : Nat), t.cur = [c0, c1, c2, c3, c4, c5] →
    c1 < t.recd.bound 1 → c2 < t.recd.bound 2 → c3 < t.recd.bound 3 → c4 < t.recd.bound 4 → c5 < t.recd.bound 5 →
    let u := t.advance wd rows
    (c0 + wd < t.recd.bound 0 → u.cur = [c0 + wd, c1, c2, c3, c4, c5] ∧ u.ended = t.ended) ∧
    (t.recd.bound 0 ≤ c0 + wd → c1 + rows < t.recd.bound 1 → u.cur = [0, c1 + rows, c2, c3, c4, c5] ∧ u.ended = t.ended) ∧
    (t.recd.bound 0 ≤ c0 + wd → t.recd.bound 1 ≤ c1 + rows → c2 + 1 < t.recd.bound 2 →
      u.cur = [0, 0, c2 + 1, c3, c4, c5] ∧ u.ended = t.ended) ∧
    (t.recd.bound 0 ≤ c0 + wd → t.recd.bound 1 ≤ c1 + rows → (c2 + 1 = t.recd.bound 2 ∧ c3 + 1 = t.recd.bound 3 ∧
      c4 + 1 = t.recd.bound 4 ∧ c5 + 1 = t.recd.bound 5) → u.cur = [0, 0, 0, 0, 0, 0] ∧ u.ended = true)

/-- R27, R103, R204-R206, R212, R213: stores and the positions that write them, GADV, GEND and how a cursor moves, in one statement.
Which units each position of a store takes, and that its flags are raised with its last write, are the model's (log entry 36), as is that
the zero bytes that pad a block are written without a check of bounds (log entry 35). -/
def Obligations.StreamStoresAndCursors : Prop := StreamStores ∧ StorePositions ∧ CursorMoves

/-- A word of L on its fibres (R38): under a true guard it leaves the core as `c`, or traps. -/
def Sys2Proof.Machine.FibWord (s : State) (i : Instr) (w : VArgs) (c : Core) : Prop := VWord s i w.g 12 c

/-- R27, R216-R219: the fibre words; what they read, they read in L's positions. FOPEN opens a row of a good descriptor at its first entry,
up to its end, or up to where its coordinates break the order; FADV moves on, up to the stop, and raises FIBRE_ORDER where the order
is broken; FEND, FCLOSE and FISECT report, close and pair; FLDV and its coordinate form write the next 1,024 entries, zeros or all
ones past the last. A fibre that is not open raises STREAM_CLOSED. That FOPEN's STREAM_BOUND has register + 8 in tinfo1 is the model's (log
entry 35; R216 names tinfo0 alone), as is the use of several positions by one word (log entry 36). -/
def Obligations.FibreWords : Prop :=
  ∀ (s : State) (w : VArgs) (x y : Fibre),
    let c := s.core
    let q := s.ctl.curV
    let d := w.d.toNat
    let a := w.a.toNat
    let o := s.k w.a + w.imm.signExtend 64
    let back (v : Core) : Core := { v with sp := c.sp }
    let es (v : Core) : List FibEntry := (x.entries v.sp).take 1024
    let inside (v : Core) : Prop := ∀ n ∈ es v, n.desc.vals + (n.pos + 1) * (fmtBits n.desc.fmt / 8) ≤ 0x3E0000
    let value (v : Core) (n : Nat) : W32 := match (es v)[n]? with
      | some n => (laneOf n.desc.fmt .rne (n.desc.value v.sp n.pos) 0 0).1
      | none => 0
    let coord (v : Core) (n : Nat) : W32 := match (es v)[n]? with
      | some n => BitVec.ofNat 32 n.coord
      | none => 0xFFFFFFFF
    (s.vGo w.g → o.toNat % 4 = 0 → o.toNat + 32 ≤ 0x3E0000 → OwnLoad s (.fopen w) (fun v => (fibUnits v.sp o.toNat).eraseDups) fun v =>
      let f := FibDesc.parse (v.sp.rd o.toNat 32)
      let offs := f.offs + 4 * f.row
      let b := v.sp.rd offs 4
      let e := v.sp.rd (offs + 4) 4
      let opens (y : Fibre) : Prop := exec (.fopen w) s = .next (s.vPass 12 ((back v).setFibre d (some y)))
      (f.valid = false → exec (.fopen w) s = .next (s.vTrap 0x12 o 0)) ∧
      (f.valid = true → offs + 8 ≤ 0x3E0000 →
        (e < b → opens (.row f b e b b (some e))) ∧
        (b ≤ e → f.scan v.sp (e - b) none b = .good → opens (.row f b e b e none)) ∧
        (∀ p z, b ≤ e → f.scan v.sp (e - b) none b = .order p z → opens (.row f b e b p (some z))) ∧
        ∀ p, b ≤ e → f.scan v.sp (e - b) none b = .outside p →
          exec (.fopen w) s = .next (s.vTrap 0x10 (BitVec.ofNat 64 p) (BitVec.ofNat 64 (d + 8))))) ∧
    (s.vGo w.g → (o.toNat % 4 ≠ 0 ∨ 0x3E0000 < o.toNat + 32) → exec (.fopen w) s = .next (s.vTrap 0x12 o 0)) ∧
    (∀ g n m p z, c.fibre d = some (.row g n m p z none) →
      FibWord s (.fadv w) w (c.setFibre d (some (.row g n m (min (p + w.imm.toNat) z) z none)))) ∧
    (∀ g n m p z z', s.vGo w.g → c.fibre d = some (.row g n m p z (some z')) →
      exec (.fadv w) s = .next (s.vTrap 0x11 (BitVec.ofNat 64 z) (BitVec.ofNat 64 z'))) ∧
    (∀ g h n, s.vGo w.g → c.fibre d = some (.meet g h n) → (Fibre.meet g h n).orderInfo = none →
      OwnLoad s (.fadv w) (fun _ => (g.crdUnits ++ h.crdUnits).eraseDups) fun v => exec (.fadv w) s = .next (s.vPass 12
        ((back v).setFibre d (some (.meet g h (n + min w.imm.toNat ((Fibre.meet g h n).entries v.sp).length)))))) ∧
    VWord s (.fclose w) w.g 12 (c.setFibre d none) ∧
    (∀ g n m p z b, c.fibre a = some (.row g n m p z b) → VWord s (.fend w) w.g 12 (c.setVs q { s.vs with
      p := setPred s.vs.p (w.d.extractLsb' 0 3) (decide (z ≤ p)) })) ∧
    (∀ g h n, s.vGo w.g → c.fibre a = some (.meet g h n) →
      OwnLoad s (.fend w) (fun _ => (g.crdUnits ++ h.crdUnits).eraseDups) fun v => exec (.fend w) s = .next (s.vPass 12
        ((back v).setVs q { s.vs with
          p := setPred s.vs.p (w.d.extractLsb' 0 3) ((Fibre.meet g h n).entries v.sp).isEmpty }))) ∧
    (c.fibre a = none → VWord s (.fend w) w.g 12 (c.setVs q { s.vs with p := setPred s.vs.p (w.d.extractLsb' 0 3) true })) ∧
    (c.fibre a = some x → c.fibre w.b.toNat = some y → FibWord s (.fisect w) w (c.setFibre d (some (.meet x y 0)))) ∧
    (s.vGo w.g → c.fibre a = some x → OwnLoad s (.fldv w) (fun v => v.valueUnits a) fun v => inside v →
      ∃ t : Tile, (∀ n < 1024, lane t n = value v n) ∧ exec (.fldv w) s = .next (s.vPass 12 ((back v).setTile d t))) ∧
    (s.vGo w.g → c.fibre a = some x → OwnLoad s (.fldvCrd w) (fun _ => x.crdUnits.eraseDups) fun v =>
      ∃ t : Tile, (∀ n < 1024, lane t n = coord v n) ∧ exec (.fldvCrd w) s = .next (s.vPass 12 ((back v).setTile d t))) ∧
    (guardHolds w.g s.vs.p = false → ∀ i ∈ [Instr.fopen w, .fadv w, .fend w, .fldv w, .fldvCrd w], exec i s = .next (s.vPass 12 c)) ∧
    (s.vGo w.g → c.fibre a = none → ∀ i ∈ [Instr.fisect w, .fldv w, .fldvCrd w],
      exec i s = .next (s.vTrap 0x13 (BitVec.ofNat 64 (a + 8)) 0)) ∧
    (s.vGo w.g → c.fibre a = some x → c.fibre w.b.toNat = none →
      exec (.fisect w) s = .next (s.vTrap 0x13 (BitVec.ofNat 64 (w.b.toNat + 8)) 0)) ∧
    (s.vGo w.g → c.fibre d = none → exec (.fadv w) s = .next (s.vTrap 0x13 (BitVec.ofNat 64 (d + 8)) 0))

/-! ## C: matrix words -/

/-- C may issue a matrix word now (R233, R331, R333): its guard holds, the follow-on port owns none of its accumulators, no earlier
word that is not complete writes one or writes a tile of `tiles`, the queue has room, and its limit has not passed. -/
def Sys2Proof.Machine.matFree (s : State) (w : MArgs) (tiles : List Nat) : Prop :=
  let c := s.core
  guardHolds w.g c.c.p = true ∧ (∀ a ∈ argAccs w, c.mat.owned.getLsbD a = false) ∧
  (∀ x, c.c.wait = some x → x.expired s.ctl.cyc = false) ∧ c.accBusy w = false ∧ c.mat.queue.length < 2 ∧
  ∀ t ∈ tiles, c.tileBusy t = false

/-- The state after a matrix word entered the queue as `e`: C goes on, and nothing else changes. -/
def Sys2Proof.Machine.queued (s : State) (e : MEntry) : State :=
  s.putCore { s.core with
    mat := { s.core.mat with queue := s.core.mat.queue ++ [e] }, c := s.core.c.next s.ctl.cyc 24 }

/-- R233, R327-R333, R336-R340: a matrix word that is free to issue enters the queue with what it reads then: the formats of its
buffers, its tiles' lanes, or its fibres' rows, which it reads in positions 3 and 7 while it holds C. One that names an accumulator the
follow-on port owns waits under the limit 255. -/
def Sys2Proof.Machine.MatrixWordsIssue : Prop :=
  ∀ (s : State) (w : MArgs) (x y : Fibre),
    let c := s.core
    let t := w.opsAt 0 4
    let plain (op : BitVec 6) : MEntry := plainEntry op w s.ctl.cyc []
    let lanes (i : Nat) : List W32 := (c.tile (t + i)).toList
    let fa := (vget c.oa (w.opsAt 0 2) OpBuf.init).fmt
    let fb (i : Nat) : BitVec 4 := (vget c.ob (w.opsAt (2 + 2 * i) 2) OpBuf.init).fmt
    let n := w.acn.toNat + 1
    let rows (v : Core) (d : FibDesc) (n : Nat) : List (List (Nat × Nat)) := (List.range n).map fun i => d.rowEntries v.sp (d.row + i)
    let all := [Instr.mma w, .mmaD w, .mmas w, .mzero w, .maccr w, .maccw w, .mscale w]
    (matFree s w [] → exec (.mzero w) s = .next (queued s (plain 2)) ∧
      exec (.mmaD w) s = .next (queued s { plain 0 with fmtA := w.fmta, fmtBs := List.replicate n w.fmtb })) ∧
    (matFree s w [t, t + 1, t + 2, t + 3] → exec (.maccr w) s = .next (queued s (plain 3)) ∧
      exec (.maccw w) s = .next (queued s (plainEntry 4 w s.ctl.cyc (lanes 0 ++ lanes 1 ++ lanes 2 ++ lanes 3)))) ∧
    (matFree s w [t] → exec (.mscale w) s = .next (queued s (plainEntry 5 w s.ctl.cyc ((lanes 0).take 64)))) ∧
    (matFree s w [] → (∀ i < n, pairOk fa.toNat (fb i).toNat = true) → exec (.mma w) s = .next (queued s { plain 0 with
      fmtA := fa, fmtBs := (List.range n).map fb })) ∧
    (matFree s w [] → (∃ i < n, pairOk fa.toNat (fb i).toNat = false) → exec (.mma w) s = .next (s.put (s.mc.takeTrap s.ctl
      s.ctl.cur ⟨1, 2, c.c.pc, BitVec.ofNat 64 (((encode (.mma w)).map (·.2)).getD 0), c.c.pc.setWidth 64⟩))) ∧
    (matFree s w [] → c.fibre (w.opsAt 0 2) = some x → c.fibre (w.opsAt 2 2) = some y →
      LoadWord s (.mmas w) .c (s.ctl.cyc % 4 = 3) (fun v => v.mmasUnits w) fun v =>
        (v.mmasFault w = none → exec (.mmas w) s = .next (s.putCore { c with
          pos := v.pos
          c := c.c.next s.ctl.cyc 24
          mat := { c.mat with queue := c.mat.queue ++ [{ plain 1 with
            fmtA := BitVec.ofNat 4 x.desc.fmt, fmtBs := List.replicate n (BitVec.ofNat 4 y.desc.fmt)
            fibA := x.desc, fibB := y.desc, rowsA := rows v x.desc 64, rowsB := rows v y.desc (64 * n) }] } })) ∧
        ∀ code i0 i1, v.mmasFault w = some (code, i0, i1) →
          exec (.mmas w) s = .next (s.put (s.mc.takeTrap s.ctl s.ctl.cur ⟨code, 2, c.c.pc, i0, i1⟩))) ∧
    (∀ i ∈ all, guardHolds w.g c.c.p = true → (∃ a ∈ argAccs w, c.mat.owned.getLsbD a = true) → exec i s = .next
      (s.putCore { c with c := { c.c with wait := some (c.c.wait.getD ⟨i, s.ctl.cyc, some 255⟩) } })) ∧
    (∀ i ∈ all, guardHolds w.g c.c.p = false → exec i s = .next (s.putCore { c with c := c.c.next s.ctl.cyc 24 }))

/-- R341: MWAIT waits until the words the follow-on port accepted for its accumulators are finished, reports it, and C owns them
again; with limit code 0 it reports false at once, and otherwise waits. -/
def Sys2Proof.Machine.MatrixWait : Prop :=
  ∀ (s : State) (w : MArgs),
    let c := s.core
    let lim := w.opsAt 0 32
    let rp : PReg := w.ops.extractLsb' 32 3
    let pass (o : BitVec 4) (b : Bool) : State := s.putCore { c with
      mat := { c.mat with owned := o }, c := ({ c.c with p := setPred c.c.p rp b } : VState).next s.ctl.cyc 24 }
    guardHolds w.g c.c.p = true → c.c.wait = none →
    (c.portBusy w = false → ∃ o : BitVec 4,
      (∀ a < 4, o.getLsbD a = (c.mat.owned.getLsbD a && !argNames w a)) ∧ exec (.mwait w) s = .next (pass o true)) ∧
    (c.portBusy w = true → lim = 0 → exec (.mwait w) s = .next (pass c.mat.owned false)) ∧
    (c.portBusy w = true → lim ≠ 0 → exec (.mwait w) s = .next
      (s.putCore { c with c := { c.c with wait := some ⟨.mwait w, s.ctl.cyc, some lim⟩ } }))

/-- R233, R327-R333, R336-R341: the matrix words of C at issue, MWAIT among them, in one statement.
How MMAS reads its rows in several positions is the model's (log entry 36), and in which order its faults come (log entry 27). -/
def Obligations.MatrixWordsOfC : Prop := MatrixWordsIssue ∧ MatrixWait

/-- The elements of an accumulator after one tile step (R80, R82, R336): both groups of products added in ascending K. -/
def Sys2Proof.Machine.stepped (int : Bool) (z z' : List W32) (a b : List (List FVal)) : Prop :=
  z'.length = z.length ∧ ∀ n v, z[n]? = some v →
    z'[n]? = some (addStep int v (densePairs a b (n / 64) (n % 64) 0) (densePairs a b (n / 64) (n % 64) 1)).1

/-- R331: the word that the engine takes next is `e`, and `g` is what is left: the earlier arrival of the C queue's and the port's head,
C's in one clock. -/
def Sys2Proof.Machine.takenNext (m : MatEng) (e : MEntry) (g : MatEng) : Prop :=
  (∃ rest, m.queue = e :: rest ∧ (∀ p r, m.port = p :: r → e.arrived ≤ p.arrived) ∧ g = { m with queue := rest }) ∨
  (∃ rest, m.port = e :: rest ∧ (∀ p r, m.queue = p :: r → e.arrived < p.arrived) ∧ g = { m with port := rest })

/-- R34, R327, R329-R331, R336: the engine, with nothing running, starts the word that arrived first, C's before the port's, in a clock
after its arrival; an idle engine only while fewer than 8 of its die have left idle in this lock cycle. A tile step adds the products
of its blocks to its accumulator: in direct mode the blocks that its reads have brought, and nothing else changes; in buffer mode
those of its buffers, whose FULL it clears. Tile steps start in as many of every eight lock cycles as the throttle level says (R428; which
of them, log entry 16), and an idle engine that goes on with a word leaves idle by the same count of 8. An engine with no word and 1,024
quiet clocks is idle. -/
def Sys2Proof.Machine.MatrixEngineSteps : Prop :=
  ∀ (s : State) (e : MEntry) (g : MatEng) (r : MRun),
    let c := s.core
    let n := s.ctl.cur.val
    let win := vget s.mc.starts (n / 40) (0, 0)
    let now := s.ctl.cyc / 96
    let e' : MEntry := { e with cap := if e.port = true ∧ e.word.op = 5 then c.scaleRow e.word.args else e.cap }
    let started : Core := { c with mat := { g with run := some ⟨e', 0, [], 0, s.ctl.cyc, none, [], [], []⟩, idle := false } }
    let counted (v : Nat × Nat) : State := s.put { s.mc.setCore n started with starts := vset s.mc.starts (n / 40) v }
    let wasIdle : Prop := c.mat.idle = true ∨ c.mat.lastBusy + 1024 < e.arrived
    let w := r.entry.word.args
    let acc := w.acc.toNat + r.accStep
    let fa := r.entry.fmtA.toNat
    let fb := ((r.entry.fmtBs[r.accStep]?).getD 0).toNat
    let step (z : List W32) (fl : Flags) : MRun := { r with
      step := r.step + 1, work := (acc, z) :: r.work.filter (fun x => x.1 ≠ acc), flags := r.flags ||| fl, since := s.ctl.cyc
      ends := if r.kStep = w.ks.toNat then (acc, s.ctl.cyc) :: r.ends else r.ends }
    let opens : Prop := (s.ctl.tick + Config.throttlePhase) % 8 < s.mc.mgmt.level
    let mayLeave : Prop := win.1 < now ∨ (win.1 = now ∧ win.2 < 8)
    let leaves (c' : Core) : State :=
      s.put { s.mc.setCore n { c' with mat := { c'.mat with idle := false } } with
        starts := vset s.mc.starts (n / 40) (if win.1 < now then (now, 1) else (now, win.2 + 1)) }
    let steps1 (c' : Core) : Prop :=
      (opens → c.mat.idle = false → exec .tileStepStart s = .next (s.putCore c')) ∧
      (opens → c.mat.idle = true → mayLeave → exec .tileStepStart s = .next (leaves c')) ∧
      (¬opens ∨ (c.mat.idle = true ∧ ¬mayLeave) → exec .tileStepStart s = .next s)
    let ba := r.heldA.getD (vget c.oa r.aBuf OpBuf.init)
    let bb := r.heldB.getD (vget c.ob r.bBuf OpBuf.init)
    (c.mat.run = none → takenNext c.mat e g → e.arrived < s.ctl.cyc →
      (¬wasIdle → exec .matrixWordStart s = .next (s.putCore started)) ∧
      (wasIdle → win.1 < now → exec .matrixWordStart s = .next (counted (now, 1))) ∧
      (wasIdle → win.1 = now → win.2 < 8 → exec .matrixWordStart s = .next (counted (now, win.2 + 1))) ∧
      (wasIdle → now < win.1 ∨ (win.1 = now ∧ 8 ≤ win.2) → exec .matrixWordStart s = .next s)) ∧
    (takenNext c.mat e g → s.ctl.cyc ≤ e.arrived → exec .matrixWordStart s = .next s) ∧
    (c.mat.run ≠ none ∨ (c.mat.queue = [] ∧ c.mat.port = []) → exec .matrixWordStart s = .next s) ∧
    (c.mat.run = some r → r.entry.word.op = 0 → w.mode ≠ 0 → r.step < r.entry.steps →
      (r.fetched = true → ∃ (z : List W32) (fl : Flags),
        stepped (fmtInt fa) (c.workOf r acc) z (blockVals fa (r.directA r.kStep)) (blockVals fb (r.directB r.kStep r.accStep)) ∧
        steps1 { c with mat := { c.mat with run := some (step z fl) } }) ∧
      (r.fetched = false → exec .tileStepStart s = .next s)) ∧
    (c.mat.run = some r → r.entry.word.op = 0 → w.mode = 0 → r.step < r.entry.steps → c.missing r = none →
      ∃ (z : List W32) (fl : Flags), stepped (fmtInt fa) (c.workOf r acc) z (blockVals fa ba) (blockVals fb bb) ∧
        steps1 { c with
          oa := if r.heldA.isNone then vset c.oa r.aBuf { ba with full := false } else c.oa
          ob := if r.heldB.isNone then vset c.ob r.bBuf { bb with full := false } else c.ob
          mat := { c.mat with run := some { step z fl with
            latchA := some ba, taken := (r.bBuf, bb) :: (if r.accStep = 0 then [] else r.taken) } } }) ∧
    (c.mat.run = none → exec .tileStepStart s = .next s) ∧
    (c.mat.run = some r → (c.missing r).isSome = true → c.task = none → exec .tileStepStart s = .next s) ∧
    (c.mat.run = none → c.mat.queue = [] → c.mat.port = [] → c.mat.lastBusy + 1024 < s.ctl.cyc →
      exec .matrixEngineIdle s = .next (s.putCore { c with mat := { c.mat with idle := true } }))

/-- R331, R332, R339, R340: MATRIX_WORD_COMPLETE once every tile step has run and no accumulator's result is still to be written: MZERO clears its accumulators, MACCW gives them the
lanes it captured, MACCR copies one to its tiles, an MMA or MMAS writes what it computed and raises its flags for C's `fsr`. The
engine is then free. Before, nothing changes. -/
def Sys2Proof.Machine.MatrixWordsComplete : Prop :=
  ∀ (s : State) (r : MRun),
    let c := s.core
    let w := r.entry.word.args
    let named (a : Nat) : Bool := argNames w a
    let done (c' : Core) (fl : Flags) : Prop := exec .matrixWordComplete s = .next (s.putCore { c' with
      mat := { c.mat with run := none, lastBusy := s.ctl.cyc }, c := { c.c with fsrNew := c.c.fsrNew ||| fl.setWidth 64 } })
    c.mat.run = some r → (w.acc.toNat + w.acn.toNat < 4) →
    (r.step < r.entry.steps ∨ r.ends ≠ [] → exec .matrixWordComplete s = .next s) ∧
    (r.entry.steps ≤ r.step → r.ends = [] →
      (r.entry.word.op = 2 → ∃ z, done { c with z := z } 0 ∧ ∀ a < 4, ∀ n < 4096,
        vget (vget z a default) n 0 = if named a then 0 else vget (vget c.z a default) n 0) ∧
      (r.entry.word.op = 4 → ∃ z, done { c with z := z } 0 ∧ ∀ a < 4, ∀ n < 4096,
        vget (vget z a default) n 0 = if named a then (r.entry.cap[n]?).getD 0 else vget (vget c.z a default) n 0) ∧
      (r.entry.word.op = 3 → w.opsAt 0 4 ≤ 12 → ∃ v, done { c with v := v } 0 ∧ ∀ t < 16, ∀ n < 1024,
        vget (vget v t default) n 0 = if w.opsAt 0 4 ≤ t ∧ t < w.opsAt 0 4 + 4
          then vget (vget c.z w.acc.toNat default) (1024 * (t - w.opsAt 0 4) + n) 0 else vget (vget c.v t default) n 0) ∧
      (r.entry.word.op = 5 → ∃ z fl, done { c with z := z } fl ∧ ∀ a < 4, ∀ n < 4096, vget (vget z a default) n 0 =
        if named a then (scaleElem (vget (vget c.z a default) n 0) ((r.entry.cap[n % 64]?).getD 0)).1
        else vget (vget c.z a default) n 0) ∧
      (r.entry.word.op = 0 ∨ r.entry.word.op = 1 → ∃ z, done { c with z := z } r.flags ∧
        ∀ a l, r.work = [(a, l)] → a < 4 → ∀ n < 4096, vget (vget z a default) n 0 = (l[n]?).getD 0))

/-- R331: an accumulator is written 6 clocks after the end of its last tile step, whatever the word's other accumulators still do; one whose
clock has not come stays as it is. -/
def Sys2Proof.Machine.AccumulatorsWritten : Prop :=
  ∀ (c : Core) (cyc : Nat) (r : MRun), c.mat.run = some r → (∀ x ∈ r.work, ∀ y ∈ r.work, x.1 = y.1 → x = y) →
    let d := c.matResults cyc
    (∀ a l, (a, l) ∈ r.work → a < 4 → (∃ t, (a, t) ∈ r.ends ∧ t + 6 ≤ cyc) → ∀ n < 4096,
      vget (vget d.z a default) n 0 = (l[n]?).getD 0) ∧
    (∀ a < 4, (∀ t, (a, t) ∈ r.ends → cyc < t + 6) → vget d.z a default = vget c.z a default) ∧
    (∃ r', d.mat.run = some r' ∧ r'.step = r.step ∧ ∀ x, x ∈ r'.ends ↔ x ∈ r.ends ∧ ∀ t, (x.1, t) ∈ r.ends → cyc < t + 6) ∧
    d.v = c.v ∧ d.sp = c.sp ∧ d.oa = c.oa ∧ d.ob = c.ob

/-- R34, R327, R329-R332, R336, R339, R340: how the matrix engine starts, steps and completes its words, in one statement.
An event whose condition does not hold changes nothing (log entry 6). How MMAS keeps values is the model's (log entry 27). -/
def Obligations.MatrixEngine : Prop := MatrixEngineSteps ∧ MatrixWordsComplete ∧ AccumulatorsWritten

/-! ## Transfer contexts: control words -/

/-- A word that acts on its context's registers alone (R257): while a command in flight is to write one of them it does not issue. -/
def Sys2Proof.Machine.CtxWord (s : State) (i : Instr) (regs : List Reg4) (x : Ctx) : Prop :=
  (s.ctx.awaits regs = false → exec i s = .next (s.putCtx x)) ∧ (s.ctx.awaits regs = true → exec i s = .next s)

/-- R313: the arithmetic words of a context, both lengths, and what each makes of its operands. -/
def Sys2Proof.Machine.ctxAluTable (w : TArgs) : List (Instr × Instr × (W64 → W64 → W64)) := [
  (.tadd64 w, .tadd128 w, fun x y => x + y), (.tsub64 w, .tsub128 w, fun x y => x - y),
  (.tmul64 w, .tmul128 w, fun x y => BitVec.ofNat 64 (x.toNat * y.toNat)), (.tand64 w, .tand128 w, fun x y => x &&& y),
  (.tor64 w, .tor128 w, fun x y => x ||| y), (.tshl64 w, .tshl128 w, fun x y => x <<< (y.toNat % 64)),
  (.tshr64 w, .tshr128 w, fun x y => x >>> (y.toNat % 64))]

/-- R309-R313: TBR goes to its target when FN says so of the compare flag; TLOOP counts down and branches while its counter is not
0; TLI, TCMP and the arithmetic words write their register or the flag; every one goes on after its own length, 8 or 16 bytes. -/
def Sys2Proof.Machine.TransferControlWords : Prop :=
  ∀ (s : State) (w : TArgs),
    let x := s.ctx
    let imm : W64 := w.imm16.signExtend 64
    let go (x : Ctx) (len : W32) : Ctx := { x with tpc := x.tpc + len }
    let to1 (x : Ctx) (off : W64) : Ctx := { x with tpc := x.tpc + 8 * off.setWidth 32 }
    let set (v : W64) : Ctx := { x with a := vset x.a w.d.toNat v }
    let reg (r : Reg4) : W64 := vget x.a r.toNat 0
    let taken : Prop := w.fn.toNat % 4 = 0 ∨ (w.fn.toNat % 4 = 1 ∧ x.flag = true) ∨ (2 ≤ w.fn.toNat % 4 ∧ x.flag = false)
    let n := vget x.c w.d.toNat 0 - 1
    let y : Ctx := { x with c := vset x.c w.d.toNat n }
    (taken → CtxWord s (.tbr64 w) [] (to1 x imm) ∧ CtxWord s (.tbr128 w) [] (to1 x w.imm64)) ∧
    (¬taken → CtxWord s (.tbr64 w) [] (go x 8) ∧ CtxWord s (.tbr128 w) [] (go x 16)) ∧
    (n ≠ 0 → CtxWord s (.tloop64 w) [] (to1 y imm) ∧ CtxWord s (.tloop128 w) [] (to1 y w.imm64)) ∧
    (n = 0 → CtxWord s (.tloop64 w) [] (go y 8) ∧ CtxWord s (.tloop128 w) [] (go y 16)) ∧
    CtxWord s (.tli64 w) [w.d] (go (set imm) 8) ∧ CtxWord s (.tli128 w) [w.d] (go (set w.imm64) 16) ∧
    CtxWord s (.tcmp w) [w.s, w.x] (go { x with flag := match w.fn.toNat with
      | 0 => decide (reg w.s = reg w.x)
      | 1 => decide (reg w.s ≠ reg w.x)
      | 2 => decide ((reg w.s).toInt < (reg w.x).toInt)
      | 3 => decide ((reg w.x).toInt ≤ (reg w.s).toInt)
      | 4 => decide ((reg w.s).toNat < (reg w.x).toNat)
      | _ => decide ((reg w.x).toNat ≤ (reg w.s).toNat) } 8) ∧
    (∀ p ∈ ctxAluTable w, w.fn.getLsbD 0 = false →
      CtxWord s p.1 [w.d, w.s, w.x] (go (set (p.2.2 (reg w.s) (reg w.x))) 8) ∧
      CtxWord s p.2.1 [w.d, w.s, w.x] (go (set (p.2.2 (reg w.s) (reg w.x))) 16)) ∧
    (∀ p ∈ ctxAluTable w, w.fn.getLsbD 0 = true →
      CtxWord s p.1 [w.d, w.s] (go (set (p.2.2 (reg w.s) imm)) 8) ∧
      CtxWord s p.2.1 [w.d, w.s] (go (set (p.2.2 (reg w.s) w.imm64)) 16))

/-- R26, R255, R311, R312: TLDR and TSTR of a core's engine reach the parameter area of the scratchpad in positions 0 and 4 that no
access has taken, once no posted write of the context comes before them, those of any other engine its own; TEND ends the
invocation: its context is free at once, or when the last command in flight completes. -/
def Sys2Proof.Machine.ParametersAndEnd : Prop :=
  ∀ (s : State) (w : TArgs) (n : Fin 320),
    let x := s.ctx
    let m := s.mc
    let e := s.ctl.eng
    let imm : W64 := w.imm16.signExtend 64
    let from1 := (vget x.a w.s.toNat 0 + imm).toNat % 2 ^ 15 / 8 * 8
    let to1 := (vget x.a w.d.toNat 0 + imm).toNat % 2 ^ 15 / 8 * 8
    let v := (vget x.a w.s.toNat 0).toNat
    let g := m.engine e
    let taken := m.takePos s.ctl.cyc (spKey n.val 0) e
    let c := taken.core n.val
    let served (off : Nat) : Prop := s.ctl.cyc % 4 = 0 ∧ (m.core n.val).pos.1 ≤ s.ctl.cyc ∧ g.posAt ≤ s.ctl.cyc ∧
      g.behind s.ctl.ctx.val 0 8 [(spKey n.val (0x3F8000 + off), 8)] = false
    let y : Ctx := { x with tpc := x.tpc + 8 }
    let load (v : Nat) : Ctx := { y with a := vset x.a w.d.toNat (BitVec.ofNat 64 v) }
    (x.awaits [w.d, w.s] = false → e = .core n →
      (served from1 → exec (.tldr w) s = .next (s.put (taken.setCtx e s.ctl.ctx (load (c.sp.rd (0x3F8000 + from1) 8))))) ∧
      (served to1 → exec (.tstr w) s = .next (s.put
        ((taken.setCore n.val { c with sp := c.sp.wr (0x3F8000 + to1) 8 v }).setCtx e s.ctl.ctx y)))) ∧
    (e = .core n → (¬served from1 → exec (.tldr w) s = .next s) ∧ (¬served to1 → exec (.tstr w) s = .next s)) ∧
    (x.awaits [w.d, w.s] = false → (∀ k, e ≠ .core k) →
      exec (.tldr w) s = .next (s.putCtx (load (g.param.rd from1 8))) ∧
      exec (.tstr w) s = .next (s.put ((m.setEngine e { g with param := g.param.wr to1 8 v }).setCtx e s.ctl.ctx y))) ∧
    (x.flight = [] → exec .tend s = .next (s.putCtx Ctx.init)) ∧
    (x.flight ≠ [] → exec .tend s = .next (s.putCtx { y with ending := true }))

/-- R26, R255, R309-R313: the control words of a context, in one statement. -/
def Obligations.ContextWords : Prop := TransferControlWords ∧ ParametersAndEnd

/-! ## Transfer contexts: data commands -/

/-- The data commands, with their lengths and what each does at its start and at an element. -/
def Sys2Proof.Machine.dataTable (w : TArgs) : List (Instr × Bool × CmdSpec) := [
  (.copy w, false, copySpec w), (.xpose w, false, xposeSpec w), (.conv w, false, convSpec w), (.convZp w, false, convZpSpec w),
  (.convFib w, false, convFibSpec w), (.decomp w, false, decompSpec w), (.req w, false, reqSpec w), (.gather w, false, gatherSpec w),
  (.scatter w, false, scatterSpec w), (.iread w, false, ireadSpec w), (.mcast w, false, mcastSpec w), (.reduce w, false, reduceSpec w),
  (.accw w, false, accwSpec w), (.atom w, false, atomSpec w), (.signal w, false, signalSpec w), (.semwt w, true, semwtSpec w),
  (.rfill w, true, ringSpec true w), (.rdrain w, true, ringSpec false w), (.tagset w, false, tagsetSpec),
  (.follow w, false, followSpec w), (.udrain w, false, udrainSpec w), (.urgn w, false, urgnSpec w), (.coll w, false, collSpec w),
  (.pref w, false, { regs := [w.s, w.h], start := pagesStart w, elem := prefElem w }),
  (.migh w, false, { regs := [w.s, w.h], start := pagesStart w, elem := mighElem w })]

/-- The context's command is `c`, started, and its next element is `e`. -/
def Sys2Proof.Machine.atElement (s : State) (c : Cmd) (e : Nat) : Prop :=
  s.ctx.cmd = some c ∧ c.started = true ∧ s.ctx.ep.toNat = e ∧ e < c.total

/-- What happens before a release of the context is performed at a scope (R110, R114, R121): of the posted writes of its engine its own and
those of commands that are complete, of any engine's those that a release has covered, and from package scope on the triples that come
before it. -/
def Sys2Proof.Machine.CtxPerformed (s : State) (scope : Nat) : Prop :=
  (∀ p ∈ (s.mc.engine s.ctl.eng).posts, p.ctx = s.ctl.ctx.val ∨ p.done.isSome = true → p.awaited s.ctl.eng scope = false) ∧
  (∀ f : EngineId, ∀ p ∈ (s.mc.engine f).posts, p.told = true → p.awaited s.ctl.eng scope = false) ∧
  (2 ≤ scope → ∀ n, s.ctl.eng = .core n → s.ctx.upd ≤ (s.mc.core n.val).emit.freed)

/-- The machine once a release of the context beyond the core covers what happens before it (R110). -/
def Sys2Proof.Machine.State.toldCtx (s : State) (scope : Nat) : Mach :=
  let g := s.mc.engine s.ctl.eng
  if scope = 0 then s.mc
  else s.mc.setEngine s.ctl.eng { g with
    posts := g.posts.map fun p => { p with told := p.told || decide (p.ctx = s.ctl.ctx.val) || p.done.isSome } }

/-- The machine once the context's next command begins (R110, R120, R257): it has the next number of its engine. -/
def Sys2Proof.Machine.State.begunCmd (s : State) (w : TArgs) : Mach :=
  let m := if w.ord = 1 ∨ w.ord = 3 then s.toldCtx w.scope.toNat else s.mc
  let g := m.engine s.ctl.eng
  m.setEngine s.ctl.eng { g with
    nextId := g.nextId + 1, ctxs := vset g.ctxs s.ctl.ctx.val { s.ctx with ep := 0, since := s.ctl.cyc } }

/-- The command that begins (R124, R279): its word, its number and the channel of its writes. -/
def Sys2Proof.Machine.State.newTransfer (s : State) (i : Instr) (w : TArgs) : Cmd :=
  s.ctx.newCmd i (s.mc.engine s.ctl.eng).nextId (if w.ord = 1 ∨ w.ord = 3 then 2 else if w.te then 0 else 1)

/-- The state after element `e` was performed and left machine `m` and command `c` (R257): the next element is due; after the
last one the context goes on to its next word and the command is in flight, with its number, the scope it completes at, its tag,
its flags and its register result. -/
def Sys2Proof.Machine.elementDone (s : State) (long : Bool) (w : TArgs) (flag : Option Bool) (result : Option (Reg4 × W64)) (m : Mach) (c : Cmd)
    (e : Nat) : State :=
  let x := m.ctx s.ctl.eng s.ctl.ctx
  let y : Ctx := { x with ep := BitVec.ofNat 64 (e + 1), st := .running, hold := .none, got := [], again := [], since := s.ctl.cyc }
  let scope := if w.ord = 0 then 0 else w.scope.toNat
  s.put (if e + 1 < c.total then m.setCtx s.ctl.eng s.ctl.ctx { y with cmd := some c }
    else (m.setCtx s.ctl.eng s.ctl.ctx { y with
      cmd := none, tpc := x.tpc + (if long then 16 else 8), flag := flag.getD x.flag
      flight := x.flight ++ [⟨c.id, scope, if w.te then some w.tag else none, c.flags, result⟩] }).noteDone s.ctl.eng s.ctl.ctx.val c.id)

/-- R110, R121, R257, R268-R271, R279: what every data command does at a turn of its context. It does not issue while eight
commands are in flight, while it waits for one, or, as a release, while writes of its context that its scope covers, or triples
of earlier UPDs, are on their way; when its start goes through, it performs its first element in the same turn; an element that
is performed is followed by the next; a fault stops the context at its element, merges the command's flags and is left for
delivery, or is kept until what it does to a ring can be done; a translation that no TLB holds waits for a page walk there; an access
that is not served yet has the element made again, with what it has read before. That a turn performs one element is the model's choice
(log entry 9), and so is keeping what an element has read (log entry 36). -/
def Obligations.DataCommandTurns : Prop :=
  ∀ (s : State) (w : TArgs), ∀ p ∈ dataTable w, ∀ (c c' : Cmd) (e : Nat) (m : Mach) (code : Byte) (i0 i1 : W64) (va kind : Nat) (h : Hold),
    let A := s.mc.access s.ctl c
    let sp := p.2.2
    let el := sp.elem s.ctl A s.mc c e
    let keep (h : Hold) : State := s.putCtx { s.ctx with
      cmd := some c, ep := BitVec.ofNat 64 e, hold := h, st := match h with
        | .test _ => .waiting
        | .extend _ => .waiting
        | _ => .running }
    let behind : Prop := (w.ord = 1 ∨ w.ord = 3) ∧ ¬CtxPerformed s w.scope.toNat
    let new := s.newTransfer p.1 w
    let begun := s.begunCmd w
    (s.ctx.cmd = none →
      8 ≤ s.ctx.flight.length ∨ s.ctx.awaits sp.regs = true ∨ (sp.alone = true ∧ s.ctx.flight ≠ []) ∨ behind →
      exec p.1 s = .next s) ∧
    (s.ctx.cmd = none → s.ctx.flight = [] → ¬behind →
      (∀ m₁, sp.start (begun.access s.ctl new) begun new = .ok (m₁, c) →
        exec p.1 s = .next (s.put ((m₁.setCtx s.ctl.eng s.ctl.ctx { m₁.ctx s.ctl.eng s.ctl.ctx with got := [], again := [] }).runElem
          s.ctl p.2.1 w sp { c with started := true } 0))) ∧
      (sp.start (begun.access s.ctl new) begun new = .error (.miss va kind) →
        exec p.1 s = .next (s.put (begun.setCtx s.ctl.eng s.ctl.ctx { s.ctx with
          cmd := some new, ep := 0, since := s.ctl.cyc, hold := .walk va kind, st := .running }))) ∧
      (sp.start (begun.access s.ctl new) begun new = .error (.later m .none) →
        exec p.1 s = .next (s.put (m.setCtx s.ctl.eng s.ctl.ctx { m.ctx s.ctl.eng s.ctl.ctx with
          again := (m.ctx s.ctl.eng s.ctl.ctx).got, cmd := some new, ep := 0, hold := .none, st := .running })))) ∧
    (atElement s c e → el = .ok (m, c', .next) → exec p.1 s = .next (elementDone s p.2.1 w (sp.flag c') (sp.result c') m c' e)) ∧
    (atElement s c e → el = .ok (m, c', .again) → exec p.1 s = .next (s.put (m.setCtx s.ctl.eng s.ctl.ctx { m.ctx s.ctl.eng s.ctl.ctx with
      got := [], again := [], cmd := some c', ep := BitVec.ofNat 64 e, hold := .none, st := .running }))) ∧
    (∀ m₁, atElement s c e → el = .error (.fault code i0 i1) → sp.onFault A s.mc c code = some m₁ → exec p.1 s = .next (s.put
      ((m₁.setCtx s.ctl.eng s.ctl.ctx { m₁.ctx s.ctl.eng s.ctl.ctx with
        ep := BitVec.ofNat 64 e, st := .stopped, code := code, fault := some ⟨code, i0, i1⟩, cmd := none, hold := .none, got := [],
        again := [] }).mergeFlags s.ctl.eng c.flags))) ∧
    (atElement s c e → el = .error (.fault code i0 i1) → sp.onFault A s.mc c code = none → exec p.1 s = .next (s.putCtx { s.ctx with
      cmd := some { c with total := max c.total (e + 1), vals := [4, code.toNat, i0.toNat, i1.toNat] }, hold := .none, st := .running })) ∧
    (atElement s c e → el = .error (.miss va kind) → exec p.1 s = .next (keep (.walk va kind))) ∧
    (atElement s c e → el = .error (.hold h) → exec p.1 s = .next (keep h)) ∧
    (atElement s c e → el = .error (.later m .none) → exec p.1 s = .next (s.put (m.setCtx s.ctl.eng s.ctl.ctx
      { m.ctx s.ctl.eng s.ctl.ctx with
        again := (m.ctx s.ctl.eng s.ctl.ctx).got, cmd := some c, ep := BitVec.ofNat 64 e, hold := .none, st := .running })))

/-- What an element of CONV to fibre arrays writes, in order, each as address, bytes and value (R284): the first offset, 0; the coordinate
and the value of an element that is not zero; at the end of a row the entries written so far. -/
def Sys2Proof.Machine.fibreWrites (r : Shape) (offs crds vals p e v : Nat) : List (Int × Nat × Nat) :=
  let at0 (a n : Nat) : Int := (a : Int) + (n : Int)
  (if e = 0 then [((offs : Int), 4, 0)] else []) ++
  (if v = 0 then [] else [(at0 crds (4 * p), 4, e % r.bound 0), (at0 vals (r.width / 8 * p), r.width / 8, v)]) ++
  (if e % r.bound 0 + 1 = r.bound 0 then [(at0 offs (4 * (e / r.bound 0 + 1)), 4, if v = 0 then p else p + 1)] else [])

/-- R69, R281-R289: the element that each moving command performs when its source and its destination can be reached. COPY and XPOSE
move an element; CONV converts it, and at the first element of a group writes the group's scale and computes its codes; GATHER,
SCATTER and IREAD move one of an item, whose list entry its first element reads; MCAST writes every destination; DECOMP writes the
stored element or zero; the packed and fibre forms of CONV write a block, or an entry for a nonzero element and the end of a row; REQ a
line. That a turn performs one element is the model's choice (log entry 9), and so is that a group's codes come from what is read at its
first element (log entry 31). -/
def Obligations.MovingCommands : Prop :=
  ∀ (s : State) (w : TArgs) (c : Cmd) (e : Nat) (src dst : BitRef) (m₁ : Mach) (v : Nat), atElement s c e →
    let m := s.mc
    let A := m.access s.ctl c
    let r := c.recd
    let ix := r.indices e
    let read (base bit : Int) (wd : Nat) : Prop := m.reachBits A .read c e base bit wd = .ok src ∧ m.readBits A src = .ok (m₁, v)
    let write (base bit : Int) (wd : Nat) : Prop := m.reachBits A .write c e base bit wd = .ok dst
    let moved : Mach := m₁.writeBits A dst v
    let done (i : Instr) (m' : Mach) (c' : Cmd) : Prop := exec i s = .next (elementDone s false w none none m' c' e)
    let packed : Int := ((e * r.width : Nat) : Int)
    let item := (c.vals[0]?).getD 0
    let at0 (b : Reg4) : Int := c.base b + (BitVec.ofNat 64 item).toInt
    let sw := fmtBits w.sfmt.toNat
    let sr (n : Nat) : Option W32 := if w.fn.getLsbD 0 then some (r.srWord n) else none
    let cv := convElem xferFp r.fmt (if r.fmt = 0 then none else sr e) (elemVal w.sfmt.toNat v)
    let k := (ix[0]?).getD 0
    let in1 := r.bitOff (r.indices (e % r.count))
    let kept (v : Nat) : Nat := if r.fmt = 1 then v / 2 ^ 13 * 2 ^ 13 else v
    (read (c.base w.s) (r.bitOff ix) r.width → write (c.base w.d) (r.bitOff ix) r.width → done (.copy w) moved c) ∧
    (e < r.count → read (c.base w.s) (c.rec2.bitOff (swap01 ix)) c.rec2.width → write (c.base w.d) (r.bitOff ix) r.width →
      done (.xpose w) moved c) ∧
    (e < r.count → r.fmt < 11 → read (c.base w.s) ((e * sw : Nat) : Int) sw → write (c.base w.d) (r.bitOff ix) r.width →
      done (.conv w) (m₁.writeBits A dst cv.1) { c with flags := c.flags ||| cv.2 }) ∧
    (e < r.count → 11 ≤ r.fmt → k % r.group ≠ 0 → write (c.base w.d) (r.bitOff ix) r.width →
      let x := (c.vals[k % r.group]?).getD 0
      done (.conv w) (m.writeBits A dst (x / 64)) { c with flags := c.flags ||| BitVec.ofNat 6 x }) ∧
    (∀ p bs, e < r.count → 11 ≤ r.fmt → k % r.group = 0 → write (c.base w.d) (r.bitOff ix) r.width →
      m.reachScales A c e r (r.lineOf ix) k = .ok p →
      m.readDense A c e (c.base w.s) sw e (min r.group (r.bound 0 - k)) = .ok (m₁, bs) →
      let g := groupScale r.fmt (bs.map (elemVal w.sfmt.toNat))
      let code (x : Nat × Nat) : Nat :=
        let q := groupCode r.fmt g.1 .rne (sr (e + x.2)) (signBit w.sfmt.toNat x.1) (elemVal w.sfmt.toNat x.1)
        64 * q.1 + q.2.toNat
      let codes := bs.zipIdx.map code
      done (.conv w) ((m₁.writeScales A p g.1).writeBits A dst ((codes[0]?).getD 0 / 64)) { c with
        flags := c.flags ||| (if g.2 then fNV else 0) ||| BitVec.ofNat 6 ((codes[0]?).getD 0), vals := codes }) ∧
    (e % r.count ≠ 0 → read (at0 w.s) in1 r.width → write (c.base w.d) packed r.width → done (.gather w) moved c) ∧
    (e % r.count ≠ 0 → read (c.base w.s) packed r.width → write (at0 w.d) in1 r.width → done (.scatter w) moved c) ∧
    (e % r.count ≠ 0 → read (at0 w.x) in1 r.width → write (c.base w.d) packed r.width → done (.iread w) moved c) ∧
    (∀ (m₂ : Mach) (off : Nat), e % r.count = 0 →
      let entry (list : Reg4) : Prop := m.readPlain A c e (c.base list + ((16 + 8 * (e / r.count) : Nat) : Int)) 8 = .ok (m₂, off)
      let c₂ : Cmd := { c with vals := [off] }
      let at1 (b : Reg4) : Int := c.base b + (BitVec.ofNat 64 off).toInt
      let open1 (a : Int) : Prop := 0 ≤ a ∧ a < 2 ^ 64 ∧ m₂.window (BitVec.ofInt 64 a) ≠ 3
      let read₂ (base bit : Int) : Prop := m₂.reachBits A .read c₂ e base bit r.width = .ok src ∧ m₂.readBits A src = .ok (m₁, v)
      let write₂ (base bit : Int) : Prop := m₂.reachBits A .write c₂ e base bit r.width = .ok dst
      (entry w.x → open1 (at1 w.s) → read₂ (at1 w.s) in1 → write₂ (c.base w.d) packed → done (.gather w) moved c₂) ∧
      (entry w.x → open1 (at1 w.d) → read₂ (c.base w.s) packed → write₂ (at1 w.d) in1 → done (.scatter w) moved c₂) ∧
      (entry w.s → open1 (at1 w.x) → ireadOk m₂ r (at1 w.x) = true → read₂ (at1 w.x) in1 → write₂ (c.base w.d) packed →
        done (.iread w) moved c₂)) ∧
    (∀ ds, read (c.base w.s) (r.bitOff ix) r.width →
      c.vals.mapM (fun (b : Nat) => m.reachBits A .write c e (b : Int) (r.bitOff ix) r.width) = .ok ds →
      done (.mcast w) (ds.foldl (fun m d => m.writeBits A d v) m₁) c) ∧
    (∀ pos mask, c.vals = [pos, mask] → e % 64 ≠ 0 → write (c.base w.d) (r.bitOff ix) r.width →
      (mask.testBit (e % 64) = false → done (.decomp w) (m.writeBits A dst 0) c) ∧
      (mask.testBit (e % 64) = true → read (c.base w.s) ((8 * pos + 64 + popBelow mask (e % 64) * r.width : Nat) : Int) r.width →
        done (.decomp w) moved c)) ∧
    (e % 64 ≠ 0 → done (.convZp w) m c) ∧
    (∀ pos m' es ps, e % 64 = 0 → c.vals = [pos] → pos < 2 ^ 32 →
      m.readDense A c e (c.base w.s) r.width e (min 64 (c.total - e)) = .ok (m', es) →
      let block := zpBlock r.width (es.map kept)
      m'.reach A .write 1 c e (c.base w.d + (pos : Int)) block.1 = .ok ps →
      done (.convZp w) (m'.writePlain A (c.base w.d + (pos : Int)) ps block.2) { c with vals := [pos + block.1] }) ∧
    (∀ offs crds vals p ws, c.vals = [offs, crds, vals, p] → e % r.bound 0 < 2 ^ 32 → p + 1 < 2 ^ 32 →
      read (c.base w.s) packed r.width →
      (fibreWrites r offs crds vals p e (kept v)).mapM (fun x => do
        let ps ← m₁.reach A .write 1 c e x.1 x.2.1
        Except.ok (x.1, ps, x.2.2)) = .ok ws →
      done (.convFib w) (ws.foldl (fun m x => m.writePlain A x.1 x.2.1 x.2.2) m₁)
        { c with vals := [offs, crds, vals, if kept v = 0 then p else p + 1] }) ∧
    (∀ pad, r.lines ≤ e → (r.padAt (e - r.lines)).2 % r.group ≠ 0 →
      m.writePad A c e (c.base w.d) r (e - r.lines) = .ok pad → done (.req w) pad c) ∧
    (∀ line ds ss, e < r.lines → m.readReqLine A c e (c.base w.s) e 0 (r.bound 0) = .ok (m₁, line) →
      let q := quantLine r.fmt .rne line
      q.1.zipIdx.mapM (fun x => do
        let d ← m₁.reachBits A .write c e (c.base w.d) (r.bitOff (r.indices (e * r.bound 0 + x.2))) r.width
        Except.ok (d, x.1.1)) = .ok ds →
      q.2.1.zipIdx.mapM (fun x => do
        let p ← m₁.reachScales A c e r e (r.group * x.2)
        Except.ok (p, x.1)) = .ok ss →
      done (.req w) (ds.foldl (fun m x => m.writeBits A x.1 x.2) (ss.foldl (fun m x => m.writeScales A x.1 x.2) m₁))
        { c with flags := q.1.foldl (fun a x => a ||| x.2) (c.flags ||| q.2.2) }) ∧
    (∀ m' line, e < r.lines → r.bound 0 = 1 → r.fmt ≠ 15 → m.readReqLine A c e (c.base w.s) e 0 1 = .ok (m', [line]) →
      let q := quantLine r.fmt .rne [line]
      ∀ v f sc ps, q.1 = [(v, f)] → q.2.1 = [sc] → m'.reachBits A .write c e (c.base w.d) (r.bitOff (r.indices e)) r.width = .ok dst →
        m'.reach A .write 1 c e ((r.scBase.toNat : Int) + r.scaleOff e 0) 1 = .ok ps →
        done (.req w) ((m'.writePlain A ((r.scBase.toNat : Int) + r.scaleOff e 0) ps sc).writeBits A dst v)
          { c with flags := c.flags ||| q.2.2 ||| f })

/-- R26, R118, R123, R290-R297, R308: the commands that read, modify and write at the home: one indivisible access each, at a scratchpad
in a position of its own. SIGNAL adds to a semaphore; ATOM adds, swaps or compares and swaps, and answers the old value in a(H);
ACCW and REDUCE combine, in order, once admission lets them; a COLL that has exchanged performs its receive elements from the
ranks' send elements, and completes when every participant has performed its writes.
That a turn performs one element is the model's choice (log entry 9). -/
def Obligations.ModifyingCommands : Prop :=
  ∀ (s : State) (w : TArgs) (c : Cmd) (e : Nat) (ps : Parts), atElement s c e →
    let m := s.mc
    let A := m.access s.ctl c
    let done (i : Instr) (res : Option (Reg4 × W64)) (m' : Mach) (c' : Cmd) : Prop :=
      exec i s = .next (elementDone s false w none res m' c' e)
    let n := if w.fn.toNat / 4 = 1 then 8 else 4
    let at0 : Int := (((c.reg w.d).toNat / n * n : Nat) : Int)
    let old := (m.readParts ps).2
    let x := (c.reg w.s).toNat
    let stored : Nat × Flags := match w.fn.toNat % 4, w.fn.toNat / 4 with
      | 0, 2 => addF32 old (x % 2 ^ 32)
      | 0, _ => ((old + x) % 2 ^ (8 * n), 0)
      | 1, _ => (x % 2 ^ (8 * n), 0)
      | _, _ => (if old = (c.reg w.x).toNat % 2 ^ (8 * n) then x % 2 ^ (8 * n) else old, 0)
    let answer : W64 := if w.fn.toNat / 4 = 0 then (BitVec.ofNat 32 old).signExtend 64 else BitVec.ofNat 64 old
    let op := w.fn.toNat
    let kind := collKind w
    let wd := collBits kind c.recd
    let v := c.coll
    (m.reachSem A c w.d = .ok ps →
      (m.mustWait A (c.base w.d) ps = false → done (.signal w) none
        (((m.usePos A ps).noteWrite A (c.base w.d) ps).addSem (firstKey ps) (w.imm16.signExtend 64)) c) ∧
      (m.mustWait A (c.base w.d) ps = true → exec (.signal w) s = .next (s.putCtx { s.ctx with
        ep := BitVec.ofNat 64 e, hold := .none, st := .running }))) ∧
    (m.reach A (.rmw (w.fn.toNat / 4 != 2)) 2 c e at0 n = .ok ps →
      (m.mustWait A at0 ps = false → done (.atom w) (some (w.h, answer))
        ((m.readParts ps).1.writeNow A at0 ps stored.1) { c with flags := c.flags ||| stored.2, vals := [old] }) ∧
      (m.mustWait A at0 ps = true → exec (.atom w) s = .next (s.putCtx { s.ctx with
        again := s.ctx.got, hold := .none, st := .running }))) ∧
    (∀ src m₁ x m' f, op ≠ 1 → m.reach A .read 0 c e (c.elemAddr (opBitsOf op) (c.base w.s) e) (opBitsOf op / 8) = .ok src →
      m.reach A (.rmw false) 2 c e (c.elemAddr (opBitsOf op) (c.base w.d) e) (opBitsOf op / 8) = .ok ps →
      m.readFor A (c.elemAddr (opBitsOf op) (c.base w.s) e) src = .ok (m₁, x) →
      m₁.rmwElem A (c.elemAddr (opBitsOf op) (c.base w.d) e) ps (fun old => combineElem op old x) = .ok (m', f) →
      done (.accw w) none m' { c with flags := c.flags ||| f }) ∧
    (∀ m₁ m' ss f, op ≠ 1 → m.readSources A c op e c.vals = .ok (m₁, ss) →
      m₁.reach A (.rmw false) 2 c e (c.elemAddr (opBitsOf op) (c.base w.d) e) (opBitsOf op / 8) = .ok ps →
      m₁.rmwElem A (c.elemAddr (opBitsOf op) (c.base w.d) e) ps (fun old => combineAll op old (ss.map (·.2))) = .ok (m', f) →
      done (.reduce w) none m' { c with flags := c.flags ||| f }) ∧
    (∀ (r : CollRun) dst m₁ vs, c.exchanged = true → m.collRun v.gid v.nth = some r → r.failed = false → e + 1 < c.total →
      m.reachBits A (if kind ≤ 1 then .rmw false else .write) c e (c.base w.d)
        (c.recd.bitAt wd (c.recd.indices (if kind = 1 then v.me * (c.total - 1) + e else e))) wd = .ok dst →
      m.readSends s.ctl c r.peers (collSources kind v.np v.me c.recd.count e) = .ok (m₁, vs) →
      (kind ≤ 1 → m₁.mustWait A dst.addr dst.parts = false) →
      let got := collValue kind (collOp w) vs
      done (.coll w) none (if kind ≤ 1 then m₁.writeNow A dst.addr dst.parts got.1 else m₁.writeBits A dst got.1)
        { c with flags := c.flags ||| got.2 }) ∧
    (∀ (r : CollRun), c.exchanged = true → m.collRun v.gid v.nth = some r → r.failed = false → e + 1 = c.total →
      (m.engine s.ctl.eng).cmdOut s.ctl.eng 3 s.ctl.ctx.val c.id = false →
      let ended := if r.done.contains v.me then r.done else v.me :: r.done
      let m₁ := m.setRun { r with done := ended }
      let all : Prop := (r.peers = [] ∨ r.peersDone = true) ∧ v.np ≤ ended.length + r.peers.length
      (all → done (.coll w) none m₁ c) ∧
      (¬all → exec (.coll w) s = .next (s.put (m₁.setCtx s.ctl.eng s.ctl.ctx { m₁.ctx s.ctl.eng s.ctl.ctx with
        got := [], again := [], cmd := some c, ep := BitVec.ofNat 64 e, hold := .none, st := .running })))) ∧
    (∀ n k f, A.eng = some n → m.admHeld n (firstKey ps) = true → m.rmwElem A k ps f = .error (.later m .admission)) ∧
    (∀ n k f, A.eng = some n → m.admHeld n (firstKey ps) = false → m.mustWait A k ps = true → m.rmwElem A k ps f = .error (.later m .none))

/-- A command ended before its elements (R298, R300), with the compare flag clear: the context goes on to its next word at `e`. -/
def Sys2Proof.Machine.gaveUp (s : State) (w : TArgs) (m : Mach) (c : Cmd) : State :=
  let x := m.ctx s.ctl.eng s.ctl.ctx
  let scope := if w.ord = 0 then 0 else w.scope.toNat
  s.put ((m.setCtx s.ctl.eng s.ctl.ctx { x with
    st := .running, cmd := none, hold := .none, got := [], again := [], tpc := x.tpc + 16, flag := false
    flight := x.flight ++ [⟨c.id, scope, if w.te then some w.tag else none, c.flags, none⟩] }).noteDone s.ctl.eng s.ctl.ctx.val c.id)

/-- R26, R110, R114, R121, R298-R302, R304: SEMWT holds, gives up or waits, and sets the compare flag; a ring command tests
its ring, moves a slot and, in a later position, once its writes are performed, counts it, or gives up; what finds its count or its slot
acquires; TAGSET is in flight at once and sets its tag when it completes; TREL and TFENCE pass once what happens before them is
performed at their scope, from package scope on the triples of earlier UPDs too; TACQ passes; PREF and MIGH ask for or hint each TIERED page, and pass over any other.
That a turn performs one element is the model's choice (log entry 9). -/
def Obligations.SynchronisingCommands : Prop :=
  ∀ (s : State) (w : TArgs) (c : Cmd) (e : Nat) (ps : Parts),
    let m := s.mc
    let A := m.access s.ctl c
    let g := m.engine s.ctl.eng
    let x := s.ctx
    let key := firstKey ps
    let sem := (BitVec.ofNat 64 (m.rd key 8)).toInt
    let count : Nat := w.imm64.toNat % 2 ^ 16
    let lim := w.imm64.toNat / 2 ^ 32
    let since := match x.hold with
      | .test t => t
      | _ => s.ctl.cyc
    let inTime : Prop := lim = 0 ∨ s.ctl.cyc < since + 256 * lim
    let past : Ctx := { x with tpc := x.tpc + 8 }
    let b := m.rd key 32
    let m₁ := m.usePos A ps
    let waits : State := s.putCtx { x with hold := .test since, st := .waiting, cmd := some c, ep := BitVec.ofNat 64 e }
    let acquired : Mach := match s.ctl.eng with
      | .core n => m₁.setCtx s.ctl.eng s.ctl.ctx { m₁.ctx s.ctl.eng s.ctl.ctx with upd := (m.core n.val).emit.written }
      | _ => m₁
    let keep (c' : Cmd) : State := s.putCtx { x with cmd := some c', ep := BitVec.ofNat 64 e, hold := .none, st := .running }
    let retry (m' : Mach) (c' : Cmd) : State := s.put (m'.setCtx s.ctl.eng s.ctl.ctx { m'.ctx s.ctl.eng s.ctl.ctx with
      got := [], again := [], cmd := some c', ep := BitVec.ofNat 64 e, hold := .none, st := .running })
    let performed := CtxPerformed s w.scope.toNat
    (atElement s c e → c.total = 1 → m.reachSem A c w.d = .ok ps → m.mustWait A (c.base w.d) ps = false →
      ((count : Int) ≤ sem → inTime → exec (.semwt w) s = .next (elementDone s true w (some true) none
        (if w.fn.getLsbD 0 then (acquired.noteWrite A (c.base w.d) ps).addSem key (0 - BitVec.ofNat 64 count) else acquired) { c with vals := [1] } e)) ∧
      (sem < (count : Int) → lim ≠ 0 → exec (.semwt w) s = .next waits) ∧
      (sem < (count : Int) → lim = 0 → exec (.semwt w) s = .next (gaveUp s w m₁ { c with vals := [0] }))) ∧
    (atElement s c e → m.reachSem A c w.d = .ok ps → m.mustWait A (c.base w.d) ps = true → exec (.semwt w) s = .next waits) ∧
    (atElement s c e → m.reachRing A c w.x = .ok ps → c.vals = [1] → m.mustWait A (c.base w.x) ps = false →
      g.cmdOut s.ctl.eng 3 s.ctl.ctx.val c.id = false →
      (ringClaim b = 0 → exec (.rfill w) s = .next (elementDone s true w (some true) none
        ((m₁.noteWrite A (c.base w.x) ps).wr key 32 (putFld b 16 4 (ringTail b + 1))) { c with vals := [0] } e)) ∧
      exec (.rdrain w) s = .next (elementDone s true w (some true) none
        ((m₁.noteWrite A (c.base w.x) ps).wr key 32 (putFld b 12 4 (ringHead b + 1))) { c with vals := [0] } e)) ∧
    (atElement s c e → m.reachRing A c w.x = .ok ps → c.vals = [1] →
      m.mustWait A (c.base w.x) ps = true ∨ g.cmdOut s.ctl.eng 3 s.ctl.ctx.val c.id = true →
      exec (.rfill w) s = .next (keep c) ∧ exec (.rdrain w) s = .next (keep c)) ∧
    (atElement s c e → m.reachRing A c w.x = .ok ps → c.vals = [0] → m.mustWait A (c.base w.x) ps = false → ringCheck b = none →
      (inTime → ringClaim b = 0 → 1 ≤ ringFree b → exec (.rfill w) s = .next (retry acquired { c with vals := [3, b] })) ∧
      (inTime → 1 ≤ ringFilled b → exec (.rdrain w) s = .next (retry acquired { c with vals := [3, b] })) ∧
      (ringClaim b = 0 → ringFree b < 1 → exec (.rfill w) s = .next (if lim = 0 then gaveUp s w m₁ { c with vals := [2] } else waits)) ∧
      (ringFilled b < 1 → exec (.rdrain w) s = .next
        (if ringState b = 1 ∨ lim = 0 then gaveUp s w m₁ { c with vals := [2] } else waits))) ∧
    (∀ old m', atElement s c e → c.vals = [3, old] →
      (ringMove true w A m c e old = .ok m' → exec (.rfill w) s = .next (retry m' { c with vals := [1] })) ∧
      (ringMove false w A m c e old = .ok m' → exec (.rdrain w) s = .next (retry m' { c with vals := [1] }))) ∧
    (x.cmd = none → x.flight = [] → ¬((w.ord = 1 ∨ w.ord = 3) ∧ ¬performed) → exec (.tagset w) s = .next (s.put
      (((s.begunCmd w).setCtx s.ctl.eng s.ctl.ctx { past with
        ep := 0, since := s.ctl.cyc, st := .running, hold := .none, got := [], again := []
        flight := [⟨g.nextId, if w.ord = 0 then 0 else w.scope.toNat, if w.te then some w.tag else none, 0, none⟩] }).noteDone
          s.ctl.eng s.ctl.ctx.val g.nextId))) ∧
    (performed →
      let t := s.put ((s.toldCtx w.scope.toNat).setCtx s.ctl.eng s.ctl.ctx past)
      exec (.trel w) s = .next t ∧ exec (.tfence w) s = .next t) ∧
    (¬performed → exec (.trel w) s = .next s ∧ exec (.tfence w) s = .next s) ∧
    exec (.tacq w) s = .next (s.putCtx past) ∧
    (atElement s c e → m.tieredAt s.ctl.eng ((c.vals[e]?).getD 0) = .ok none →
      exec (.pref w) s = .next (elementDone s false w none none m c e) ∧
      exec (.migh w) s = .next (elementDone s false w none none m c e)) ∧
    (∀ m' p, atElement s c e → m.tieredAt s.ctl.eng ((c.vals[e]?).getD 0) = .ok (some (m', p)) →
      let target := if w.fn = 0 then nearOf s.ctl.eng else farOf (p.pa / 2 ^ 48)
      let hint := if w.fn = 0 then 1 else if w.fn = 1 then 2 else 0
      exec (.pref w) s = .next (elementDone s false w none none { m' with
        prefs := vset m'.prefs (halfOf target) (vget m'.prefs (halfOf target) [] ++ [⟨p.asid, p.va, target⟩]) } c e) ∧
      exec (.migh w) s = .next (elementDone s false w none none { m' with pages := m'.pages.map fun q =>
        if q.asid = p.asid ∧ q.va = p.va then { q with hint := hint } else q } c e))

/-- R24, R120, R142, R303, R305, R306, R333, R363-R365: FOLLOW reads its word, offers it to the port and waits; FOLLOW_ACCEPT takes it while
the port holds fewer than four, once the writes of the context's earlier commands to the scratchpad are performed, and in the order
in which the commands before it were done; its accumulators become follow-owned. UDRAIN applies the region's pending triples; URGN
with OP 0 deletes a region that no task maps, and otherwise creates one that meets every requirement, unless its descriptor lies in
a semaphore area; either ends replayability.
That a turn performs one element is the model's choice (log entry 9). -/
def Obligations.FollowAndRegions : Prop :=
  ∀ (s : State) (w : TArgs) (c : Cmd) (e : Nat),
    let m := s.mc
    let A := m.access s.ctl c
    let x := s.ctx
    let g := m.engine s.ctl.eng
    let begun := s.begunCmd w
    let new := s.newTransfer (.follow w) w
    let ready (i : Fin 4) : Prop := g.ctxOut s.ctl.eng 0 i.val = false
    let mine : Prop := ready s.ctl.ctx ∧ ∀ i : Fin 4, (g.ctx i).hold = .port → ready i → x.doneNo ≤ (g.ctx i).doneNo
    let spent (m : Mach) : Mach := match s.ctl.eng with
      | .core n => m.setCore n.val { m.core n.val with task := (m.core n.val).task.map fun b => { b with replayable := false } }
      | _ => m
    (∀ m' v, x.cmd = none → x.flight = [] → ¬((w.ord = 1 ∨ w.ord = 3) ∧ ¬CtxPerformed s w.scope.toNat) →
      windowCode (vget x.a w.s.toNat 0) = 1 → (vget x.a w.s.toNat 0).toNat % 8 = 0 →
      begun.readPlain (begun.access s.ctl new) new 0 ((vget x.a w.s.toNat 0).toNat : Int) 24 = .ok (m', v) →
      followWordOk v = true →
      exec (.follow w) s = .next (s.put (m'.setCtx s.ctl.eng s.ctl.ctx { m'.ctx s.ctl.eng s.ctl.ctx with
        got := [], again := [], cmd := some { new with total := 1, vals := [v], started := true }, ep := 0, hold := .port, st := .running }))) ∧
    (∀ n v b, s.ctl.eng = .core n → (m.core n.val).task = some b → b.running = true →
      x.hold = .port → x.cmd = some c → c.word = .follow w → c.vals = [v] →
      let k := m.core n.val
      (4 ≤ k.mat.port.length ∨ ¬mine → exec .followAccept s = .next s) ∧
      (k.mat.port.length < 4 → mine → ∃ o : BitVec 4,
        (∀ a < 4, o.getLsbD a = (k.mat.owned.getLsbD a || argNames (MArgs.ofNat v) a)) ∧
        exec .followAccept s = .next (s.put (((m.setCore n.val { k with
          mat := { k.mat with port := k.mat.port ++ [portEntry v s.ctl.cyc], owned := o } }).setCtx s.ctl.eng s.ctl.ctx { x with
            st := .running, cmd := none, hold := .none, got := [], again := [], tpc := x.tpc + 8
            flight := x.flight ++ [⟨c.id, if w.ord = 0 then 0 else w.scope.toNat, if w.te then some w.tag else none, c.flags, none⟩] }).noteDone
              s.ctl.eng s.ctl.ctx.val c.id)))) ∧
    (∀ ps nd r, atElement s c e → m.reachUpdate A c (c.reg w.d) = .ok ps → m.regionAt (firstKey ps) = some (nd, r) →
      let status := m.statusPlaces ps
      m.mustWait A (c.base w.d) status = false →
      exec (.udrain w) s = .next (elementDone s false w none none ((m.usePos A status).applyRegion nd r.rid) c e)) ∧
    (∀ ps nd d, atElement s c e → nd = (c.reg w.d).toNat / 2 ^ 48 → (c.reg w.s).toNat % 64 = 0 →
      m.reach A .read 4 c 0 (c.base w.s) 64 = .ok ps →
      m.readFor A (c.base w.s) ps = .ok d →
      let r := regionOfDesc d.2 (c.reg w.d).toNat (firstKey ps) (d.1.freeRid nd)
      (∀ old, fld d.2 0x20 1 = 0 → nd < 8 → (vget d.1.basins nd []).find? (fun r => r.base == (c.reg w.d).toNat) = some old →
        d.1.mapsRegion old = false → d.1.mustWait A (c.base w.s) [(old.descAt + 0x22, 2)] = false →
        exec (.urgn w) s = .next (elementDone s false w none none
          (spent ((d.1.usePos A [(old.descAt + 0x22, 2)]).deleteRegion nd old)) c e)) ∧
      (fld d.2 0x20 1 ≠ 0 → d.1.createOk (c.reg w.d).toNat d.2 r = true → inSemPlace ps = false → d.1.mustWait A (c.base w.s) ps = false →
        exec (.urgn w) s = .next (elementDone s false w none none (spent ((d.1.usePos A ps).createRegion nd r)) c e)))

/-! ## Transfer contexts: events -/

/-- R116, R197, R257, R265, R269-R272, R279, R377: INVOCATION_START gives the oldest queued invocation to the lowest free context while
the engine's task runs; a command whose writes its scope covers have been performed completes: it merges its flags, writes its
result, then sets its tag, and ends an invocation whose TEND waited for it; a page walk that ends gives the TLBs a leaf, waits for
a page that is being moved, or suspends the context with a record and an event; a suspension that system software ends as a fault
stops the context, and faults the ring of RFILL and RDRAIN. -/
def Sys2Proof.Machine.ContextEvents : Prop :=
  ∀ (s : State),
    let m := s.mc
    let e := s.ctl.eng
    let g := m.engine e
    let x := s.ctx
    let free (i : Fin 4) : Prop := (g.ctx i).st = .free
    let live : Prop := ∀ n, e = .core n → ∃ b, (m.core n.val).task = some b ∧ b.running = true
    let known : Nat := match e with
      | .core n => max (m.core n.val).lastQ6 (m.core n.val).lastSem
      | _ => 0
    let partOf : Nat := ((m.boundOf e).map fun b => b.part.toNat).getD 0
    let tidOf : Nat := ((m.boundOf e).map (·.tid)).getD 0
    let d := engineDie e
    let second (t : TlbEntry) (m : Mach) : Mach := if d < 8 then { m with tlb2 := vset m.tlb2 d (tlb2Install t (vget m.tlb2 d [])) } else m
    (∀ entry arg rest (i : Fin 4), live → g.invq = (entry, arg) :: rest → free i → (∀ j, j < i → ¬free j) →
      exec .invocationStart s = .next (s.put (m.setEngine e { g with invq := rest, ctxs := vset g.ctxs i.val { Ctx.init with
        flight := (g.ctx i).flight, upd := known, a := vset Ctx.init.a 0 arg, tpc := BitVec.ofNat 32 (8 * entry.toNat), st := .running } }))) ∧
    (g.invq = [] ∨ (∀ i, ¬free i) ∨ ¬live → exec .invocationStart s = .next s) ∧
    (∀ n (f : Flight), e = .core n → x.flight[s.ctl.occ.k]? = some f → g.cmdOut e f.scope s.ctl.ctx.val f.id = false →
      let c := m.core n.val
      let y : Ctx := { x with
        flight := x.flight.eraseIdx s.ctl.occ.k
        a := match f.result with
          | some r => vset x.a r.1.toNat r.2
          | none => x.a }
      exec .transferCommandComplete s = .next (s.put
        ((m.setEngine e { g with
            ctxs := vset g.ctxs s.ctl.ctx.val (if x.ending = true ∧ x.flight.length = 1 then Ctx.init else y)
            posts := g.posts.map fun p => if p.ctx = s.ctl.ctx.val ∧ p.id = f.id then { p with done := some c.emit.written } else p }).setCore
          n.val { c with
            x := { c.x with fsrNew := c.x.fsrNew ||| f.flags.setWidth 64 }
            tagNew := match f.tag with
              | some t => c.tagNew ||| BitVec.twoPow 64 t.toNat
              | none => c.tagNew }))) ∧
    (∀ f : Flight, x.flight[s.ctl.occ.k]? = some f → g.cmdOut e f.scope s.ctl.ctx.val f.id = true →
      exec .transferCommandComplete s = .next s) ∧
    (∀ va kind l, x.hold = .walk va kind → x.rung = false → m.walk g.asid va ((segAt g.segs va).map Seg.cl) = .notPresent l →
      let u : Susp := ⟨0x80, 1, l, kind, (x.cmd.map (·.off)).getD 0, x.ep, BitVec.ofNat 64 va, 0⟩
      exec .pageWalkComplete s = .next (s.put ((m.setCtx e s.ctl.ctx { x with
        st := .suspended, susp := u, hold := .none, got := [], again := [] }).reportMore
        0x80 partOf tidOf (BitVec.ofNat 64 va) ⟨g.asid, l, 1⟩))) ∧
    (∀ va kind v size p cl, x.hold = .walk va kind → (segAt g.segs va).map Seg.cl = some cl →
      m.walk g.asid va (some cl) = .leaf v size p →
      let m₁ := if cl = 2 then m.notePage g.asid v size p else m
      let t : TlbEntry := ⟨g.asid, v, size, p⟩
      (m.heldByMove p = true → exec .pageWalkComplete s = .next s) ∧
      (m.heldByMove p = false → exec .pageWalkComplete s = .next (s.put
        ((second t (m₁.tlbPut e t)).setCtx e s.ctl.ctx { x with hold := .none, rung := false })))) ∧
    ((∀ va kind, x.hold ≠ .walk va kind) → exec .pageWalkComplete s = .next s) ∧
    (∀ c, s.ctl.occ.num ≠ 1 → x.st = .suspended → x.cmd = some c → x.susp.cause = 0x80 ∨ x.susp.cause = 0x83 →
      let A := m.access s.ctl c
      let m₀ := m.setCtx e s.ctl.ctx { x with susp := Susp.none }
      let after := match c.word with
        | .rfill w => ringOnFault true w A m₀ c x.susp.cause
        | .rdrain w => ringOnFault false w A m₀ c x.susp.cause
        | _ => some m₀
      (∀ m₁, after = some m₁ → exec .suspensionEndedAsFault s = .next (s.put ((m₁.setCtx e s.ctl.ctx { m₁.ctx e s.ctl.ctx with
        ep := x.ep, st := .stopped, code := x.susp.cause, fault := some ⟨x.susp.cause, x.susp.va, x.ep⟩
        cmd := none, hold := .none, got := [], again := [] }).mergeFlags e c.flags))) ∧
      (after = none → exec .suspensionEndedAsFault s = .next (s.putCtx { x with
        susp := Susp.none, st := .running, hold := .none
        cmd := some (c.faulting x.ep.toNat x.susp.cause x.susp.va x.ep) }))) ∧
    (∀ c w, x.cmd = some c → live →
      (x.hold = .admission → c.word = .accw w → exec .admissionGrant s = exec (.accw w) s) ∧
      (x.hold = .admission → c.word = .reduce w → exec .admissionGrant s = exec (.reduce w) s) ∧
      (∀ t, x.hold = .test t → c.word ∈ [Instr.semwt w, .rfill w, .rdrain w] →
        exec .contextWaitSatisfied s = exec c.word s)) ∧
    (∀ w, ∀ p ∈ dataTable w, ∀ c c' el m', live → atElement s c el → c.word = p.1 →
      p.2.2.elem s.ctl (m.access s.ctl c) m c el = .ok (m', c', .next) →
      let t := elementDone s p.2.1 w (p.2.2.flag c') (p.2.2.result c') m' c' el
      (x.hold = .admission → p.1 ∈ [Instr.accw w, .reduce w] → exec .admissionGrant s = .next t) ∧
      (∀ at0, x.hold = .test at0 → p.1 ∈ [Instr.semwt w, .rfill w, .rdrain w] → exec .contextWaitSatisfied s = .next t)) ∧
    (x.hold = .none ∨ ¬live → exec .admissionGrant s = .next s ∧ exec .contextWaitSatisfied s = .next s)

/-- R123, R307, R308: COLL_EXCHANGE while a participant of the group is missing changes nothing; when all have started and agree, the
participant of the package goes on to its receive elements; when their descriptors disagree, or one breaks a rule, it stops with
SHAPE_INVALID at its record, if that is at fault, or else at its list; after the exchange it takes note that the peers' participants
have performed their writes. -/
def Sys2Proof.Machine.CollectiveExchange : Prop :=
  ∀ (s : State),
    let m := s.mc
    let gid := s.ctl.occ.gid.toNat
    let ps := m.waiting gid s.ctl.occ.k
    let peers := s.ctl.occ.peers
    let nth := s.ctl.occ.k
    let new := m.collRun gid nth = none
    let begun (failed : Bool) : Mach := { m with colls := ⟨gid, nth, failed, peers, [], false⟩ :: m.colls }
    (∀ r, m.collRun gid nth = some r →
      (s.ctl.occ.num = 1 → exec .collExchange s = .next (s.put (m.setRun { r with peersDone := true }))) ∧
      (s.ctl.occ.num ≠ 1 → exec .collExchange s = .next s)) ∧
    (new → collStartedAll ps peers = false → exec .collExchange s = .next s) ∧
    (∀ p, new → ps = [p] → collStartedAll ps peers = true → collAgree ps peers = false → exec .collExchange s = .next (s.put
      (((begun true).setCtx p.eng p.ctx { m.ctx p.eng p.ctx with
        ep := 0, st := .stopped, code := 0x12, cmd := none, hold := .none, got := [], again := []
        fault := some ⟨0x12, p.cmd.reg (if p.cmd.coll.status = 3 then p.word.h else p.word.x), 0⟩ }).mergeFlags p.eng p.cmd.flags))) ∧
    (∀ p, new → ps = [p] → collStartedAll ps peers = true → collAgree ps peers = true → exec .collExchange s = .next (s.put
      ((begun false).setCtx p.eng p.ctx { m.ctx p.eng p.ctx with
        cmd := some { p.cmd with vals := p.cmd.vals.take 4 ++ [2] ++ p.cmd.vals.drop 5 }, ep := 0, hold := .none, st := .running })))

/-- R116, R123, R197, R257, R265, R269-R272, R279, R307, R308, R377: the events of contexts, the collective exchange among them,
in one statement. An event whose condition does not hold changes nothing (log entry 6). The exchange as one event is log entry
28's. -/
def Obligations.EventsOfContexts : Prop := ContextEvents ∧ CollectiveExchange

/-! ## The lock-keeper -/

/-- R133, R134, R259-R261, R386, R396, R398: BIND_DISPATCH of a valid record on a free core whose copies succeed leaves the task bound
and started: X at its entry with the arguments in s1-s8, L, C and S at theirs, every other register zero, predicates at 0x80; the
record is done. A page fault holds the core with the address it waits for, and what has been copied is kept; any other fault ends the
task with state 2 once its status record can be written. A fast-path
bind on the core that the enqueue gave the task starts it without the copies, unless that core has been taken or invalidated since.
An event whose condition does not hold changes nothing (log entry 6). The readings of log entry 29 hold. -/
def Obligations.BindsStartTasks : Prop :=
  (∀ (m : Mach) (k : Ctl) (n : Fin 320) (b : Bound),
    let c := (m.startTask k n b).core n.val
    c.task = some b ∧ c.x.pc = BitVec.ofNat 32 (4 * b.desc.entX) ∧ c.l.pc = BitVec.ofNat 32 (4 * b.desc.entL) ∧
    c.c.pc = BitVec.ofNat 32 (4 * b.desc.entC) ∧ c.s.pc = BitVec.ofNat 32 (4 * b.desc.entS) ∧
    (∀ i : SReg, c.x.getS i = if 1 ≤ i.toNat then (b.desc.args[i.toNat - 1]?).getD 0 else 0) ∧
    c.x.p = 0x80 ∧ c.l.p = 0x80 ∧ c.x.fcr = 0 ∧ c.x.fsr = 0 ∧ (∀ r, c.l.getK r = 0 ∧ c.c.getK r = 0 ∧ c.s.getK r = 0) ∧
    c.tagr = 0 ∧ c.trap = TrapRegs.init ∧ c.sp = (m.core n.val).sp ∧ c.istore = (m.core n.val).istore) ∧
  ∀ (s : State) (t : Task) (r : BindRec) (m' : Mach),
    let m := s.mc
    let n := s.ctl.cur
    let b := t.bound (r.since.getD s.ctl.tick)
    vget m.slots n.val BindRec.init = r → m.taskOf r.tid = some t →
    let open1 : Prop := r.valid = true ∧ r.waitVa = none ∧ (m.core n.val).task = none
    let kept (m' : Mach) (run : BindRun) : BindRec := { vget m'.slots n.val BindRec.init with since := some b.tick0, run := run }
    (∀ run, open1 → r.failed = none → r.kind = 0 → m.bindFresh s.ctl n b r.run = .ok (m', run) →
      exec .bindDispatch s = .next (s.put ((m'.bindDone n.val t).mapTask t.tid fun u => { u with replayAt := 0 }))) ∧
    (∀ run code i0, open1 → r.failed = none → r.kind = 0 → t.frame = none →
      m.bindFresh s.ctl n b r.run = .error (m', run, .fault code i0) →
      let m₁ := { m' with slots := vset m'.slots n.val { kept m' run with failed := some (code, i0) } }
      (m₁.mayEnd s.ctl.cyc n b = true → exec .bindDispatch s = .next (s.put
        (m₁.endTask s.ctl n.val b 2 ⟨code, 4, BitVec.ofNat 32 (4 * t.desc.entX), i0, 0, false⟩))) ∧
      (m₁.mayEnd s.ctl.cyc n b = false → exec .bindDispatch s = .next (s.put m₁))) ∧
    (∀ code i0, open1 → r.failed = some (code, i0) → t.frame = none →
      (m.mayEnd s.ctl.cyc n b = true → exec .bindDispatch s = .next (s.put
        (m.endTask s.ctl n.val b 2 ⟨code, 4, BitVec.ofNat 32 (4 * t.desc.entX), i0, 0, false⟩))) ∧
      (m.mayEnd s.ctl.cyc n b = false → exec .bindDispatch s = .next s)) ∧
    (∀ run va l u, open1 → r.failed = none → r.kind = 0 →
      m.bindFresh s.ctl n b r.run = .error (m', run, .page va l u) →
      exec .bindDispatch s = .next (s.put ({ m' with slots := vset m'.slots n.val { kept m' run with
        waitVa := some va } }.reportMore 0x80 t.part t.tid (BitVec.ofNat 64 va) ⟨t.asid, l, u⟩))) ∧
    (∀ run, open1 → r.failed = none → r.kind = 0 → m.bindFresh s.ctl n b r.run = .error (m', run, .wait) →
      exec .bindDispatch s = .next (s.put { m' with slots := vset m'.slots n.val (kept m' run) })) ∧
    (r.valid = false ∨ r.waitVa.isSome = true ∨ (m.core n.val).task.isSome = true → exec .bindDispatch s = .next s) ∧
    (∀ (j : Fin 320) at0, m.taskOf s.ctl.occ.tid = some t → t.fast = some (j.val, at0) →
      (m.coreOpen j.val = true → m.isWarm t j.val = true → exec .fastPathBind s = .next (s.put (m.bindFast s.ctl j t)) ∧
        (badDecl (m.engine (.core j)).segs t.ext = none → ((m.bindFast s.ctl j t).core j.val).task = some (t.bound s.ctl.tick)) ∧
        (∀ i, badDecl (m.engine (.core j)).segs t.ext = some i →
          let m₁ := (m.unmoor t).mapTask t.tid fun u => { u with fast := none, st := .binding }
          m.bindFast s.ctl j t = { m₁ with slots := vset m₁.slots j.val (BindRec.new t.tid t.descAddr 0 t.vers 0) }.bindStopped s.ctl j t
            (t.bound s.ctl.tick) BindRun.init (.fault 0x81 (BitVec.ofNat 64 (0x100 + i))))) ∧
      (m.coreOpen j.val = false ∨ m.isWarm t j.val = false →
        exec .fastPathBind s = .next (s.put (m.mapTask t.tid fun u => { u with fast := none })))) ∧
    (m.taskOf s.ctl.occ.tid = some t → t.fast = none → exec .fastPathBind s = .next s) ∧
    (∀ j, m.fastCore t = some j → t.st = .ready ∧ t.ext.npre = 0 ∧ t.ext.ndisc = 0 ∧ m.eligible t j = true ∧ m.isWarm t j = true ∧
      ∀ u ∈ m.tasks, u.tid ≠ t.tid → u.part = t.part → u.candidate = true → u.prio < t.prio)

/-- R384, R388, R392, R393, R395: SELECTION, once what can be promoted has been, writes the bind record of each candidate in turn, replays
first, then by priority and tid, on a warm core or the lowest free one of its affinity, and asks to pre-empt for those it passes
over; OVERFLOW_PROMOTION lets the oldest record of a ring with a free mooring into the table, that of the lowest tid first;
RENAMED_SET_COPY copies a last version and lets go those that wait for it.
An event whose condition does not hold changes nothing (log entry 6). The readings of log entry 29 hold. -/
def Obligations.SelectionAndPools : Prop :=
  ∀ (s : State) (t u : Task),
    let m := s.mc
    let p := s.ctl.occ.part.val
    let m₁ := m.promoteAll
    let after := m₁.forgetYields p
    let picked := after.selectAll (m₁.candidates p)
    let record (t : Task) (kind : BitVec 2) : BindRec := ⟨t.tid, t.descAddr, t.frame.getD 0, t.vers, kind, true, none, none, BindRun.init, none⟩
    (m.promotable = none → m₁ = m) ∧
    (m₁.selStopped p = true → exec .selection s = .next (s.put m₁)) ∧
    (m₁.selStopped p = false → exec .selection s = .next (s.put (picked.1.preemptFor none picked.2))) ∧
    (∀ n, m₁.selStopped p = false → m₁.candidates p = [t] → t.st = .ready → t.replay = false → after.chooseCore t = some n →
      exec .selection s = .next (s.put ({ after with unmoored := after.unmoored + 1, slots := vset after.slots n (record t 0) }.mapTask t.tid
        fun v => { v with st := .binding }))) ∧
    (t.replay = true → u.replay = false → m.before t u = true) ∧
    (t.replay = u.replay → u.prio < t.prio → m.before t u = true ∧ m.before u t = false) ∧
    (t.replay = u.replay → u.prio = t.prio → t.behind = [] → u.behind = [] → t.tid < u.tid → m.before t u = true) ∧
    (∀ n, m.chooseCore t = some n → m.eligible t n = true ∧ t.desc.affinity.getLsbD (n / 40) = true ∧ (m.core n).task = none ∧
      ∀ v ∈ m.tasks, ∀ at0, v.fast ≠ some (n, at0)) ∧
    (m.promotable = some t →
      (m.moorFree t.part = true ∧ (∃ v, m.oldestOverflow t.part = some v ∧ v.tid = t.tid) ∧
        ∀ q v, m.moorFree q = true → m.oldestOverflow q = some v → t.tid ≤ v.tid) ∧
      (t.part = p → exec .overflowPromotion s =
        .next (s.put ((m.setPart p { m.partition p with ovHead := (m.partition p).ovHead + 1 }).enterTable t))) ∧
      (t.part ≠ p → exec .overflowPromotion s = .next s)) ∧
    (m.promotable = none → (∀ q v, m.oldestOverflow q = some v → m.moorFree q = false) ∧ exec .overflowPromotion s = .next s) ∧
    (m.oldestOverflow p = none ∨ m.moorFree p = false → exec .overflowPromotion s = .next s) ∧
    (∀ (x : RenSet) (m' : Mach), m.sets.find? (fun x => x.copying && x.asid == s.ctl.occ.asid && x.decl.base.toNat == s.ctl.occ.addr) = some x →
      m.copyRows (m.copyAccess x) ((x.decl.rens[x.latest - 1]?).getD x.decl.base).toNat x.decl.base.toNat x.decl.stride x.decl.rowBytes
        x.decl.rows = (m', none) →
      exec .renamedSetCopy s = .next (s.put { m' with
        sets := m'.sets.filter fun y => !(y.copying && y.asid == x.asid && y.decl.base == x.decl.base)
        tasks := m'.tasks.map fun v => ({ v with after := v.after.filter (· != copyMark x.asid x.decl.base) }).settle }))

/-- R141, R191, R274, R275, R368, R395, R400, R401: an evaluation asks, once at a tick that is a multiple of 16, for each candidate of each
partition that finds no core. A requested or swapped-out task stops; once what it has issued is complete and its triples in flight are settled, a
transfer fault that waits is delivered, and the task is saved when a frame of its partition is free: the frame holds its core, contexts,
invocations and drain unit, the task is SAVED, and the core is free.
An event whose condition does not hold changes nothing (log entry 6). The form of a frame is log entry 10's. -/
def Obligations.PreemptionSavesTasks : Prop :=
  ∀ (s : State) (b : Bound) (a : Nat) (t : Task),
    let m := s.mc
    let n := s.ctl.cur
    let stopped := m.halted s.ctl n
    let flight := (stopped.engine (.core n)).drain.flight
    let settled : Prop := ∀ x ∈ flight, x.accepted = true ∨ ∃ y ∈ flight, y.refused.isSome = true ∧ y.pa / 2 ^ 48 = x.pa / 2 ^ 48
    let quiet : Prop := b.stop = none ∧ (stopped.core n.val).wordsDone = true ∧ (stopped.engine (.core n)).posts = [] ∧ settled
    let fault : Prop := (stopped.core n.val).trap.hm = false ∧ ∃ i : Fin 4, ((stopped.engine (.core n)).ctx i).fault.isSome = true
    let saved := stopped.saveTask s.ctl n b a
    let window : Prop := s.ctl.cyc % 96 = 0 ∧ s.ctl.tick % 16 = 0
    (window → m.evalAt ≠ s.ctl.tick + 1 →
      exec .preemptionEvaluation s = .next (s.put ({ m with evalAt := s.ctl.tick + 1 }.preemptFor none
        ((List.range 64).map m.passedOver).flatten))) ∧
    (¬window ∨ m.evalAt = s.ctl.tick + 1 → exec .preemptionEvaluation s = .next s) ∧
    (∀ v, m.victim none t = some v → m.preemptFor none [t] =
      { m with preReqs := if m.preReqs.contains v then m.preReqs else m.preReqs ++ [v] }) ∧
    (∀ v, (stopped.core n.val).task = some v → v.running = false) ∧
    (m.preReqs.contains n.val = true →
      ((stopped.core n.val).task = some b → quiet → ¬fault → stopped.freeFrame b.part.toNat = some a →
        exec .preemption s = .next (s.put saved)) ∧
      ((stopped.core n.val).task = some b → quiet → fault → exec .preemption s = .next (s.put (stopped.deliverFault s.ctl n))) ∧
      ((stopped.core n.val).task = some b → ¬quiet ∨ (¬fault ∧ stopped.freeFrame b.part.toNat = none) →
        exec .preemption s = .next (s.put stopped)) ∧
      ((stopped.core n.val).task = none → exec .preemption s = .next (s.put stopped))) ∧
    (m.preReqs.contains n.val = false → exec .preemption s = .next s) ∧
    (∀ since, (m.core n.val).task = some b → vget m.swapSince n.val none = some since → m.swapReady n = true →
      (since + m.swapClocks b.part.toNat ≤ s.ctl.cyc →
        exec .swapOut s = .next (s.put ((m.requestPreempt n.val).preempt s.ctl n)) ∧
        exec .swapOut s = exec .preemption (s.put (m.requestPreempt n.val))) ∧
      (s.ctl.cyc < since + m.swapClocks b.part.toNat → exec .swapOut s = .next s)) ∧
    ((saved.core n.val).task = none ∧ n.val ∉ saved.preReqs ∧ saved.frames = stopped.frames ++ [(a, stopped.frameOf n)] ∧
      (∀ u ∈ saved.tasks, u.tid = b.tid → u.st = .saved ∧ u.frame = some a) ∧
      (∀ i : Fin 4, (saved.engine (.core n)).ctx i = Ctx.init))

/-- R13, R19, R142, R267, R276, R383, R402, R420: a failed core reports 0xE0 and is retired, with a spare of its die or none in its place; its task, if it
can be replayed, is ready again as a replay; otherwise, without a checkpoint of its partition, it is lost: its record has state 3 and
its core is free. An uncorrectable read of a sequencer reports 0xE1 and stops its task alike. A copy that dissents is resynchronised for
1,500 clocks; a second dissent of its machine in that time is reported. A correction is counted by its clock, and 256 of a die within
one second are reported.
An event whose condition does not hold changes nothing (log entry 6). The readings of log entry 29 hold; that a rollback to the journal
ends where the machine stood, with the inputs executed again, is the model's choice (log entry 38). -/
def Obligations.MachineChecks : Prop :=
  (∀ (s : State) (b : Bound) (addr : Nat),
    let m := s.mc
    let n := s.ctl.cur.val
    let core : W64 := BitVec.ofNat 64 n
    (m.core n).task = some b → (m.core n).phys.isSome = true → (vget m.slots n BindRec.init).valid = false →
    let told := m.report 0xE0 b.part.toNat b.tid core
    let again (m : Mach) : Mach := (m.freeCore n).mapTask b.tid fun t =>
      { t with st := .ready, replay := true, frame := none, ticks := t.ticks + (s.ctl.tick - b.tick0) }
    (b.replayable = true → exec .coreFailed s = .next (s.put ((again told).retirePhys n))) ∧
    (b.replayable = false → m.lastCkpt (·.contains b.part.toNat) = none →
      exec .coreFailed s = .next (s.put ((told.loseTask s.ctl n b 0xE0).retirePhys n))) ∧
    (∀ k : Fin 320, s.ctl.occ.site = .seq k → k.val = n → s.ctl.occ.addr = addr → b.replayable = true →
      exec .readUncorrectable s = .next (s.put (again (m.report 0xE1 b.part.toNat b.tid (BitVec.ofNat 64 addr)))))) ∧
  (∀ (s : State), s.core.phys = none → exec .coreFailed s = .next s) ∧
  (∀ (m : Mach) (k : Ctl) (n : Fin 320) (b : Bound) (code : Byte) (p : Nat) (rest : List Nat),
    (m.core n.val).phys ≠ none →
    (vget m.spares (n.val / 40) [] = p :: rest →
      ((m.retirePhys n.val).core n.val).phys = some p ∧ vget (m.retirePhys n.val).spares (n.val / 40) [] = rest) ∧
    (vget m.spares (n.val / 40) [] = [] → ((m.retirePhys n.val).core n.val).phys = none) ∧
    ((m.loseTask k n.val b code).core n.val).task = none ∧
    (∀ t ∈ (m.loseTask k n.val b code).tasks, t.tid = b.tid → t.st = .lost)) ∧
  ∀ (s : State),
    let m := s.mc
    let v := s.ctl.occ.voted
    let d := s.ctl.occ.die.val
    let l := vget m.ecc d []
    let others := m.dissent.filter fun x => x.machine ≠ v
    ((∃ x ∈ m.dissent, x.machine = v ∧ s.ctl.cyc < x.since + 1500) →
      exec .voteDissent s = .next (s.put ({ m with dissent := others }.report 0xE2 0 0 0))) ∧
    ((∀ x ∈ m.dissent, x.machine = v → x.since + 1500 ≤ s.ctl.cyc) →
      exec .voteDissent s = .next (s.put { m with dissent := ⟨v, s.ctl.occ.copy, s.ctl.cyc⟩ :: others })) ∧
    exec .eccCorrected s = .next (s.put { m with ecc := vset m.ecc d ((s.ctl.cyc :: l).take 256) }) ∧
    (∀ a b, l[0]? = some a → l[255]? = some b → a < b + 1500000000 →
      exec .eccThreshold s = .next (s.put ({ m with ecc := vset m.ecc d [] }.report 0xF1 0 0 (BitVec.ofNat 64 d)))) ∧
    (l.length < 256 ∨ (∃ a b, l[0]? = some a ∧ l[255]? = some b ∧ b + 1500000000 ≤ a) → exec .eccThreshold s = .next s)

/-! ## Update basins and the tugs -/

/-- R350, R355-R360: the drain unit reads the oldest entries of the pool, up to 64 unaccepted triples, and a malformed entry ends the task;
a basin accepts a triple in pool order into its region's pending records, unless a write that comes before its UPD is on its way or it
waits for an event after a refusal; an extension is linked from the partition's reserve; a
sweep applies the next granule, and a basin may apply any pending granule of an operator that does not depend on order.
An event whose condition does not hold changes nothing (log entry 6). Quotas and the failing entry's PC are log entry 14's. -/
def Obligations.UpdateBasins : Prop :=
  ∀ (s : State) (t : Triple) (nd : Nat) (r : Region),
    let m := s.mc
    let n := s.ctl.cur
    let c := m.core n.val
    let g := m.engine (.core n)
    let rd := c.drainRead g 256 g.drain
    let o := s.ctl.occ
    let front := g.drain.flight.take o.k
    let home := t.pa / 2 ^ 48
    let put (m' : Mach) : State := s.put (m.inPositions s.ctl.cyc home (m'.noteServed n.val home))
    let turn : Prop := m.basinServes s.ctl.cyc n.val home = true ∧ m.tripleWaits t = false
    let serves : Prop := (∃ b, c.task = some b ∧ b.running = true) ∧ g.drain.susp = none ∧ s.ctl.cyc % 4 = 0 ∧ c.pos.1 ≤ s.ctl.cyc
    let took : Mach := (m.setEngine (.core n) { g with drain := rd.1 }).setCore n.val { c with pos := (s.ctl.cyc + 1, 0) }
    let taken : Mach := m.setRegion nd { r with pend := r.pend ++ [⟨t.pa - r.base, t.ord, t.wide, t.val⟩] }
    let share := binShare nd r.part
    (serves → rd.2 = none → exec .drainUnitTake s = .next (s.put took)) ∧
    (∀ i code, serves → rd.2 = some (i, code) →
      (rd.1.unaccepted = 0 → exec .drainUnitTake s = .next (s.put (took.stopTask
        s.ctl n ⟨code, 2, c.c.pc, BitVec.ofNat 64 (0x3F0000 + 16 * (i % 2048)), 0xFFFFFFFF⟩ true))) ∧
      (rd.1.unaccepted ≠ 0 → exec .drainUnitTake s = .next (s.put took))) ∧
    (¬serves → exec .drainUnitTake s = .next s) ∧
    (g.drain.flight[o.k]? = some t → t.accepted = false → (∀ x ∈ front, x.accepted = false → x.pa / 2 ^ 48 ≠ home) →
      turn → m.regionAt t.pa = some (nd, r) → m.tripleHeld n t r = false →
      (m.sramUsed nd r.part < share →
        ((∀ x ∈ g.drain.caps, x.1 ≠ t.index) → exec .basinAccept s = .next (put (taken.acceptedAt n t))) ∧
        exec .basinAccept s = .next (put ((taken.retried n t.index).acceptedAt n t))) ∧
      (share ≤ m.sramUsed nd r.part → m.largestRegion nd r.part = none → exec .basinAccept s = .next (put m)) ∧
      (∀ big, share ≤ m.sramUsed nd r.part → m.largestRegion nd r.part = some big →
        big.spillFree < 64 + 24 * big.pend.length → big.op = 3 →
        let u : Susp := ⟨0x83, 3, 0, 3, 0xFFFFFFFF, BitVec.ofNat 64 t.index, BitVec.ofNat 64 big.base, BitVec.ofNat 64 big.spillUsed⟩
        let kept := ((m.setEngine (.core n) { g with drain := g.drain.refuse t.index u big }).orStatus big 8).askExtension big
        exec .basinAccept s = .next (put (if g.drain.susp.isSome then kept else kept.reportDrain n big)))) ∧
    (∀ p < 64, ((List.range (p + 1)).map (binShare nd)).sum ≤ 2097152) ∧
    (g.drain.flight[o.k]? = some t → (t.accepted = true ∨ (∃ x ∈ front, x.accepted = false ∧ x.pa / 2 ^ 48 = home) ∨ ¬turn ∨
      (m.regionAt t.pa = some (nd, r) ∧ m.tripleHeld n t r = true)) → exec .basinAccept s = .next s) ∧
    (∀ va, m.drainWaits s.ctl = some va → m.regionAt va = some (nd, r) → m.nextAsk r.part ≠ some r.base →
      exec .spillExtensionLink s = .next s) ∧
    (∀ va b, m.drainWaits s.ctl = some va → m.regionAt va = some (nd, r) → r.xlen = 0 → m.nextAsk r.part = some r.base →
      m.reserveFind r.part r.spLen = some b →
      exec .spillExtensionLink s = .next (s.put (m.inPositions s.ctl.cyc nd
        ((((((({ m with reserve := m.reserve ++ [(r.part, r.base, b, r.spLen)] }.wr
          (r.descAt + 0x28) 8 b).wr (r.descAt + 0x30) 8 r.spLen).setRegion nd { r with
            xspill := b, xlen := r.spLen, retries := r.retries + 1 }).orStatus r 4).extensionArrived r.base).askDone r.base))))) ∧
    (∀ va, m.drainWaits s.ctl = some va → m.regionAt va = some (nd, r) → r.xlen ≠ 0 → exec .spillExtensionLink s = .next s) ∧
    (m.regionOf o.nd.val o.rid = some r →
      let apply (x : Nat) : State := s.put (m.inPositions s.ctl.cyc o.nd.val (m.applyGranule o.nd.val r x))
      (∀ x rest, r.sweep = x :: rest → exec .granuleSweep s = .next (apply x)) ∧
      (r.sweep = [] → exec .granuleSweep s = .next s) ∧
      (r.op ≠ 3 → o.granule ∈ r.pendingGranules → exec .basinChosenApply s = .next (apply o.granule)) ∧
      (r.op = 3 ∨ o.granule ∉ r.pendingGranules → exec .basinChosenApply s = .next s))

/-- R20, R371-R379: at the end of an epoch of 15,625 ticks a tug serves the PREF requests that have arrived, then decides once for each
page of its half; when both tugs have decided, every count begins afresh. A PREF request moves its page unless it lies in the tier,
is pinned, anchored or moving, or its hint keeps it far; a move commits once its invalidation has completed: bytes and leaf at the
new frame, the old one freed; anchorings expire; supplied frames that fit join the free ones, which the PREF requests that wait
take first, and then the promotions that are due.
An event whose condition does not hold changes nothing (log entry 6). What a tug chooses is log entry 15's. -/
def Obligations.TugActions : Prop :=
  ∀ (s : State) (r : PrefReq) (rest : List PrefReq) (p : Page) (v : TierMove),
    let m := s.mc
    let o := s.ctl.occ
    let f := o.fd.val
    let here (q : Page) : Prop := (if q.pa / 2 ^ 48 < 8 then q.pa / 2 ^ 48 / 4 else q.pa / 2 ^ 48 % 8 % 2) = f
    let dropped : Mach := { m with prefs := vset m.prefs f rest }
    let served := m.servePrefs s.ctl.tick f (vget m.prefs f []).length
    let fresh : Page := { p with due := none }
    let noted : Mach := { served with epochAt := vset served.epochAt f (s.ctl.tick + 1), pages := [fresh] }
    let supplied : Mach := { m with free := vset m.free o.home.val (vget m.free o.home.val [] ++ o.frames.filter fun x =>
      let n := if x.2 then 2 ^ 21 else 2 ^ 16
      x.1 / 2 ^ 48 = o.home.val ∧ x.1 % n = 0 ∧ x.1 % 2 ^ 48 + n ≤ (if o.home.val < 8 then 2 ^ 37 else 2 ^ 41)) }
    let unasked : Prop := vget m.prefs 0 [] = [] ∧ vget m.prefs 1 [] = []
    (s.ctl.cyc % 96 ≠ 0 ∨ s.ctl.tick % 15625 ≠ 0 ∨ vget m.epochAt f 0 = s.ctl.tick + 1 → exec .epochDecision s = .next s) ∧
    (s.ctl.cyc % 96 = 0 → s.ctl.tick % 15625 = 0 → s.ctl.tick ≠ 0 → vget m.epochAt f 0 ≠ s.ctl.tick + 1 →
      served.pages = [p] → here p →
      let m' := noted.decidePage s.ctl.tick fresh
      exec .epochDecision s = .next (s.put (if vget noted.epochAt (1 - f) 0 = s.ctl.tick + 1
        then { m' with pages := m'.pages.map fun q => { q with counts := [] } } else m'))) ∧
    (vget m.prefs f [] = r :: rest → m.pages.find? (fun p => p.asid == r.asid && p.va == r.va) = some p →
      let stays : Prop := p.inTierOf r.target = true ∨ m.pinned p = true ∨ s.ctl.tick < p.anchoredUntil ∨ m.moving p = true ∨
        (p.hint = 2 ∧ r.target < 8)
      (stays → exec .prefRequestServe s = .next (s.put dropped)) ∧
      (∀ m', ¬stays → dropped.startMove p r.target = some m' → exec .prefRequestServe s = .next (s.put m')) ∧
      (¬stays → dropped.startMove p r.target = none → exec .prefRequestServe s = .next s)) ∧
    (vget m.prefs f [] = r :: rest → m.pages.find? (fun p => p.asid == r.asid && p.va == r.va) = none →
      exec .prefRequestServe s = .next (s.put dropped)) ∧
    (vget m.prefs f [] = [] → exec .prefRequestServe s = .next s) ∧
    (m.moves[o.k]? = some v →
      ((∃ i ∈ m.invals, i.id = v.inval) → exec .tugMoveCommit s = .next s) ∧
      ((∀ i ∈ m.invals, i.id ≠ v.inval) → exec .tugMoveCommit s = .next (s.put (m.commitMove s.ctl.tick v)))) ∧
    exec .anchorExpiry s = .next (s.put { m with pages := m.pages.map fun q =>
      if q.asid = o.asid ∧ q.va = o.va ∧ q.anchoredUntil ≤ s.ctl.tick then { q with anchoredUntil := 0 } else q }) ∧
    (unasked → (∀ q ∈ m.pages, q.due = none) → exec .freeFrameSupply s = .next (s.put supplied)) ∧
    (∀ nd m', unasked → m.pages = [p] → p.due = some nd → supplied.dueOpen s.ctl.tick p = true → supplied.startMove p nd = some m' →
      exec .freeFrameSupply s = .next (s.put (m'.mapPage p.asid p.va fun q => { q with due := none }))) ∧
    (unasked → m.pages = [p] → supplied.dueOpen s.ctl.tick p = false → exec .freeFrameSupply s = .next (s.put supplied)) ∧
    (∀ m', vget m.prefs 0 [] = [r] → vget m.prefs 1 [] = [] → m.pages.find? (fun p => p.asid == r.asid && p.va == r.va) = some p →
      m.prefDrops s.ctl.tick r p = false → { supplied with prefs := vset m.prefs 0 [] }.startMove p r.target = some m' →
      exec .freeFrameSupply s = .next (s.put (m'.startDue s.ctl.tick)))

/-! ## The wharf's queues -/

/-- A packet that step acts on: the one at the head of the queue that the occurrence names (R407), with its TYPE, not turned away
in service mode, and, when `mgmt` is set, on the management queue with its fields in their ranges (R409): bits [6:0] of byte 1
zero, and an ASID below 512 where the packet brings one. -/
def Sys2Proof.Machine.packetReady (s : State) (p : Packet) (type : Nat) (mgmt : Bool) : Prop :=
  s.mc.packetAt s.ctl.occ.queue = some p ∧ p.type = type ∧ s.mc.tenantBarred p = false ∧
    (mgmt = true → p.q = .mgmt ∧ p.b1 % 128 = 0 ∧ (type ∈ asidTypes → s.ctl.occ.asid < 512))

/-- R6, R407, R425, R430: while the wharf's firmware runs a doorbell writes TAIL, or, with 0 after STOPPED was read, restarts a stopped
queue empty; a read of ERR answers its word and clears it (STOPPED counts as read with it, log entry 32); BASE, stored as written
(log entry 32), SIZE and PART are ignored while the queue holds packets, and PART and ASID are the physical function's alone. A
write of TRIP clears it, one of SVCREQ and COLDRST requests, one of PCAP sets the limit; every other register of the management
controller is read only. -/
def Sys2Proof.Machine.QueueRegisters : Prop :=
  ∀ (s : State) (q : QueueId),
    let m := s.mc
    let o := s.ctl.occ
    let x := m.queue o.queue
    let y := m.queue q
    let restart : Prop := x.stopped = true ∧ x.stopSeen = true ∧ o.tail = 0
    let put (z : HostQ) : State := s.put (m.setQueue q z)
    let write (r : RegName) (t : State) : Prop := o.reg = r → exec .registerWrite s = .next t
    let g := m.mgmt
    let up : Prop := g.on = true ∧ (g.bring = 0 ∨ 2 < g.bring)
    let setMgmt (g : Mgmt) : State := s.put { m with mgmt := g }
    let errWord := x.head.toNat * 2 ^ 32 + x.err.toNat * 2 ^ 24 + (if x.stopped then 2 ^ 23 else 0) + x.vec.toNat * 2 ^ 10
    (¬up → exec .queueDoorbell s = .next s ∧ exec .queueErrRead s = .next s ∧
      ∀ r ∈ [RegName.queueBase q, .queueSize q, .queuePart q, .queueVec q, .queueAsid q], write r s) ∧
    (up → restart → exec .queueDoorbell s = .next (s.put (m.setQueue o.queue { x with
      head := 0, tail := 0, stopped := false, stopSeen := false
      inval := none, fenceOn := false, fenceGot := [], descGot := none, full := none }))) ∧
    (up → ¬restart → exec .queueDoorbell s = .next (s.put (m.setQueue o.queue { x with tail := o.tail }))) ∧
    (up → exec .queueErrRead s = .next (s.put
      { m.setQueue o.queue { x with err := 0, stopSeen := x.stopped } with regData := BitVec.ofNat 64 errWord })) ∧
    (up → y.head = y.tail → write (.queueBase q) (put { y with base := o.word }) ∧
      write (.queueSize q) (put { y with size := o.word.setWidth 8 }) ∧
      (o.fromPf = true → write (.queuePart q) (put { y with part := o.word.setWidth 6 }))) ∧
    (up → y.head ≠ y.tail → write (.queueBase q) s ∧ write (.queueSize q) s ∧ write (.queuePart q) s) ∧
    (up → write (.queueVec q) (put { y with vec := o.word.setWidth 6 })) ∧
    (up → o.fromPf = true → write (.queueAsid q) (put { y with asid := o.word.setWidth 9 })) ∧
    (o.fromPf = false → write (.queueAsid q) s ∧ write (.queuePart q) s) ∧
    (g.on = true →
      (o.word.getLsbD 4 = true → write (.mgmt 0x08) (setMgmt { g with trip := false, nv := { g.nv with trip := false } })) ∧
      (o.word.getLsbD 4 = false → write (.mgmt 0x08) s) ∧
      write (.mgmt 0x10) (setMgmt { g with svcReq := o.word.getLsbD 0, coldRst := g.coldRst || o.word.getLsbD 1 }) ∧
      write (.mgmt 0x28) (setMgmt { g with pcap := BitVec.ofNat 16 (min (max (o.word.toNat % 65536) 1500) 4000) })) ∧
    (∀ off, g.on = false ∨ off ∉ [0x08, 0x10, 0x28] → write (.mgmt off) s)

/-- R26, R377, R387, R388, R390, R408, R409: the packets of every queue. NOP retires; ENQUEUE, when its turn among the enqueues of
its clock has come (the model's reading of R387's order, log entry 37), goes on with the reads of the descriptor, places its task,
stops the queue with the code of its failing check, or, refused a place, waits for a mooring release; WRITE stores its 8 bytes when
no page move holds them and their scratchpad has a position; a FENCE is parsed and its counters are read in rounds, as far as each
clock lets them be read, until every one meets its condition in one round. Retiring moves HEAD on; a failure sets STOPPED and ERR
and sends vector 0; HEAD rests. -/
def Sys2Proof.Machine.TenantPackets : Prop :=
  (∀ (m : Mach) (p : Packet) (code : Byte),
    let x := m.queue p.q
    (m.retirePacket p).queue p.q = { x with
      head := x.head + 1, inval := none, fenceOn := false, fenceGot := [], descGot := none, full := none } ∧
    (m.packetError p code).queue p.q = { x with
      stopped := true, stopSeen := false, err := code, inval := none, fenceOn := false, fenceGot := [], descGot := none, full := none } ∧
    (m.retirePacket p).mem = m.mem ∧ (m.packetError p code).mem = m.mem) ∧
  ∀ (s : State) (p : Packet),
    let m := s.mc
    let low := p.b1 % 128
    let a : W64 := BitVec.ofNat 64 (m.rd (p.key + 8) 8)
    let A := m.queueAccess p
    let clean : Prop := low = 0 ∧ m.rd (p.key + 2) 6 = 0
    let own : Option Nat := if p.q = .mgmt then none else some p.blk.part.toNat
    let counters := m.fenceCounters p
    let wellFormed : Prop := 1 ≤ low ∧ low ≤ 12 ∧ m.rd (p.key + 4) 12 = 0 ∧ ∀ c ∈ counters, c.1.toNat % 8 = 0
    let x := m.queue p.q
    let rankOf : QueueId → Nat := fun q => match q with
      | .mgmt => 0
      | .vm v n => 64 * v.val + n.val + 1
    let rank := rankOf p.q
    let turn : Prop := p.blk.full ≠ some m.unmoored ∧ ¬(m.enqAt.1 = s.ctl.cyc + 1 ∧ rank < m.enqAt.2) ∧
      ∀ q k, (m.queue q).full = some k → k ≠ m.unmoored → rank ≤ rankOf q
    let fetched := m.fetchTask s.ctl.cyc A own a p.blk.descGot
    let held : Prop := m.accessHeld s.ctl.cyc A .write a 8 = true
    let free : Prop := m.accessHeld s.ctl.cyc A .write a 8 = false
    let round := m.fenceRound s.ctl.cyc A (counters.drop x.fenceGot.length)
    let ends (i : Instr) (m' : Mach) : Prop := exec i s = .next (s.put m')
    (∀ i ∈ [Instr.nopPacket, .enqueue, .fencePacket, .fencePoll, .write], m.packetAt s.ctl.occ.queue = none → exec i s = .next s) ∧
    (packetReady s p 0 false → (low = 0 → ends .nopPacket (m.retirePacket p)) ∧ (low ≠ 0 → ends .nopPacket (m.packetError p 1))) ∧
    (packetReady s p 0x3F false → ends .nopPacket (m.packetError p 1)) ∧
    (packetReady s p 1 false →
      (¬clean → ends .enqueue (m.packetError p 1)) ∧
      (clean → ¬turn → exec .enqueue s = .next s) ∧
      (∀ m' d e, clean → turn → fetched = (m', .task d e) →
        let placed := m'.place s.ctl.cyc rank (Task.fresh a d e 0 0 (decide (p.q = .mgmt)))
        let t := placed.1
        (placed.2 = none → ends .enqueue (t.setQueue p.q { t.queue p.q with descGot := none, full := some t.unmoored })) ∧
        (∀ tid, placed.2 = some tid → tid = m'.promoteAll.nextTid ∧ ends .enqueue (t.retirePacket p))) ∧
      (∀ m' got, clean → turn → fetched = (m', .wait got) →
        ends .enqueue (m'.setQueue p.q { m'.queue p.q with descGot := got, full := none })) ∧
      (∀ m' r, clean → turn → fetched = (m', .bad r) →
        (r.status = 3 → ends .enqueue (m'.packetError p 2)) ∧ (r.status = 4 → ends .enqueue (m'.packetError p 3)) ∧
        (r.status = 2 → ends .enqueue (m'.packetError p 4)) ∧ (r.status = 5 → ends .enqueue (m'.addressError p r.code a)))) ∧
    (packetReady s p 3 false →
      (¬clean → ends .write (m.packetError p 1)) ∧
      (clean → held → exec .write s = .next s) ∧
      (∀ m', clean → free → m.writeAt A a 8 (m.rd (p.key + 16) 8) = (m', none) →
        ends .write ((m'.takeFrees s.ctl.cyc (m.accessPlaces A .write a 8)).retirePacket p)) ∧
      (∀ m' e, clean → free → m.writeAt A a 8 (m.rd (p.key + 16) 8) = (m', some e) → ends .write (m'.addressError p e.code a))) ∧
    (packetReady s p 2 false →
      (x.fenceOn = false → wellFormed → ends .fencePacket (m.setQueue p.q { x with fenceOn := true })) ∧
      (x.fenceOn = false → ¬wellFormed → ends .fencePacket (m.packetError p 1)) ∧
      (x.fenceOn = true → exec .fencePacket s = .next s) ∧ (x.fenceOn = false → exec .fencePoll s = .next s) ∧
      (∀ m' l, x.fenceOn = true → round = (m', .ok l) →
        let got := x.fenceGot ++ l
        (got.length < counters.length → ends .fencePoll (m'.setQueue p.q { x with fenceGot := got })) ∧
        (counters.length ≤ got.length → (∀ b ∈ got, b = true) → ends .fencePoll (m'.retirePacket p)) ∧
        (counters.length ≤ got.length → false ∈ got → ends .fencePoll (m'.setQueue p.q { x with fenceGot := [] }))) ∧
      (∀ m' c w, x.fenceOn = true → round = (m', .error (c, w)) → ends .fencePoll (m'.addressError p w c)))

/-- R407-R409, R430: the queue registers and the tenant packets, in one statement.
An event whose condition does not hold changes nothing (log entry 6). How a packet brings its operands is log entry 17's; the
readings of log entries 32 (ERR and STOPPED, BASE) and 37 (the turn of an enqueue) hold. -/
def Obligations.QueuesOfTheWharf : Prop := QueueRegisters ∧ TenantPackets

/-- R266, R272, R372, R378, R385, R391, R394, R398, R401, R409, R415, R416: the management packets on tasks, pages and partitions. Each of
them on a tenant queue fails with error 6, and with a field outside its range with error 1; an accepted one acts and retires.
An event whose condition does not hold changes nothing (log entry 6). How a packet brings its operands is log entry 17's; that
REMOVE drops the lost task's own record with its dependants is log entry 29's. -/
def Obligations.ManagementPackets : Prop :=
  ∀ (s : State) (p : Packet),
    let m := s.mc
    let o := s.ctl.occ
    let q := o.part.val
    let retires (i : Instr) (m' : Mach) : Prop := exec i s = .next (s.put (m'.retirePacket p))
    let fails (i : Instr) (code : Byte) : Prop := exec i s = .next (s.put (m.packetError p code))
    let conf := PartConf.parse (m.rd o.addr 0x80)
    let types : List (Instr × Nat) := [(.invalidate, 0x10), (.resume, 0x11), (.priority, 0x12), (.revoke, 0x13), (.pin, 0x14), (.unpin, 0x15),
      (.unmap, 0x16), (.remap, 0x17), (.partcfg, 0x18), (.resetCoreWarm, 0x19), (.resetPartitionWarm, 0x19), (.resetDeviceWarm, 0x19),
      (.restore, 0x1B), (.remove, 0x1D)]
    (∀ x ∈ types, packetReady s p x.2 false → p.q ≠ .mgmt → fails x.1 6) ∧
    (∀ x ∈ types, packetReady s p x.2 false → p.q = .mgmt → p.b1 % 128 ≠ 0 ∨ (x.2 ∈ asidTypes ∧ 512 ≤ o.asid) → fails x.1 1) ∧
    (∀ x ∈ types, m.packetAt o.queue = none → exec x.1 s = .next s) ∧
    (packetReady s p 0x10 true → (m.queue .mgmt).inval = none → exec .invalidate s = .next (s.put
      ({ m with invals := m.invals ++ [Inval.mk m.nextInval o.asid o.va o.len], nextInval := m.nextInval + 1 }.setQueue .mgmt
        { m.queue .mgmt with inval := some m.nextInval }))) ∧
    (packetReady s p 0x11 true → (m.movingIn o.asid o.va o.len = false → retires .resume (m.doorbell o.asid o.va o.len)) ∧
      (m.movingIn o.asid o.va o.len = true → exec .resume s = .next s)) ∧
    (packetReady s p 0x12 true → (o.prio.toNat ≤ 7 → retires .priority { m with tasks := m.tasks.map fun t =>
        if t.tid = o.tid then { t with prio := o.prio.toNat } else t }) ∧ (7 < o.prio.toNat → fails .priority 1)) ∧
    (packetReady s p 0x13 true → (∀ t ∈ m.tasks, t.st = .bound → t.codeIn o.asid o.va o.len = false) →
      retires .revoke (m.chill o.asid o.va o.len)) ∧
    (packetReady s p 0x13 true → ∃ l : List Nat,
      retires .revoke ({ m with preReqs := m.preReqs ++ l }.chill o.asid o.va o.len) ∧
      (∀ t ∈ m.tasks, t.st = .bound → t.codeIn o.asid o.va o.len = true → ∀ n, m.coreOf t.tid = some n → n ∈ m.preReqs ++ l) ∧
      ∀ n ∈ l, ∃ t ∈ m.tasks, t.st = .bound ∧ t.codeIn o.asid o.va o.len = true ∧ m.coreOf t.tid = some n) ∧
    (packetReady s p 0x14 true → retires .pin { m with pins := m.pins ++ [(o.asid, o.va, o.len)] }) ∧
    (packetReady s p 0x15 true → retires .unpin { m with pins := (m.pins.map (unpinRange o.asid o.va o.len)).flatten }) ∧
    (∀ key, m.leafSlot o.asid o.va = some key → m.movingIn o.asid o.va 1 = false →
      (packetReady s p 0x16 true → retires .unmap ((m.wr key 8 0).leafWritten o.asid o.va 0)) ∧
      (packetReady s p 0x17 true → leafFits (m.leafIsLevel2 o.asid o.va) o.word.toNat = true →
        retires .remap ((m.wr key 8 o.word.toNat).leafWritten o.asid o.va o.word.toNat)) ∧
      (packetReady s p 0x17 true → leafFits (m.leafIsLevel2 o.asid o.va) o.word.toNat = false → fails .remap 1)) ∧
    (packetReady s p 0x18 true →
      (m.confOk q conf = true → m.extraOk q o.extra = true →
        retires .partcfg (m.configure q o.addr conf o.extra) ∧ ((m.configure q o.addr conf o.extra).partition q).conf = some conf) ∧
      (m.confOk q conf = false ∨ m.extraOk q o.extra = false → fails .partcfg 8)) ∧
    (packetReady s p 0x1D true → (∀ t, m.taskOf o.tid = some t → t.st ≠ .lost) → retires .remove m) ∧
    (∀ t, packetReady s p 0x1D true → m.taskOf o.tid = some t → t.st = .lost → (∀ u ∈ m.tasks, o.tid ∉ u.after) →
      retires .remove (m.dropTask o.tid)) ∧
    (∀ t, packetReady s p 0x1D true → m.taskOf o.tid = some t → t.st = .lost → ∃ m', retires .remove m' ∧
      (∀ u ∈ m'.tasks, u.tid ≠ o.tid ∧ ∀ v ∈ m.tasks, v.tid = u.tid → o.tid ∉ v.after) ∧
      ∀ v ∈ m.tasks, v.tid ≠ o.tid → (∀ w ∈ m.tasks, w.tid = v.tid → o.tid ∉ w.after) → ∃ u ∈ m'.tasks, u.tid = v.tid) ∧
    (∀ i, m.invals.find? (fun i => i.id == o.k) = some i → m.asidOut i.asid = true → exec .invalidationComplete s = .next s) ∧
    (∀ i, m.invals.find? (fun i => i.id == o.k) = some i → m.asidOut i.asid = false → m.packetAt .mgmt = none →
      exec .invalidationComplete s = .next (s.put
      (({ m with invals := m.invals.filter fun j => j.id != i.id }.dropTlbs i.asid i.base i.len).chill i.asid i.base i.len))) ∧
    (∀ i p', m.invals.find? (fun i => i.id == o.k) = some i → m.asidOut i.asid = false →
      let done := ({ m with invals := m.invals.filter fun j => j.id != i.id }.dropTlbs i.asid i.base i.len).chill i.asid i.base i.len
      done.packetAt .mgmt = some p' → exec .invalidationComplete s = .next (s.put
        (if p'.blk.inval = some i.id then done.retirePacket p' else done))) ∧
    (∀ new, m.slotNext = some new →
      (s.ctl.cyc % 96 = 0 → s.ctl.tick % 16 = 0 → exec .slotTableSwitch s = .next (s.put { m with
        slotTabs := mergeSlots m.slotTabs new, slotNext := none })) ∧
      (s.ctl.cyc % 96 ≠ 0 ∨ s.ctl.tick % 16 ≠ 0 → exec .slotTableSwitch s = .next s))

/-! ## Checkpoints, resets and bring-up -/

/-- R366, R367, R418-R423: a CHECKPOINT packet stops its partitions and asks for their cores; once they are off their cores it
is written to the next slot of the dry dock. RESTORE loads a complete checkpoint that has room. A core reset frees and clears
the core; a partition reset drops what is the partition's and, when it is complete, says so; a device reset drops every task.
RETIRE clears a die's cores, and the die is then absent, every task's affinity being widened where it names no present die (the
model's choice, log entry 29: R422 says so of restored frames). Each of them on a tenant queue fails with error 6, and with a field
outside its range with error 1. An event whose condition does not hold changes nothing (log entry 6). The form of a checkpoint is
log entry 10's, other readings log entry 17's. -/
def Obligations.CheckpointsAndResets : Prop :=
  ∀ (s : State) (p : Packet) (c : Ckpt) (ps : List Nat),
    let m := s.mc
    let o := s.ctl.occ
    let q := o.part.val
    let n := o.core.val
    let d := o.die.val
    let retires (i : Instr) (m' : Mach) : Prop := exec i s = .next (s.put (m'.retirePacket p))
    let named := (o.parts.map (·.val)).eraseDups
    let kinds : List (Instr × Nat) := [(.checkpointFull, 0), (.checkpointIncremental, 1)]
    let ts := if o.tids = [] then c.tasks else c.tasks.filter fun t => decide (t.tid ∈ o.tids)
    let dropped := m.forgetTasks fun t => ts.any fun u => u.tid == t.tid
    let off (l : List Region) : List Region := l.map fun r => if r.part = q then { r with pend := [], runs := [], sweep := [] } else r
    (∀ x ∈ kinds,
      (m.ckptRun = none → packetReady s p 0x1A true →
        retires x.1 ({ m with ckptRun := some (x.2, named) }.clearCores s.ctl.tick fun _ t => named.contains t.part)) ∧
      (m.ckptRun = some (x.2, ps) → m.busyIn ps = true →
        exec x.1 s = .next (s.put (m.clearCores s.ctl.tick fun _ t => ps.contains t.part))) ∧
      (m.ckptRun = some (x.2, ps) → m.busyIn ps = false →
        let m' := { m.writeCkpt (m.ckptOf s.ctl.tick x.2 ps) with ckptRun := none }
        let taken := m.ckptOf s.ctl.tick x.2 ps
        let kept := { taken with pages := taken.pages.map fun p => if p.tiered then { p with pa := 0 } else p }
        exec x.1 s = .next (s.put m') ∧ vget m'.dock (m.dockNext % 2) none = some kept ∧
          m'.dockNext = (m.dockNext + 1) % 2)) ∧
    (∀ x ∈ [(Instr.checkpointFull, 0x1A), (.checkpointIncremental, 0x1A), (.retire, 0x1C)],
      packetReady s p x.2 false → m.ckptRun = none → d ∉ m.retiring →
      (p.q ≠ .mgmt → exec x.1 s = .next (s.put (m.packetError p 6))) ∧
      (p.q = .mgmt → p.b1 % 128 ≠ 0 → exec x.1 s = .next (s.put (m.packetError p 1)))) ∧
    (packetReady s p 0x1C true → m.ckptRun ≠ none → d ∉ m.retiring → exec .retire s = .next s) ∧
    (packetReady s p 0x1B true → vget m.dock o.slot.val none = some c →
      (c.status ≠ 1 → exec .restore s = .next (s.put (m.packetError p 1))) ∧
      (c.status = 1 → dropped.roomFor ts = false → exec .restore s = .next (s.put (m.packetError p 7))) ∧
      (c.status = 1 → dropped.roomFor ts = true → retires .restore (dropped.loadCkpt c ts o.ranges))) ∧
    (packetReady s p 0x1B true → vget m.dock o.slot.val none = none → exec .restore s = .next (s.put (m.packetError p 1))) ∧
    (packetReady s p 0x19 true → (m.core n).task = none → (vget m.slots n BindRec.init).valid = false →
      retires .resetCoreWarm ((m.freeCore n).warmCoreReset n) ∧
      (((m.freeCore n).warmCoreReset n).core n).x = XState.init ∧ (((m.freeCore n).warmCoreReset n).core n).sp = (m.core n).sp) ∧
    (packetReady s p 0x19 true →
      ((m.partition q).resetting = true → retires .resetPartitionWarm m) ∧
      ((m.partition q).resetting = false →
        let m₁ := ((m.abandonCkpt s.ctl.tick (· == q)).dropPartition q).rereadConf q
        retires .resetPartitionWarm (m₁.setPart q { m₁.partition q with resetting := true }))) ∧
    (∀ (m : Mach) (i : Fin 8), vget (m.discardPending fun r => r.part == q).basins i.val [] = off (vget m.basins i.val [])) ∧
    ((m.partition q).resetting = true → exec .resetComplete s = .next (s.put (((m.setPart q { m.partition q with
      resetting := false }).sendVm q (m.partition q).vm 0).report 0xF2 q 0 0))) ∧
    ((m.partition q).resetting = false → exec .resetComplete s = .next s) ∧
    (packetReady s p 0x19 true → ∃ m' : Mach, exec .resetDeviceWarm s = .next (s.put ((m'.retirePacket p).report 0xF2 0 0 0)) ∧
      m'.sets = [] ∧ (∀ i : Fin 320, (m'.core i.val).task = none) ∧ (∀ i < 64, (m'.partition i).resetting = false) ∧
      m'.moves = [] ∧ m'.invals = [] ∧ m'.colls = [] ∧ m'.retiring = [] ∧
      (∀ x, x ≠ .mgmt → (m'.queue x).head = (m'.queue x).tail ∧ (m'.queue x).stopped = false) ∧
      ∀ (e : EngineId) (i : Fin 4), (m'.engine e).ctx i = Ctx.init ∧ (m'.engine e).invq = []) ∧
    (d ∉ m.retiring → packetReady s p 0x1C true → m.ckptRun = none →
      (8 ≤ d → exec .retire s = .next (s.put (m.packetError p 1))) ∧
      (d < 8 → d ∈ m.absent → retires .retire m) ∧
      (d < 8 → d ∉ m.absent → retires .retire ({ m with retiring := m.retiring ++ [d] }.clearCores s.ctl.tick fun n _ => n / 40 == d))) ∧
    (d ∈ m.retiring → m.dieBusy d = true → exec .retire s = .next (s.put (m.clearCores s.ctl.tick fun n _ => n / 40 == d))) ∧
    (d ∈ m.retiring → m.dieBusy d = false → exec .retire s = .next (s.put ({ m with
      retiring := m.retiring.filter (· != d), absent := m.absent ++ [d]
      mgmt := { m.mgmt with nv := { m.mgmt.nv with dies := m.mgmt.nv.dies ++ [d] } } }.widenAll)))

/-- R11, R22, R381, R424-R427, R429: a cold reset begins, from power-on with coolant within limits, from a written COLDRST or a packet:
only the non-volatile record, the firmware version, the flash and memory outside the module are left, and service mode is the written
SVCREQ. Its steps complete one after the other: of every image the first slot that verifies on both signatures and is not below the
anti-rollback counter is measured, and an image without one stops bring-up at step 2; each die's logical cores stand on its working
physical cores in ascending order (the model's choice of order, log entry 35); memory is zeroed, the ports are trained, the clocks
count from 0; groups of eight cores of every die are released one a tick; after the fifth the device becomes ready and says so. A
step that does not end stops bring-up with its number. An event whose condition does not hold changes nothing (log entry 6). The
readings of log entry 16 hold: which images there are, that a step's effects come when it completes, FWVER. -/
def Obligations.BringUp : Prop :=
  ∀ (s : State) (p : Packet),
    let m := s.mc
    let g := m.mgmt
    let o := s.ctl.occ
    let k := s.ctl.cyc
    let begun (t : State) : Prop :=
      t.agenda = s.agenda ∧ t.turns = s.turns ∧ t.ctl = s.ctl ∧ t.mc.tasks = [] ∧ t.mc.events = [] ∧
      t.mc.mem = m.mem.filter (fun c => 10 * 2 ^ 48 ≤ c.1) ∧ t.mc.mgmt.nv = g.nv ∧ t.mc.mgmt.fwVer = g.fwVer ∧ t.mc.mgmt.flash = g.flash ∧
      t.mc.mgmt.on = true ∧ t.mc.mgmt.ready = false ∧ t.mc.mgmt.recovery = false ∧ t.mc.mgmt.svc = g.svcReq ∧
      t.mc.mgmt.svcReq = false ∧ t.mc.mgmt.coldRst = false ∧ t.mc.mgmt.groups = 0 ∧ t.mc.mgmt.bring = 1 ∧
      ∀ n : Fin 320, (t.mc.core n.val).phys = none ∧ (t.mc.core n.val).task = none ∧ (t.mc.core n.val).released = false ∧
        (t.mc.core n.val).sp = []
    let step (i : Nat) (f : Mach → Prop) : Prop := g.bring = i → ∃ m', exec .coldReset s = .next (s.put m') ∧ f m'
    let flash := o.flash.getD g.flash
    let good (f : FlashSlot) : Bool := f.edOk && f.mlOk && decide (g.fwVer.toNat / 2 ^ 32 ≤ f.version.toNat)
    let slot (i : Fin 4) (j : Fin 2) : FlashSlot := flash[2 * i.val + j.val]
    let taken (i : Fin 4) : FlashSlot := if good (slot i 0) then slot i 0 else slot i 1
    let verified : Prop := ∀ i : Fin 4, good (slot i 0) = true ∨ good (slot i 1) = true
    let working (d : Nat) : List Nat := (List.range 42).filter fun i => !g.nv.cores.contains (d, i) && !g.nv.fuses.contains (d, i)
    (g.coldRst = true ∨ (g.on = false ∧ o.coolantOk = true) → ∃ t, exec .coldReset s = .next t ∧ begun t) ∧
    (g.coldRst = false → g.on = false → o.coolantOk = false → exec .coldReset s = .next s) ∧
    (g.coldRst = false → g.on = true → g.recovery = false →
      step 1 (fun m' => m' = { m with mgmt := { g with bring := 2 } }) ∧
      (verified → step 2 fun m' => m'.mgmt.bring = 3 ∧ m'.mgmt.recovery = false ∧ m'.mgmt.flash = flash ∧
        (∀ i : Fin 4, m'.mgmt.digests[i.val]? = some (taken i).digest) ∧
        m'.mgmt.fwVer.toNat = g.fwVer.toNat / 2 ^ 32 * 2 ^ 32 + (taken 2).version.toNat) ∧
      (¬verified → step 2 fun m' => m' = { m with mgmt := { g with flash := flash, recovery := true, step := 2 } }) ∧
      step 3 (fun m' => m'.mgmt.bring = 4 ∧ m'.absent = g.nv.dies ∧ m'.mgmt.trip = g.nv.trip ∧
        (∀ d : Fin 8, vget m'.spares d.val [] = (working d.val).drop 40) ∧
        ∀ n : Fin 320, (m'.core n.val).phys = (working (n.val / 40))[n.val % 40]? ∧ (m'.core n.val).task = none ∧
          (m'.core n.val).released = false) ∧
      step 4 (fun m' => m'.mgmt.bring = 5 ∧ m'.mem = m.mem.filter (fun c => 10 * 2 ^ 48 ≤ c.1) ∧
        (∀ n : Fin 320, (m'.core n.val).sp = [] ∧ (m'.core n.val).istore = []) ∧
        ∀ e : EngineId, (m'.engine e).pstore = [] ∧ (m'.engine e).param = []) ∧
      step 5 (fun m' => m'.mgmt.bring = 6 ∧ ∀ i : Fin 13, (m'.link i).up = true ∧ (m'.link i).lost = false) ∧
      (g.bring = 6 → exec .coldReset s = .next { s with ctl := { s.ctl with cyc := 0, tick := 0 }, mc := { m with mgmt := { g with bring := 7 } } }) ∧
      step 8 (fun m' => m'.mgmt.bring = 0 ∧ m'.mgmt.ready = true ∧ m'.events = m.events ++ [Event.mk 0xF2 0 0 0 m.nextSeq ⟨0, 0, 0⟩]) ∧
      (g.bring = 0 ∨ g.bring = 7 ∨ 8 < g.bring → exec .coldReset s = .next s)) ∧
    (g.coldRst = false → g.on = true → g.recovery = true → exec .coldReset s = .next s) ∧
    (m.packetAt o.queue = some p → p.type = 0x19 →
      (p.q = .mgmt → p.b1 % 128 = 0 → ∃ t, exec .resetCold s = .next t ∧ begun t) ∧
      (p.q = .mgmt → p.b1 % 128 ≠ 0 → exec .resetCold s = .next (s.put (m.packetError p 1))) ∧
      (p.q ≠ .mgmt → exec .resetCold s = .next (s.put (m.packetError p 6)))) ∧
    (g.on = true → g.bring ≠ 0 → g.recovery = false → o.stepNo = g.bring →
      exec .bringupStepTimeout s = .next (s.put { m with
      mgmt := { g with recovery := true, step := BitVec.ofNat 8 o.stepNo } })) ∧
    (g.on = false ∨ g.bring = 0 ∨ g.recovery = true ∨ o.stepNo ≠ g.bring → exec .bringupStepTimeout s = .next s) ∧
    (k % 96 = 0 → g.relAt ≠ s.ctl.tick + 1 → g.on = true → g.recovery = false → g.bring = 7 → ∃ m' : Mach,
      exec .coreGroupRelease s = .next (s.put m') ∧ m'.mgmt.groups = g.groups + 1 ∧
      (∀ n : Fin 320, (m'.core n.val).released = if n.val % 40 / 8 = g.groups then true else (m.core n.val).released) ∧
      m'.mgmt.bring = (if g.groups = 4 then 8 else 7) ∧ m'.mgmt.ready = g.ready ∧ m'.events = m.events) ∧
    (k % 96 ≠ 0 ∨ g.relAt = s.ctl.tick + 1 ∨ g.bring ≠ 7 ∨ g.recovery = true ∨ g.on = false → exec .coreGroupRelease s = .next s)

/-- R428-R430: the management controller. A throttle evaluation, once at a tick that is a multiple of 16, reports what was measured,
and counts a level below 8 (which level the controller chooses is free, log entry 16). A trip darkens the
device and is recorded; TRIP_CLEAR, COLDRST (with the word's SVCREQ) and PCAP act as their rows say, and a read of THRCNT returns the
count and clears it, an increment of the same clock being kept and not returned.
An event whose condition does not hold changes nothing (log entry 6). -/
def Obligations.ManagementController : Prop :=
  ∀ (s : State),
    let m := s.mc
    let g := m.mgmt
    let o := s.ctl.occ
    let window : Prop := s.ctl.cyc % 96 = 0 ∧ s.ctl.tick % 16 = 0
    let set (i : Instr) (g : Mgmt) : Prop := exec i s = .next (s.put { m with mgmt := g })
    let w := o.word.toNat % 65536
    (window → g.throtAt ≠ s.ctl.tick + 1 → g.on = true → ∃ level : Nat, 1 ≤ level ∧ level ≤ 8 ∧ set .throttleEvaluation { g with
      throtAt := s.ctl.tick + 1, pwr := o.pwr, tempMax := o.temp, level := level
      throt := decide (level < 8), thrCnt := if level < 8 then g.thrCnt + 1 else g.thrCnt }) ∧
    (¬window ∨ g.throtAt = s.ctl.tick + 1 ∨ g.on = false → exec .throttleEvaluation s = .next s) ∧
    (g.on = true → 115 ≤ o.temp.toNat ∨ o.num = 1 → ∃ m' : Mach, exec .thermalTrip s = .next (s.put m') ∧ m'.mgmt.on = false ∧
      m'.mgmt.nv = { g.nv with trip := true } ∧ m'.tasks = [] ∧ m'.mem = m.mem.filter (fun c => 10 * 2 ^ 48 ≤ c.1)) ∧
    (o.temp.toNat < 115 → o.num ≠ 1 → exec .thermalTrip s = .next s) ∧
    (g.on = true →
      set .coldrst { g with svcReq := o.word.getLsbD 0, coldRst := true } ∧
      set .tripClear { g with trip := false, nv := { g.nv with trip := false } } ∧
      set .pcapWrite { g with pcap := BitVec.ofNat 16 (min (max w 1500) 4000) }) ∧
    (g.on = false → ∀ i ∈ [Instr.coldrst, .tripClear, .pcapWrite, .thrcntRead], exec i s = .next s) ∧
    (g.on = true → window → g.throtAt = s.ctl.tick + 1 → g.throt = true →
      exec .thrcntRead s = .next (s.put { m with regData := (g.thrCnt - 1).setWidth 64, mgmt := { g with thrCnt := 1 } })) ∧
    (g.on = true → ¬window ∨ g.throtAt ≠ s.ctl.tick + 1 ∨ g.throt = false →
      exec .thrcntRead s = .next (s.put { m with regData := g.thrCnt.setWidth 64, mgmt := { g with thrCnt := 0 } }))

/-- R98, R124, R263, R380, R412-R414: a port answers a flit that fails its CRC with a negative acknowledgement and drops it; of one that
passes it the acknowledged ones leave the replay buffer, and a negative acknowledgement replays what is left; the expected one
returns its VC's credits and is delivered, or forwarded by its route, and any other is dropped; a flit leaves while the replay buffer of 512 has room and its VC a credit, else it waits;
retraining after 8 replays of one flit in a row, its end within 1 ms, and the loss after it; tables that break a rule are
rejected whole; the roots, the package number and the far tier's ranges are loaded.
An event whose condition does not hold changes nothing (log entry 6). The readings of log entry 19 hold. -/
def Obligations.LinksAndTables : Prop :=
  ∀ (s : State),
    let m := s.mc
    let o := s.ctl.occ
    let x := vget m.links o.port.val LinkPort.init
    let f := o.flit
    let set (x : LinkPort) : Mach := { m with links := vset m.links o.port.val x }
    let here : W64 := BitVec.ofNat 64 o.port.val
    let ports (r : Route) : Nat := ((List.range 12).filter fun i => r.ports.getLsbD i).length
    let good (r : Route) : Prop := r.pkg ≤ 254 ∧ r.ports.getLsbD 12 = false ∧ 1 ≤ ports r ∧ ports r ≤ 4 ∧ 1 ≤ r.hops ∧ r.hops ≤ 4
    let ranges := m.cxlWith o.fd o.cxlPort o.ranges
    let within (r : Nat × Nat) : Prop := 1 ≤ r.2 ∧ r.1 / 2 ^ 48 = 10 + o.fd.val ∧ (r.1 + r.2 - 1) / 2 ^ 48 = 10 + o.fd.val
    let fits : Prop := o.ranges.length ≤ 8 ∧ (∀ r ∈ o.ranges, within r) ∧ (ranges.map (·.2.2.2)).sum ≤ 2 ^ 44
    (x.up = true → x.lost = false → f.crcOk = true → x.waiting = [] →
      let left := x.replay.filter fun g => ¬(f.ack - g.seqno).toNat < 2 ^ 15
      let again : Prop := f.nak = true ∧ left ≠ []
      let tries := if left.head? = x.replay.head? then x.tries else 0
      let y : LinkPort := { x with
        acked := f.ack, replay := left
        tries := if again then tries + 1 else tries, tx := if again then x.tx ++ left else x.tx }
      let z : LinkPort := { y with
        expect := x.expect + 1, owed := addCredit x.owed f.vc.toNat 1, credits := addCredit x.credits f.vc.toNat f.credit.toNat }
      (f.seqno ≠ x.expect ∨ f.nak = true → exec .flitReceive s = .next (s.put (set y))) ∧
      (f.seqno = x.expect → f.nak = false → m.pkgIsOwn f.dest.toNat = true →
        exec .flitReceive s = .next (s.put (set { z with rx := x.rx ++ [f] }))) ∧
      (f.seqno = x.expect → f.nak = false → m.pkgIsOwn f.dest.toNat = false →
        (m.outPort f.dest.toNat f.vc.toNat = none → exec .flitReceive s = .next (s.put (set z))) ∧
        (∀ q, m.outPort f.dest.toNat f.vc.toNat = some q →
          exec .flitReceive s = .next (s.put ((set z).setLink q (((set z).link q).send f)))))) ∧
    (∀ (y : LinkPort), y.waiting = [] →
      let free : Prop := y.up = true ∧ y.lost = false ∧ y.replay.length < 512 ∧ 0 < (y.credits[f.vc.toNat]?).getD 0
      (free → y.send f = { y.put f with waiting := [] }) ∧ (¬free → y.send f = { y with waiting := [f] })) ∧
    (∀ (y : LinkPort), (y.put f).next = y.next + 1 ∧ (y.put f).expect = y.expect ∧ ∃ g : Flit,
      (y.put f).replay = y.replay ++ [g] ∧ (y.put f).tx = y.tx ++ [g] ∧ g.seqno = y.next ∧ g.ack = y.expect - 1 ∧ g.vc = f.vc ∧
        g.dest = f.dest ∧ g.payload = f.payload) ∧
    (x.up = true → x.lost = false → f.crcOk = false → ∃ g : Flit, g.nak = true ∧ g.crcOk = true ∧ g.ack = x.expect - 1 ∧
      exec .flitReceive s = .next (s.put (set { x with naks := x.naks + 1, tx := x.tx ++ [g] }))) ∧
    (x.up = false ∨ x.lost = true → exec .flitReceive s = .next s) ∧
    (x.up = true → x.lost = false →
      (8 ≤ x.tries → exec .linkRetrain s = .next (s.put ((set { x with up := false, downAt := s.ctl.cyc }).report 0xF0 0 0 here))) ∧
      (x.tries < 8 → exec .linkRetrain s = .next s)) ∧
    (x.up = false → x.lost = false →
      (s.ctl.cyc ≤ x.downAt + 1500000 → x.waiting = [] →
        exec .linkRetrained s = .next (s.put (set { x with up := true, tries := 0 }))) ∧
      (x.downAt + 1500000 < s.ctl.cyc → exec .linkRetrained s = .next s) ∧
      (x.downAt + 1500000 ≤ s.ctl.cyc →
        exec .linkLost s = .next (s.put (((set { x with lost := true }).report 0xE3 0 0 here).endColls.endPosts))) ∧
      (s.ctl.cyc < x.downAt + 1500000 → exec .linkLost s = .next s)) ∧
    (o.acyclic = true → (o.routes.map (·.pkg)).eraseDups.length = o.routes.length → (∀ r ∈ o.routes, good r) →
      exec .routingTableLoad s = .next (s.put { m with routes := o.routes })) ∧
    (o.acyclic = false ∨ (∃ r ∈ o.routes, ¬good r) → exec .routingTableLoad s = .next s) ∧
    (o.num.toNat ≤ 254 → exec .pkgnumLoad s = .next (s.put { m with pkgnum := some o.num })) ∧
    (o.num.toNat = 255 → exec .pkgnumLoad s = .next s) ∧
    (fits → exec .dynamicCapacityChange s = .next (s.put { m with cxl := ranges })) ∧
    (¬fits → exec .dynamicCapacityChange s = .next s) ∧
    (∀ (a : Fin 512) v, o.roots = [(a.val, v)] → vget m.roots a.val 0 = 0 → ∃ m' : Mach, exec .asidRootTableLoad s = .next (s.put m') ∧
      vget m'.roots a.val 0 = v ∧ (∀ b < 512, b ≠ a.val → vget m'.roots b 0 = vget m.roots b 0) ∧ m'.mem = m.mem ∧ m'.tasks = m.tasks)

/-! ## The whole machine -/

/-- R17, R37, R38, R102, R135, R136, R151, R255: what a step does around exec. A sequencer's move runs exec of the word that its decoder
reads at its program counter, when its task runs, the sequencer may issue and the word ends inside the program; X's waits while a
transfer fault is to be delivered; a context's move runs exec of the command in progress, or of the word at its program counter; an
event's move runs exec of the event for the agents it names. Where that takes a trap while one of a higher source is pending in the
same clock, the higher one is taken. A posted write is performed, a program loaded, bytes of memory outside the module change; the
clock's move is a move that is due in it, or its end. The agenda loses its first move, a turn is counted, and the step's agent is
noted. An empty agenda leaves the choice to the free schedule (log entry 1). That a due move is made in the clock's place, which
moves are due, and that the higher source's trap is looked for at its wait and at its next word, are the model's reading (log
entry 37). -/
def Obligations.StepRunsDecoded : Prop :=
  (∀ (s : State) (rest : List Move) (n : Fin 320) (q : SeqName) (b : Bound) (i : Instr),
    let c := s.mc.core n.val
    let pc := (c.pcOf q).toNat
    let len := wordLen (c.istore.get pc)
    let t : State := { s with agenda := rest, turns := s.turns + 1 }
    let o := exec i (t.forSeq n q)
    s.agenda = .issue n q :: rest → (q = .x → (s.mc.engine (.core n)).pendFault = none ∨ c.trap.hm = true) →
    c.task = some b → c.mayIssue b q s.ctl.cyc = true → pc + len ≤ b.endOf q → pc < b.endOf q →
    decodeWord q (c.istore.rd pc len) = .ok i → (xPrivileged i = false ∨ b.priv = true) →
    step s = t.firstTrap (some (n, some q)) o ∧ (q = .x ∨ (∀ u, o = .next u → s.mc.tookTrap u.mc n.val = false) → step s = o)) ∧
  (∀ (s : State) (rest : List Move) (e : EngineId) (n : Fin 4) (i : Instr),
    let g := s.mc.engine e
    let x := g.ctx n
    let pc := x.tpc.toNat
    let len := tWordLen (g.pstore.get pc)
    let w := g.pstore.rd pc len
    let priv : Bool := match engineCore e with
      | some c => ((s.mc.core c.val).task.map (·.priv)).getD false
      | none => true
    let decoded : Prop := pc + len ≤ g.plen ∧ pc < g.plen ∧ (if len = 8 then decodeT64 w else decodeT128 w) = some i ∧
      (coreOnly i = false ∨ (engineCore e).isSome = true) ∧ (tPrivileged s.mc.mgmt.svc i = false ∨ priv = true)
    s.agenda = .xfer e n :: rest → s.mc.engineLive e = true → g.turn = some n.val →
    (∃ c, x.cmd = some c ∧ c.word = i) ∨ (x.cmd = none ∧ decoded) →
    step s = exec i ({ s with agenda := rest, turns := s.turns + 1, mc := s.mc.noteTurn e n }.forCtx e n)) ∧
  (∀ (s : State) (rest : List Move) (i : Instr) (o : Occ), s.agenda = .occur i o :: rest → i.isEvent = true →
    let t : State := { s with agenda := rest, turns := s.turns + 1 }
    step s = t.firstTrap (Move.occur i o).trapSource (exec i (t.forOcc o)) ∧
    (i ∉ [Instr.blockingConditionMet, .waitTimeout, .trapDelivery] → step s = exec i (t.forOcc o))) ∧
  (∀ (s : State) (rest : List Move) (e : EngineId) (i : Nat), s.agenda = .land e i :: rest →
    step s = .next { s with agenda := rest, turns := s.turns + 1, mc := s.mc.land s.ctl.cyc e i }) ∧
  (∀ (s : State) (rest : List Move) (e : EngineId) (p : Program), s.agenda = .program e p :: rest →
    step s = .next { s with agenda := rest, turns := s.turns + 1, mc := s.mc.loadProgram e p }) ∧
  (∀ (s : State) (rest : List Move) (a : Nat) (bytes : List Byte), s.agenda = .outside a bytes :: rest →
    let there : Prop := (10 * 2 ^ 48 ≤ a ∧ a + bytes.length ≤ 13 * 2 ^ 48) ∨ (2 ^ 52 ≤ a ∧ a + bytes.length ≤ 2 ^ 62)
    (there → step s = .next { s with agenda := rest, turns := s.turns + 1, mc := { s.mc with mem := s.mc.mem.put a bytes } }) ∧
    (¬there → step s = .next { s with agenda := rest, turns := s.turns + 1 })) ∧
  (∀ (s : State) (rest : List Move), s.agenda = .clock :: rest →
    let t : State := { s with agenda := rest, turns := s.turns + 1 }
    (∀ u, t.due = some u → step s = .next u) ∧ (t.due = none → step s = .next t.clockOne)) ∧
  (∀ (s : State), s.agenda = [] → step s = step { s with agenda := [Config.schedule s.turns] })

/-- A decoder refuses its bytes for a reason. -/
def Sys2Proof.Machine.refusedAs (e : DecodeErr) : Except DecodeErr (Instr × List Byte) → Bool
  | .error e' => e' == e
  | .ok _ => false

/-- R39, R44, R50, R56: words written out from the encoding tables, one or more of each family, decode to what they
stand for; a word with a reserved bit set, and a word of another stream's form, do not. -/
def Obligations.SampleWords : Prop :=
  -- X: OP [7:2], guard [11:8], D [16:12], A [21:17], B [26:22], FN [31:27]
  decodeTableWord 32 (0x00 * 2 ^ 2 + 0x7 * 2 ^ 8 + 3 * 2 ^ 12 + 4 * 2 ^ 17 + 5 * 2 ^ 22 + 1 * 2 ^ 27) =
    some (.sub Guard.always 3 4 5) ∧
  -- X: LEN 01, I16 [47:32]
  decodeTableWord 64 (1 + 0x04 * 2 ^ 2 + 0x7 * 2 ^ 8 + 9 * 2 ^ 12 + 0xFFFE * 2 ^ 32) = some (.li64 Guard.always 9 0xFFFE) ∧
  -- X: LEN 10, LIT [95:64]
  decodeTableWord 96 (2 + 0x04 * 2 ^ 2 + 0x7 * 2 ^ 8 + 9 * 2 ^ 12 + 1 * 2 ^ 27 + 0x12345678 * 2 ^ 64) =
    some (.lih Guard.always 9 0x12345678) ∧
  -- L: GLD, D [15:12], A [19:16]
  decodeTableWord 96 (2 + 0x02 * 2 ^ 2 + 0x7 * 2 ^ 8 + 5 * 2 ^ 12 + 3 * 2 ^ 16) =
    some (.gld { (default : VArgs) with g := Guard.always, d := 5, a := 3 }) ∧
  -- C: VADD with lane type FP32, under a negated guard p2
  decodeTableWord 96 (2 + 0x20 * 2 ^ 2 + 0xA * 2 ^ 8 + 1 * 2 ^ 12 + 2 * 2 ^ 16 + 3 * 2 ^ 20 + 7 * 2 ^ 36) =
    some (.vadd { (default : VArgs) with g := ⟨true, 2⟩, d := 1, a := 2, b := 3, msel := 7 }) ∧
  -- C: MZERO of accumulators 1 and 2
  decodeTableWord 192 (3 + 0x02 * 2 ^ 2 + 0x7 * 2 ^ 8 + 1 * 2 ^ 12 + 1 * 2 ^ 14) =
    some (.mzero { (default : MArgs) with g := Guard.always, acc := 1, acn := 1 }) ∧
  -- a context: COPY a1, a2, a3 with tag 6 and TE; TLI a4 with a literal
  decodeTableWord 64 (0x00 * 2 + 1 * 2 ^ 7 + 2 * 2 ^ 11 + 3 * 2 ^ 15 + 6 * 2 ^ 23 + 2 ^ 29) =
    some (.copy { (default : TArgs) with d := 1, s := 2, h := 3, tag := 6, te := true }) ∧
  decodeTableWord 128 (1 + 0x22 * 2 + 4 * 2 ^ 7 + 0xABCD * 2 ^ 64) =
    some (.tli128 { (default : TArgs) with d := 4, imm64 := 0xABCD }) ∧
  -- an unassigned FN of OP 0x00, and a 32-bit word in L
  refusedAs .badWord (decodeSeq .x (leBytes 4 (0x7 * 2 ^ 8 + 16 * 2 ^ 27))) = true ∧
  refusedAs .badLength (decodeSeq .l (leBytes 4 (0x7 * 2 ^ 8))) = true

/-- R35-R59: for every well-formed step that is fetched, the word the encoding tables give it decodes back to it, with
every operand at every value the encoding admits: a scalar word in X, a vector word in each stream and queue direction
that issues its OP, a matrix word in C, a transfer word in a context. Every step that is no event has such a word. -/
def Obligations.DecodeEncodeRoundTrip : Prop :=
  ∀ (i : Instr), i.wf = true →
    (∀ f, encodeS i = some f → decodeSeq .x (leBytes (4 * (f.len.toNat + 1)) f.toNat) = .ok (i, [])) ∧
    (∀ op w q, encodeV i = some (op, w) → vStreamOk q op = true → vQueueOk q op w.fn.toNat = true →
      decodeSeq q.toSeq (leBytes 12 (w.toNat op)) = .ok (i, [])) ∧
    (∀ op w, encodeM i = some (op, w) → decodeSeq .c (leBytes 24 (w.toNat op)) = .ok (i, [])) ∧
    (∀ long op w, encodeT i = some (long, op, w) → decodeXfer (leBytes (cond long 16 8) (w.toNat long op)) = .ok (i, [])) ∧
    (i.isEvent = false → (encode i).isSome = true)

/-- R22, R20: the tick count is the count of core clocks divided by 96, and every step, of whatever kind, keeps it so; and every step
keeps every store of bytes in its canonical form, in which equal memories are equal data (the form is the model's, log entry 4). -/
def Obligations.TicksStayRight : Prop :=
  (∀ (s t : State), s.ticksRight → s.steps t → t.ticksRight) ∧
  (∀ (s t : State), s.mc.canonical → s.steps t → t.mc.canonical)

/-- R2, R5, R21: every step has a meaning that answers a next state. None of them changes what is about to move or the
count of turns; none but LOCK_CYCLE_TICK and the cold resets changes the count of clocks or ticks; LOCK_CYCLE_TICK moves
to the next multiple of 96 and counts one tick; the cold resets, where they run, leave both counts or set both to zero. -/
def Obligations.EveryStepHasANextState : Prop :=
  ∀ (i : Instr) (s : State), ∃ t, exec i s = .next t ∧ t.agenda = s.agenda ∧ t.turns = s.turns ∧
    (i ∉ [Instr.lockCycleTick, .coldReset, .resetCold] → t.ctl.cyc = s.ctl.cyc ∧ t.ctl.tick = s.ctl.tick) ∧
    (i = .lockCycleTick → t.ctl.cyc = 96 * (s.ctl.cyc / 96 + 1) ∧ t.ctl.tick = s.ctl.tick + 1) ∧
    (i = .coldReset ∨ i = .resetCold → (t.ctl.cyc = s.ctl.cyc ∧ t.ctl.tick = s.ctl.tick) ∨ (t.ctl.cyc = 0 ∧ t.ctl.tick = 0))

/-- R143, R144, R198, R231: the registers of X and of the vector sequencers read back what was last written, s0 and k0
read as zero, p7 as 1 and m7 as all ones, whatever is written to them. -/
def Obligations.HardWiredRegisters : Prop :=
  (∀ (x : XState) (r r' : SReg) (v : W64), (x.setS r v).getS r' = if r' = 0 then 0 else if r' = r then v else x.getS r') ∧
  (∀ (p : BitVec 8) (r r' : PReg) (b : Bool), getPred (setPred p r b) r' = if r' = 7 then true else if r' = r then b else getPred p r') ∧
  (∀ (v : VState) (r r' : Reg4) (x : W64), r.toNat < 8 → r'.toNat < 8 →
    (v.setK r.toNat x).getK r'.toNat = if r' = 0 then 0 else if r' = r then x else v.getK r'.toNat) ∧
  (∀ (c : Core) (n n' : Nat) (x : Mask), n < 8 → n' < 8 →
    (c.setM n x).getM n' = if n' = 7 then BitVec.allOnes 1024 else if n' = n then x else c.getM n')

/-- R146-R148, R138, R430 and R22 at reset: every CSR reads its Reset column, no task is bound, no tick and no clock has passed,
every byte of memory reads zero, and the management controller's registers hold their Reset column. That memory the module does
not itself zero (the CXL, HOST and PEER windows) reads zero is the model's choice (log entry 4), and so is the
canonical form that memory has. -/
def Obligations.ResetState : Prop :=
  let s := State.reset
  let m := s.mc
  s.ticksRight ∧ s.ctl.cyc = 0 ∧ m.canonical ∧ (∀ a, m.mem.get a = 0) ∧
  (∀ n : Fin 320,
    let k : Ctl := { s.ctl with cur := n }
    (m.core n.val).task = none ∧
    (∀ a : BitVec 12, csrAssigned a = true → a ≠ 0x006 → csrRead k m a = 0) ∧
    csrRead k m 0x006 = 0x80 ∧
    (∀ a, (m.core n.val).sp.get a = 0)) ∧
  m.mgmt.mcid = 0x015A08 ∧ m.mgmt.ready = true ∧ m.mgmt.recovery = false ∧ m.mgmt.svc = false ∧ m.mgmt.throt = false ∧
  m.mgmt.step = 0 ∧ m.mgmt.svcReq = false ∧ m.mgmt.coldRst = false ∧ m.mgmt.pwr = 0 ∧ m.mgmt.tempMax = 0 ∧
  m.mgmt.pcap = 4000 ∧ m.mgmt.thrCnt = 0
end

