-- ==== Sys2Proof/Laws/Exec.lean ====
section
/-!
SUPPORT. Laws/Exec.lean: exec of each instruction is its meaning, one lemma per instruction, so that no proof unfolds exec.
-/

namespace Sys2Proof.Machine

@[simp] theorem exec_add g d a b (s : State) : exec (.add g d a b) s = execAdd g d a b s := rfl
@[simp] theorem exec_sub g d a b (s : State) : exec (.sub g d a b) s = execSub g d a b s := rfl
@[simp] theorem exec_andR g d a b (s : State) : exec (.andR g d a b) s = execAndR g d a b s := rfl
@[simp] theorem exec_orR g d a b (s : State) : exec (.orR g d a b) s = execOrR g d a b s := rfl
@[simp] theorem exec_xorR g d a b (s : State) : exec (.xorR g d a b) s = execXorR g d a b s := rfl
@[simp] theorem exec_andn g d a b (s : State) : exec (.andn g d a b) s = execAndn g d a b s := rfl
@[simp] theorem exec_sll g d a b (s : State) : exec (.sll g d a b) s = execSll g d a b s := rfl
@[simp] theorem exec_srl g d a b (s : State) : exec (.srl g d a b) s = execSrl g d a b s := rfl
@[simp] theorem exec_sra g d a b (s : State) : exec (.sra g d a b) s = execSra g d a b s := rfl
@[simp] theorem exec_minS g d a b (s : State) : exec (.minS g d a b) s = execMinS g d a b s := rfl
@[simp] theorem exec_maxS g d a b (s : State) : exec (.maxS g d a b) s = execMaxS g d a b s := rfl
@[simp] theorem exec_minU g d a b (s : State) : exec (.minU g d a b) s = execMinU g d a b s := rfl
@[simp] theorem exec_maxU g d a b (s : State) : exec (.maxU g d a b) s = execMaxU g d a b s := rfl
@[simp] theorem exec_clz g d a (s : State) : exec (.clz g d a) s = execClz g d a s := rfl
@[simp] theorem exec_ctz g d a (s : State) : exec (.ctz g d a) s = execCtz g d a s := rfl
@[simp] theorem exec_popc g d a (s : State) : exec (.popc g d a) s = execPopc g d a s := rfl
@[simp] theorem exec_addImm64 g d a imm (s : State) : exec (.addImm64 g d a imm) s = execAddImm64 g d a imm s := rfl
@[simp] theorem exec_addImm96 g d a imm (s : State) : exec (.addImm96 g d a imm) s = execAddImm96 g d a imm s := rfl
@[simp] theorem exec_subImm64 g d a imm (s : State) : exec (.subImm64 g d a imm) s = execSubImm64 g d a imm s := rfl
@[simp] theorem exec_subImm96 g d a imm (s : State) : exec (.subImm96 g d a imm) s = execSubImm96 g d a imm s := rfl
@[simp] theorem exec_andImm64 g d a imm (s : State) : exec (.andImm64 g d a imm) s = execAndImm64 g d a imm s := rfl
@[simp] theorem exec_andImm96 g d a imm (s : State) : exec (.andImm96 g d a imm) s = execAndImm96 g d a imm s := rfl
@[simp] theorem exec_orImm64 g d a imm (s : State) : exec (.orImm64 g d a imm) s = execOrImm64 g d a imm s := rfl
@[simp] theorem exec_orImm96 g d a imm (s : State) : exec (.orImm96 g d a imm) s = execOrImm96 g d a imm s := rfl
@[simp] theorem exec_xorImm64 g d a imm (s : State) : exec (.xorImm64 g d a imm) s = execXorImm64 g d a imm s := rfl
@[simp] theorem exec_xorImm96 g d a imm (s : State) : exec (.xorImm96 g d a imm) s = execXorImm96 g d a imm s := rfl
@[simp] theorem exec_andnImm64 g d a imm (s : State) : exec (.andnImm64 g d a imm) s = execAndnImm64 g d a imm s := rfl
@[simp] theorem exec_andnImm96 g d a imm (s : State) : exec (.andnImm96 g d a imm) s = execAndnImm96 g d a imm s := rfl
@[simp] theorem exec_sllImm64 g d a imm (s : State) : exec (.sllImm64 g d a imm) s = execSllImm64 g d a imm s := rfl
@[simp] theorem exec_sllImm96 g d a imm (s : State) : exec (.sllImm96 g d a imm) s = execSllImm96 g d a imm s := rfl
@[simp] theorem exec_srlImm64 g d a imm (s : State) : exec (.srlImm64 g d a imm) s = execSrlImm64 g d a imm s := rfl
@[simp] theorem exec_srlImm96 g d a imm (s : State) : exec (.srlImm96 g d a imm) s = execSrlImm96 g d a imm s := rfl
@[simp] theorem exec_sraImm64 g d a imm (s : State) : exec (.sraImm64 g d a imm) s = execSraImm64 g d a imm s := rfl
@[simp] theorem exec_sraImm96 g d a imm (s : State) : exec (.sraImm96 g d a imm) s = execSraImm96 g d a imm s := rfl
@[simp] theorem exec_minImm64 g d a imm (s : State) : exec (.minImm64 g d a imm) s = execMinImm64 g d a imm s := rfl
@[simp] theorem exec_minImm96 g d a imm (s : State) : exec (.minImm96 g d a imm) s = execMinImm96 g d a imm s := rfl
@[simp] theorem exec_maxImm64 g d a imm (s : State) : exec (.maxImm64 g d a imm) s = execMaxImm64 g d a imm s := rfl
@[simp] theorem exec_maxImm96 g d a imm (s : State) : exec (.maxImm96 g d a imm) s = execMaxImm96 g d a imm s := rfl
@[simp] theorem exec_minuImm64 g d a imm (s : State) : exec (.minuImm64 g d a imm) s = execMinuImm64 g d a imm s := rfl
@[simp] theorem exec_minuImm96 g d a imm (s : State) : exec (.minuImm96 g d a imm) s = execMinuImm96 g d a imm s := rfl
@[simp] theorem exec_maxuImm64 g d a imm (s : State) : exec (.maxuImm64 g d a imm) s = execMaxuImm64 g d a imm s := rfl
@[simp] theorem exec_maxuImm96 g d a imm (s : State) : exec (.maxuImm96 g d a imm) s = execMaxuImm96 g d a imm s := rfl
@[simp] theorem exec_mul g d a b (s : State) : exec (.mul g d a b) s = execMul g d a b s := rfl
@[simp] theorem exec_mulh g d a b (s : State) : exec (.mulh g d a b) s = execMulh g d a b s := rfl
@[simp] theorem exec_mulhu g d a b (s : State) : exec (.mulhu g d a b) s = execMulhu g d a b s := rfl
@[simp] theorem exec_div g d a b (s : State) : exec (.div g d a b) s = execDiv g d a b s := rfl
@[simp] theorem exec_divu g d a b (s : State) : exec (.divu g d a b) s = execDivu g d a b s := rfl
@[simp] theorem exec_rem g d a b (s : State) : exec (.rem g d a b) s = execRem g d a b s := rfl
@[simp] theorem exec_remu g d a b (s : State) : exec (.remu g d a b) s = execRemu g d a b s := rfl
@[simp] theorem exec_bfx g d a lsb width (s : State) : exec (.bfx g d a lsb width) s = execBfx g d a lsb width s := rfl
@[simp] theorem exec_bfxs g d a lsb width (s : State) : exec (.bfxs g d a lsb width) s = execBfxs g d a lsb width s := rfl
@[simp] theorem exec_bfi g d a lsb width (s : State) : exec (.bfi g d a lsb width) s = execBfi g d a lsb width s := rfl
@[simp] theorem exec_li64 g d imm (s : State) : exec (.li64 g d imm) s = execLi64 g d imm s := rfl
@[simp] theorem exec_li96 g d lit (s : State) : exec (.li96 g d lit) s = execLi96 g d lit s := rfl
@[simp] theorem exec_lih g d lit (s : State) : exec (.lih g d lit) s = execLih g d lit s := rfl
@[simp] theorem exec_cmp g cond comb pd pe a b immForm imm (s : State) : exec (.cmp g cond comb pd pe a b immForm imm) s = execCmp g cond comb pd pe a b immForm imm s := rfl
@[simp] theorem exec_fcmp g cond comb prec pd pe a b (s : State) : exec (.fcmp g cond comb prec pd pe a b) s = execFcmp g cond comb prec pd pe a b s := rfl
@[simp] theorem exec_plogAnd g pd pa pb (s : State) : exec (.plogAnd g pd pa pb) s = execPlogAnd g pd pa pb s := rfl
@[simp] theorem exec_plogOr g pd pa pb (s : State) : exec (.plogOr g pd pa pb) s = execPlogOr g pd pa pb s := rfl
@[simp] theorem exec_plogXor g pd pa pb (s : State) : exec (.plogXor g pd pa pb) s = execPlogXor g pd pa pb s := rfl
@[simp] theorem exec_plogAndn g pd pa pb (s : State) : exec (.plogAndn g pd pa pb) s = execPlogAndn g pd pa pb s := rfl
@[simp] theorem exec_plogNand g pd pa pb (s : State) : exec (.plogNand g pd pa pb) s = execPlogNand g pd pa pb s := rfl
@[simp] theorem exec_plogNor g pd pa pb (s : State) : exec (.plogNor g pd pa pb) s = execPlogNor g pd pa pb s := rfl
@[simp] theorem exec_plogXnor g pd pa pb (s : State) : exec (.plogXnor g pd pa pb) s = execPlogXnor g pd pa pb s := rfl
@[simp] theorem exec_plogMov g pd pa (s : State) : exec (.plogMov g pd pa) s = execPlogMov g pd pa s := rfl
@[simp] theorem exec_fadd g prec d a b (s : State) : exec (.fadd g prec d a b) s = execFadd g prec d a b s := rfl
@[simp] theorem exec_fsub g prec d a b (s : State) : exec (.fsub g prec d a b) s = execFsub g prec d a b s := rfl
@[simp] theorem exec_fmul g prec d a b (s : State) : exec (.fmul g prec d a b) s = execFmul g prec d a b s := rfl
@[simp] theorem exec_ffma g negp nega prec d a b c (s : State) : exec (.ffma g negp nega prec d a b c) s = execFfma g negp nega prec d a b c s := rfl
@[simp] theorem exec_fmin g prec d a b (s : State) : exec (.fmin g prec d a b) s = execFmin g prec d a b s := rfl
@[simp] theorem exec_fmax g prec d a b (s : State) : exec (.fmax g prec d a b) s = execFmax g prec d a b s := rfl
@[simp] theorem exec_fcvtFpFp g dst src d a (s : State) : exec (.fcvtFpFp g dst src d a) s = execFcvtFpFp g dst src d a s := rfl
@[simp] theorem exec_fcvtFpI64 g src d a (s : State) : exec (.fcvtFpI64 g src d a) s = execFcvtFpI64 g src d a s := rfl
@[simp] theorem exec_fcvtFpU64 g src d a (s : State) : exec (.fcvtFpU64 g src d a) s = execFcvtFpU64 g src d a s := rfl
@[simp] theorem exec_fcvtI64Fp g dst d a (s : State) : exec (.fcvtI64Fp g dst d a) s = execFcvtI64Fp g dst d a s := rfl
@[simp] theorem exec_fcvtU64Fp g dst d a (s : State) : exec (.fcvtU64Fp g dst d a) s = execFcvtU64Fp g dst d a s := rfl
@[simp] theorem exec_br32 g off (s : State) : exec (.br32 g off) s = execBr32 g off s := rfl
@[simp] theorem exec_br64 g off (s : State) : exec (.br64 g off) s = execBr64 g off s := rfl
@[simp] theorem exec_br96 g off (s : State) : exec (.br96 g off) s = execBr96 g off s := rfl
@[simp] theorem exec_call32 g off (s : State) : exec (.call32 g off) s = execCall32 g off s := rfl
@[simp] theorem exec_call64 g off (s : State) : exec (.call64 g off) s = execCall64 g off s := rfl
@[simp] theorem exec_call96 g off (s : State) : exec (.call96 g off) s = execCall96 g off s := rfl
@[simp] theorem exec_jmpr g a (s : State) : exec (.jmpr g a) s = execJmpr g a s := rfl
@[simp] theorem exec_ret g (s : State) : exec (.ret g) s = execRet g s := rfl
@[simp] theorem exec_nop32 g (s : State) : exec (.nop32 g) s = execNop32 g s := rfl
@[simp] theorem exec_nop64 g (s : State) : exec (.nop64 g) s = execNop64 g s := rfl
@[simp] theorem exec_nop96 g (s : State) : exec (.nop96 g) s = execNop96 g s := rfl
@[simp] theorem exec_lds g d a size sx off (s : State) : exec (.lds g d a size sx off) s = execLds g d a size sx off s := rfl
@[simp] theorem exec_sts g a b size off (s : State) : exec (.sts g a b size off) s = execSts g a b size off s := rfl
@[simp] theorem exec_waitlc64 g n rp lim (s : State) : exec (.waitlc64 g n rp lim) s = execWaitlc64 g n rp lim s := rfl
@[simp] theorem exec_waitlc96 g n rp lim (s : State) : exec (.waitlc96 g n rp lim) s = execWaitlc96 g n rp lim s := rfl
@[simp] theorem exec_semadd g a b off (s : State) : exec (.semadd g a b off) s = execSemadd g a b off s := rfl
@[simp] theorem exec_semwait64 g a b off take rp lim (s : State) : exec (.semwait64 g a b off take rp lim) s = execSemwait64 g a b off take rp lim s := rfl
@[simp] theorem exec_semwait96 g a b off take rp lim (s : State) : exec (.semwait96 g a b off take rp lim) s = execSemwait96 g a b off take rp lim s := rfl
@[simp] theorem exec_tagwait64 g d a all clr rp lim (s : State) : exec (.tagwait64 g d a all clr rp lim) s = execTagwait64 g d a all clr rp lim s := rfl
@[simp] theorem exec_tagwait96 g d a all clr rp lim (s : State) : exec (.tagwait96 g d a all clr rp lim) s = execTagwait96 g d a all clr rp lim s := rfl
@[simp] theorem exec_tagff g d a clr (s : State) : exec (.tagff g d a clr) s = execTagff g d a clr s := rfl
@[simp] theorem exec_qput64 g q a rp lim (s : State) : exec (.qput64 g q a rp lim) s = execQput64 g q a rp lim s := rfl
@[simp] theorem exec_qput96 g q a rp lim (s : State) : exec (.qput96 g q a rp lim) s = execQput96 g q a rp lim s := rfl
@[simp] theorem exec_qget64 g q d rp lim (s : State) : exec (.qget64 g q d rp lim) s = execQget64 g q d rp lim s := rfl
@[simp] theorem exec_qget96 g q d rp lim (s : State) : exec (.qget96 g q d rp lim) s = execQget96 g q d rp lim s := rfl
@[simp] theorem exec_fenceFull g scope (s : State) : exec (.fenceFull g scope) s = execFenceFull g scope s := rfl
@[simp] theorem exec_fenceRelease g scope (s : State) : exec (.fenceRelease g scope) s = execFenceRelease g scope s := rfl
@[simp] theorem exec_fenceAcquire g scope (s : State) : exec (.fenceAcquire g scope) s = execFenceAcquire g scope s := rfl
@[simp] theorem exec_fencesc g (s : State) : exec (.fencesc g) s = execFencesc g s := rfl
@[simp] theorem exec_launch g d a rp (s : State) : exec (.launch g d a rp) s = execLaunch g d a rp s := rfl
@[simp] theorem exec_done g (s : State) : exec (.done g) s = execDone g s := rfl
@[simp] theorem exec_yield g (s : State) : exec (.yield g) s = execYield g s := rfl
@[simp] theorem exec_csrr g d csr (s : State) : exec (.csrr g d csr) s = execCsrr g d csr s := rfl
@[simp] theorem exec_csrw g d a csr (s : State) : exec (.csrw g d a csr) s = execCsrw g d a csr s := rfl
@[simp] theorem exec_csrwSet g d a csr (s : State) : exec (.csrwSet g d a csr) s = execCsrwSet g d a csr s := rfl
@[simp] theorem exec_csrwClr g d a csr (s : State) : exec (.csrwClr g d a csr) s = execCsrwClr g d a csr s := rfl
@[simp] theorem exec_trap g code (s : State) : exec (.trap g code) s = execTrap g code s := rfl
@[simp] theorem exec_tret g (s : State) : exec (.tret g) s = execTret g s := rfl
@[simp] theorem exec_apcvtGlob g d a (s : State) : exec (.apcvtGlob g d a) s = execApcvtGlob g d a s := rfl
@[simp] theorem exec_apcvtOwn g d a (s : State) : exec (.apcvtOwn g d a) s = execApcvtOwn g d a s := rfl
@[simp] theorem exec_aptst g d a (s : State) : exec (.aptst g d a) s = execAptst g d a s := rfl
@[simp] theorem exec_txgo64 g a entry rp lim (s : State) : exec (.txgo64 g a entry rp lim) s = execTxgo64 g a entry rp lim s := rfl
@[simp] theorem exec_txgo96 g a entry rp lim (s : State) : exec (.txgo96 g a entry rp lim) s = execTxgo96 g a entry rp lim s := rfl
@[simp] theorem exec_gopen w (s : State) : exec (.gopen w) s = execGopen w s := rfl
@[simp] theorem exec_gopenX w (s : State) : exec (.gopenX w) s = execGopenX w s := rfl
@[simp] theorem exec_gclose w (s : State) : exec (.gclose w) s = execGclose w s := rfl
@[simp] theorem exec_shfence w (s : State) : exec (.shfence w) s = execShfence w s := rfl
@[simp] theorem exec_gld w (s : State) : exec (.gld w) s = execGld w s := rfl
@[simp] theorem exec_gldOa w (s : State) : exec (.gldOa w) s = execGldOa w s := rfl
@[simp] theorem exec_gldOb w (s : State) : exec (.gldOb w) s = execGldOb w s := rfl
@[simp] theorem exec_gldm w (s : State) : exec (.gldm w) s = execGldm w s := rfl
@[simp] theorem exec_gst w (s : State) : exec (.gst w) s = execGst w s := rfl
@[simp] theorem exec_gstAccumulator w (s : State) : exec (.gstAccumulator w) s = execGstAccumulator w s := rfl
@[simp] theorem exec_gstz w (s : State) : exec (.gstz w) s = execGstz w s := rfl
@[simp] theorem exec_gadv w (s : State) : exec (.gadv w) s = execGadv w s := rfl
@[simp] theorem exec_gend w (s : State) : exec (.gend w) s = execGend w s := rfl
@[simp] theorem exec_gldr w (s : State) : exec (.gldr w) s = execGldr w s := rfl
@[simp] theorem exec_fopen w (s : State) : exec (.fopen w) s = execFopen w s := rfl
@[simp] theorem exec_fadv w (s : State) : exec (.fadv w) s = execFadv w s := rfl
@[simp] theorem exec_fend w (s : State) : exec (.fend w) s = execFend w s := rfl
@[simp] theorem exec_fclose w (s : State) : exec (.fclose w) s = execFclose w s := rfl
@[simp] theorem exec_fisect w (s : State) : exec (.fisect w) s = execFisect w s := rfl
@[simp] theorem exec_fldv w (s : State) : exec (.fldv w) s = execFldv w s := rfl
@[simp] theorem exec_fldvCrd w (s : State) : exec (.fldvCrd w) s = execFldvCrd w s := rfl
@[simp] theorem exec_rwaitf w (s : State) : exec (.rwaitf w) s = execRwaitf w s := rfl
@[simp] theorem exec_rwaite w (s : State) : exec (.rwaite w) s = execRwaite w s := rfl
@[simp] theorem exec_rclaim w (s : State) : exec (.rclaim w) s = execRclaim w s := rfl
@[simp] theorem exec_rpub w (s : State) : exec (.rpub w) s = execRpub w s := rfl
@[simp] theorem exec_rrel w (s : State) : exec (.rrel w) s = execRrel w s := rfl
@[simp] theorem exec_qputVw w (s : State) : exec (.qputVw w) s = execQputVw w s := rfl
@[simp] theorem exec_qgetVw w (s : State) : exec (.qgetVw w) s = execQgetVw w s := rfl
@[simp] theorem exec_semaddVw w (s : State) : exec (.semaddVw w) s = execSemaddVw w s := rfl
@[simp] theorem exec_semwaitVw w (s : State) : exec (.semwaitVw w) s = execSemwaitVw w s := rfl
@[simp] theorem exec_kli w (s : State) : exec (.kli w) s = execKli w s := rfl
@[simp] theorem exec_kadd w (s : State) : exec (.kadd w) s = execKadd w s := rfl
@[simp] theorem exec_loopn w (s : State) : exec (.loopn w) s = execLoopn w s := rfl
@[simp] theorem exec_vpm w (s : State) : exec (.vpm w) s = execVpm w s := rfl
@[simp] theorem exec_vadd w (s : State) : exec (.vadd w) s = execVadd w s := rfl
@[simp] theorem exec_vsub w (s : State) : exec (.vsub w) s = execVsub w s := rfl
@[simp] theorem exec_vmul w (s : State) : exec (.vmul w) s = execVmul w s := rfl
@[simp] theorem exec_vfma w (s : State) : exec (.vfma w) s = execVfma w s := rfl
@[simp] theorem exec_vminmax w (s : State) : exec (.vminmax w) s = execVminmax w s := rfl
@[simp] theorem exec_vsgn w (s : State) : exec (.vsgn w) s = execVsgn w s := rfl
@[simp] theorem exec_vclamp w (s : State) : exec (.vclamp w) s = execVclamp w s := rfl
@[simp] theorem exec_viadd w (s : State) : exec (.viadd w) s = execViadd w s := rfl
@[simp] theorem exec_visub w (s : State) : exec (.visub w) s = execVisub w s := rfl
@[simp] theorem exec_vimul w (s : State) : exec (.vimul w) s = execVimul w s := rfl
@[simp] theorem exec_vlogic w (s : State) : exec (.vlogic w) s = execVlogic w s := rfl
@[simp] theorem exec_vshift w (s : State) : exec (.vshift w) s = execVshift w s := rfl
@[simp] theorem exec_viminmax w (s : State) : exec (.viminmax w) s = execViminmax w s := rfl
@[simp] theorem exec_vcmp w (s : State) : exec (.vcmp w) s = execVcmp w s := rfl
@[simp] theorem exec_vsel w (s : State) : exec (.vsel w) s = execVsel w s := rfl
@[simp] theorem exec_vcvt w (s : State) : exec (.vcvt w) s = execVcvt w s := rfl
@[simp] theorem exec_vqnt w (s : State) : exec (.vqnt w) s = execVqnt w s := rfl
@[simp] theorem exec_vsf w (s : State) : exec (.vsf w) s = execVsf w s := rfl
@[simp] theorem exec_vbcr w (s : State) : exec (.vbcr w) s = execVbcr w s := rfl
@[simp] theorem exec_vbcc w (s : State) : exec (.vbcc w) s = execVbcc w s := rfl
@[simp] theorem exec_vrotr w (s : State) : exec (.vrotr w) s = execVrotr w s := rfl
@[simp] theorem exec_vrotc w (s : State) : exec (.vrotc w) s = execVrotc w s := rfl
@[simp] theorem exec_vperm w (s : State) : exec (.vperm w) s = execVperm w s := rfl
@[simp] theorem exec_vmov w (s : State) : exec (.vmov w) s = execVmov w s := rfl
@[simp] theorem exec_vli w (s : State) : exec (.vli w) s = execVli w s := rfl
@[simp] theorem exec_vredr w (s : State) : exec (.vredr w) s = execVredr w s := rfl
@[simp] theorem exec_vredc w (s : State) : exec (.vredc w) s = execVredc w s := rfl
@[simp] theorem exec_vsegr w (s : State) : exec (.vsegr w) s = execVsegr w s := rfl
@[simp] theorem exec_vscanr w (s : State) : exec (.vscanr w) s = execVscanr w s := rfl
@[simp] theorem exec_vrng w (s : State) : exec (.vrng w) s = execVrng w s := rfl
@[simp] theorem exec_upd w (s : State) : exec (.upd w) s = execUpd w s := rfl
@[simp] theorem exec_updf w (s : State) : exec (.updf w) s = execUpdf w s := rfl
@[simp] theorem exec_mma w (s : State) : exec (.mma w) s = execMma w s := rfl
@[simp] theorem exec_mmaD w (s : State) : exec (.mmaD w) s = execMmaD w s := rfl
@[simp] theorem exec_mmas w (s : State) : exec (.mmas w) s = execMmas w s := rfl
@[simp] theorem exec_mzero w (s : State) : exec (.mzero w) s = execMzero w s := rfl
@[simp] theorem exec_maccr w (s : State) : exec (.maccr w) s = execMaccr w s := rfl
@[simp] theorem exec_maccw w (s : State) : exec (.maccw w) s = execMaccw w s := rfl
@[simp] theorem exec_mscale w (s : State) : exec (.mscale w) s = execMscale w s := rfl
@[simp] theorem exec_mwait w (s : State) : exec (.mwait w) s = execMwait w s := rfl
@[simp] theorem exec_copy w (s : State) : exec (.copy w) s = execCopy w s := rfl
@[simp] theorem exec_xpose w (s : State) : exec (.xpose w) s = execXpose w s := rfl
@[simp] theorem exec_conv w (s : State) : exec (.conv w) s = execConv w s := rfl
@[simp] theorem exec_convZp w (s : State) : exec (.convZp w) s = execConvZp w s := rfl
@[simp] theorem exec_convFib w (s : State) : exec (.convFib w) s = execConvFib w s := rfl
@[simp] theorem exec_decomp w (s : State) : exec (.decomp w) s = execDecomp w s := rfl
@[simp] theorem exec_req w (s : State) : exec (.req w) s = execReq w s := rfl
@[simp] theorem exec_gather w (s : State) : exec (.gather w) s = execGather w s := rfl
@[simp] theorem exec_scatter w (s : State) : exec (.scatter w) s = execScatter w s := rfl
@[simp] theorem exec_iread w (s : State) : exec (.iread w) s = execIread w s := rfl
@[simp] theorem exec_mcast w (s : State) : exec (.mcast w) s = execMcast w s := rfl
@[simp] theorem exec_reduce w (s : State) : exec (.reduce w) s = execReduce w s := rfl
@[simp] theorem exec_accw w (s : State) : exec (.accw w) s = execAccw w s := rfl
@[simp] theorem exec_atom w (s : State) : exec (.atom w) s = execAtom w s := rfl
@[simp] theorem exec_signal w (s : State) : exec (.signal w) s = execSignal w s := rfl
@[simp] theorem exec_semwt w (s : State) : exec (.semwt w) s = execSemwt w s := rfl
@[simp] theorem exec_rfill w (s : State) : exec (.rfill w) s = execRfill w s := rfl
@[simp] theorem exec_rdrain w (s : State) : exec (.rdrain w) s = execRdrain w s := rfl
@[simp] theorem exec_tagset w (s : State) : exec (.tagset w) s = execTagset w s := rfl
@[simp] theorem exec_trel w (s : State) : exec (.trel w) s = execTrel w s := rfl
@[simp] theorem exec_tacq w (s : State) : exec (.tacq w) s = execTacq w s := rfl
@[simp] theorem exec_tfence w (s : State) : exec (.tfence w) s = execTfence w s := rfl
@[simp] theorem exec_follow w (s : State) : exec (.follow w) s = execFollow w s := rfl
@[simp] theorem exec_pref w (s : State) : exec (.pref w) s = execPref w s := rfl
@[simp] theorem exec_migh w (s : State) : exec (.migh w) s = execMigh w s := rfl
@[simp] theorem exec_udrain w (s : State) : exec (.udrain w) s = execUdrain w s := rfl
@[simp] theorem exec_urgn w (s : State) : exec (.urgn w) s = execUrgn w s := rfl
@[simp] theorem exec_coll w (s : State) : exec (.coll w) s = execColl w s := rfl
@[simp] theorem exec_tbr64 w (s : State) : exec (.tbr64 w) s = execTbr64 w s := rfl
@[simp] theorem exec_tbr128 w (s : State) : exec (.tbr128 w) s = execTbr128 w s := rfl
@[simp] theorem exec_tloop64 w (s : State) : exec (.tloop64 w) s = execTloop64 w s := rfl
@[simp] theorem exec_tloop128 w (s : State) : exec (.tloop128 w) s = execTloop128 w s := rfl
@[simp] theorem exec_tli64 w (s : State) : exec (.tli64 w) s = execTli64 w s := rfl
@[simp] theorem exec_tli128 w (s : State) : exec (.tli128 w) s = execTli128 w s := rfl
@[simp] theorem exec_tcmp w (s : State) : exec (.tcmp w) s = execTcmp w s := rfl
@[simp] theorem exec_tldr w (s : State) : exec (.tldr w) s = execTldr w s := rfl
@[simp] theorem exec_tstr w (s : State) : exec (.tstr w) s = execTstr w s := rfl
@[simp] theorem exec_tadd64 w (s : State) : exec (.tadd64 w) s = execTadd64 w s := rfl
@[simp] theorem exec_tadd128 w (s : State) : exec (.tadd128 w) s = execTadd128 w s := rfl
@[simp] theorem exec_tsub64 w (s : State) : exec (.tsub64 w) s = execTsub64 w s := rfl
@[simp] theorem exec_tsub128 w (s : State) : exec (.tsub128 w) s = execTsub128 w s := rfl
@[simp] theorem exec_tmul64 w (s : State) : exec (.tmul64 w) s = execTmul64 w s := rfl
@[simp] theorem exec_tmul128 w (s : State) : exec (.tmul128 w) s = execTmul128 w s := rfl
@[simp] theorem exec_tand64 w (s : State) : exec (.tand64 w) s = execTand64 w s := rfl
@[simp] theorem exec_tand128 w (s : State) : exec (.tand128 w) s = execTand128 w s := rfl
@[simp] theorem exec_tor64 w (s : State) : exec (.tor64 w) s = execTor64 w s := rfl
@[simp] theorem exec_tor128 w (s : State) : exec (.tor128 w) s = execTor128 w s := rfl
@[simp] theorem exec_tshl64 w (s : State) : exec (.tshl64 w) s = execTshl64 w s := rfl
@[simp] theorem exec_tshl128 w (s : State) : exec (.tshl128 w) s = execTshl128 w s := rfl
@[simp] theorem exec_tshr64 w (s : State) : exec (.tshr64 w) s = execTshr64 w s := rfl
@[simp] theorem exec_tshr128 w (s : State) : exec (.tshr128 w) s = execTshr128 w s := rfl
@[simp] theorem exec_tend (s : State) : exec (.tend) s = execTend s := rfl
@[simp] theorem exec_ldsComplete (s : State) : exec (.ldsComplete) s = execLdsComplete s := rfl
@[simp] theorem exec_fencescComplete (s : State) : exec (.fencescComplete) s = execFencescComplete s := rfl
@[simp] theorem exec_taskRetirement (s : State) : exec (.taskRetirement) s = execTaskRetirement s := rfl
@[simp] theorem exec_blockingConditionMet (s : State) : exec (.blockingConditionMet) s = execBlockingConditionMet s := rfl
@[simp] theorem exec_waitTimeout (s : State) : exec (.waitTimeout) s = execWaitTimeout s := rfl
@[simp] theorem exec_trapDelivery (s : State) : exec (.trapDelivery) s = execTrapDelivery s := rfl
@[simp] theorem exec_ringExtensionLink (s : State) : exec (.ringExtensionLink) s = execRingExtensionLink s := rfl
@[simp] theorem exec_matrixWordStart (s : State) : exec (.matrixWordStart) s = execMatrixWordStart s := rfl
@[simp] theorem exec_tileStepStart (s : State) : exec (.tileStepStart) s = execTileStepStart s := rfl
@[simp] theorem exec_matrixWordComplete (s : State) : exec (.matrixWordComplete) s = execMatrixWordComplete s := rfl
@[simp] theorem exec_matrixEngineIdle (s : State) : exec (.matrixEngineIdle) s = execMatrixEngineIdle s := rfl
@[simp] theorem exec_admissionGrant (s : State) : exec (.admissionGrant) s = execAdmissionGrant s := rfl
@[simp] theorem exec_contextWaitSatisfied (s : State) : exec (.contextWaitSatisfied) s = execContextWaitSatisfied s := rfl
@[simp] theorem exec_followAccept (s : State) : exec (.followAccept) s = execFollowAccept s := rfl
@[simp] theorem exec_collExchange (s : State) : exec (.collExchange) s = execCollExchange s := rfl
@[simp] theorem exec_invocationStart (s : State) : exec (.invocationStart) s = execInvocationStart s := rfl
@[simp] theorem exec_transferCommandComplete (s : State) : exec (.transferCommandComplete) s = execTransferCommandComplete s := rfl
@[simp] theorem exec_pageWalkComplete (s : State) : exec (.pageWalkComplete) s = execPageWalkComplete s := rfl
@[simp] theorem exec_voteDissent (s : State) : exec (.voteDissent) s = execVoteDissent s := rfl
@[simp] theorem exec_lockCycleTick (s : State) : exec (.lockCycleTick) s = execLockCycleTick s := rfl
@[simp] theorem exec_selection (s : State) : exec (.selection) s = execSelection s := rfl
@[simp] theorem exec_bindDispatch (s : State) : exec (.bindDispatch) s = execBindDispatch s := rfl
@[simp] theorem exec_fastPathBind (s : State) : exec (.fastPathBind) s = execFastPathBind s := rfl
@[simp] theorem exec_overflowPromotion (s : State) : exec (.overflowPromotion) s = execOverflowPromotion s := rfl
@[simp] theorem exec_renamedSetCopy (s : State) : exec (.renamedSetCopy) s = execRenamedSetCopy s := rfl
@[simp] theorem exec_preemptionEvaluation (s : State) : exec (.preemptionEvaluation) s = execPreemptionEvaluation s := rfl
@[simp] theorem exec_preemption (s : State) : exec (.preemption) s = execPreemption s := rfl
@[simp] theorem exec_swapOut (s : State) : exec (.swapOut) s = execSwapOut s := rfl
@[simp] theorem exec_coreFailed (s : State) : exec (.coreFailed) s = execCoreFailed s := rfl
@[simp] theorem exec_readUncorrectable (s : State) : exec (.readUncorrectable) s = execReadUncorrectable s := rfl
@[simp] theorem exec_eccCorrected (s : State) : exec (.eccCorrected) s = execEccCorrected s := rfl
@[simp] theorem exec_eccThreshold (s : State) : exec (.eccThreshold) s = execEccThreshold s := rfl
@[simp] theorem exec_drainUnitTake (s : State) : exec (.drainUnitTake) s = execDrainUnitTake s := rfl
@[simp] theorem exec_basinAccept (s : State) : exec (.basinAccept) s = execBasinAccept s := rfl
@[simp] theorem exec_spillExtensionLink (s : State) : exec (.spillExtensionLink) s = execSpillExtensionLink s := rfl
@[simp] theorem exec_granuleSweep (s : State) : exec (.granuleSweep) s = execGranuleSweep s := rfl
@[simp] theorem exec_basinChosenApply (s : State) : exec (.basinChosenApply) s = execBasinChosenApply s := rfl
@[simp] theorem exec_epochDecision (s : State) : exec (.epochDecision) s = execEpochDecision s := rfl
@[simp] theorem exec_prefRequestServe (s : State) : exec (.prefRequestServe) s = execPrefRequestServe s := rfl
@[simp] theorem exec_tugMoveCommit (s : State) : exec (.tugMoveCommit) s = execTugMoveCommit s := rfl
@[simp] theorem exec_anchorExpiry (s : State) : exec (.anchorExpiry) s = execAnchorExpiry s := rfl
@[simp] theorem exec_invalidationComplete (s : State) : exec (.invalidationComplete) s = execInvalidationComplete s := rfl
@[simp] theorem exec_queueDoorbell (s : State) : exec (.queueDoorbell) s = execQueueDoorbell s := rfl
@[simp] theorem exec_queueErrRead (s : State) : exec (.queueErrRead) s = execQueueErrRead s := rfl
@[simp] theorem exec_nopPacket (s : State) : exec (.nopPacket) s = execNopPacket s := rfl
@[simp] theorem exec_enqueue (s : State) : exec (.enqueue) s = execEnqueue s := rfl
@[simp] theorem exec_fencePacket (s : State) : exec (.fencePacket) s = execFencePacket s := rfl
@[simp] theorem exec_fencePoll (s : State) : exec (.fencePoll) s = execFencePoll s := rfl
@[simp] theorem exec_write (s : State) : exec (.write) s = execWrite s := rfl
@[simp] theorem exec_invalidate (s : State) : exec (.invalidate) s = execInvalidate s := rfl
@[simp] theorem exec_resume (s : State) : exec (.resume) s = execResume s := rfl
@[simp] theorem exec_priority (s : State) : exec (.priority) s = execPriority s := rfl
@[simp] theorem exec_revoke (s : State) : exec (.revoke) s = execRevoke s := rfl
@[simp] theorem exec_pin (s : State) : exec (.pin) s = execPin s := rfl
@[simp] theorem exec_unpin (s : State) : exec (.unpin) s = execUnpin s := rfl
@[simp] theorem exec_unmap (s : State) : exec (.unmap) s = execUnmap s := rfl
@[simp] theorem exec_remap (s : State) : exec (.remap) s = execRemap s := rfl
@[simp] theorem exec_partcfg (s : State) : exec (.partcfg) s = execPartcfg s := rfl
@[simp] theorem exec_slotTableSwitch (s : State) : exec (.slotTableSwitch) s = execSlotTableSwitch s := rfl
@[simp] theorem exec_resetCoreWarm (s : State) : exec (.resetCoreWarm) s = execResetCoreWarm s := rfl
@[simp] theorem exec_resetPartitionWarm (s : State) : exec (.resetPartitionWarm) s = execResetPartitionWarm s := rfl
@[simp] theorem exec_resetDeviceWarm (s : State) : exec (.resetDeviceWarm) s = execResetDeviceWarm s := rfl
@[simp] theorem exec_resetCold (s : State) : exec (.resetCold) s = execResetCold s := rfl
@[simp] theorem exec_resetComplete (s : State) : exec (.resetComplete) s = execResetComplete s := rfl
@[simp] theorem exec_checkpointFull (s : State) : exec (.checkpointFull) s = execCheckpointFull s := rfl
@[simp] theorem exec_checkpointIncremental (s : State) : exec (.checkpointIncremental) s = execCheckpointIncremental s := rfl
@[simp] theorem exec_restore (s : State) : exec (.restore) s = execRestore s := rfl
@[simp] theorem exec_retire (s : State) : exec (.retire) s = execRetire s := rfl
@[simp] theorem exec_remove (s : State) : exec (.remove) s = execRemove s := rfl
@[simp] theorem exec_routingTableLoad (s : State) : exec (.routingTableLoad) s = execRoutingTableLoad s := rfl
@[simp] theorem exec_flitReceive (s : State) : exec (.flitReceive) s = execFlitReceive s := rfl
@[simp] theorem exec_linkRetrain (s : State) : exec (.linkRetrain) s = execLinkRetrain s := rfl
@[simp] theorem exec_linkLost (s : State) : exec (.linkLost) s = execLinkLost s := rfl
@[simp] theorem exec_coldReset (s : State) : exec (.coldReset) s = execColdReset s := rfl
@[simp] theorem exec_bringupStepTimeout (s : State) : exec (.bringupStepTimeout) s = execBringupStepTimeout s := rfl
@[simp] theorem exec_coreGroupRelease (s : State) : exec (.coreGroupRelease) s = execCoreGroupRelease s := rfl
@[simp] theorem exec_throttleEvaluation (s : State) : exec (.throttleEvaluation) s = execThrottleEvaluation s := rfl
@[simp] theorem exec_thermalTrip (s : State) : exec (.thermalTrip) s = execThermalTrip s := rfl
@[simp] theorem exec_coldrst (s : State) : exec (.coldrst) s = execColdrst s := rfl
@[simp] theorem exec_tripClear (s : State) : exec (.tripClear) s = execTripClear s := rfl
@[simp] theorem exec_pcapWrite (s : State) : exec (.pcapWrite) s = execPcapWrite s := rfl
@[simp] theorem exec_thrcntRead (s : State) : exec (.thrcntRead) s = execThrcntRead s := rfl
@[simp] theorem exec_registerWrite (s : State) : exec (.registerWrite) s = execRegisterWrite s := rfl
@[simp] theorem exec_launchResult (s : State) : exec (.launchResult) s = execLaunchResult s := rfl
@[simp] theorem exec_suspensionEndedAsFault (s : State) : exec (.suspensionEndedAsFault) s = execSuspensionEndedAsFault s := rfl
@[simp] theorem exec_linkRetrained (s : State) : exec (.linkRetrained) s = execLinkRetrained s := rfl
@[simp] theorem exec_freeFrameSupply (s : State) : exec (.freeFrameSupply) s = execFreeFrameSupply s := rfl
@[simp] theorem exec_dynamicCapacityChange (s : State) : exec (.dynamicCapacityChange) s = execDynamicCapacityChange s := rfl
@[simp] theorem exec_asidRootTableLoad (s : State) : exec (.asidRootTableLoad) s = execAsidRootTableLoad s := rfl
@[simp] theorem exec_pkgnumLoad (s : State) : exec (.pkgnumLoad) s = execPkgnumLoad s := rfl

end Sys2Proof.Machine
end

