-- ==== Sys2Proof/Laws/State.lean ====
section
/-!
SUPPORT. Laws/State.lean: one lemma per field per update of a record, and what the accessors read back after a write. No
proof needs to unfold a record update.
-/

namespace Sys2Proof.Machine

/-! ## The machine with a core or an engine replaced -/

@[simp] theorem Mach.setCore_engines (m : Mach) (n : Nat) (c : Core) : (m.setCore n c).engines = m.engines := rfl
@[simp] theorem Mach.setCore_mem (m : Mach) (n : Nat) (c : Core) : (m.setCore n c).mem = m.mem := rfl
@[simp] theorem Mach.setCore_tlb2 (m : Mach) (n : Nat) (c : Core) : (m.setCore n c).tlb2 = m.tlb2 := rfl
@[simp] theorem Mach.setCore_roots (m : Mach) (n : Nat) (c : Core) : (m.setCore n c).roots = m.roots := rfl
@[simp] theorem Mach.setCore_basins (m : Mach) (n : Nat) (c : Core) : (m.setCore n c).basins = m.basins := rfl
@[simp] theorem Mach.setCore_starts (m : Mach) (n : Nat) (c : Core) : (m.setCore n c).starts = m.starts := rfl
@[simp] theorem Mach.setCore_spares (m : Mach) (n : Nat) (c : Core) : (m.setCore n c).spares = m.spares := rfl
@[simp] theorem Mach.setCore_absent (m : Mach) (n : Nat) (c : Core) : (m.setCore n c).absent = m.absent := rfl
@[simp] theorem Mach.setCore_nextTid (m : Mach) (n : Nat) (c : Core) : (m.setCore n c).nextTid = m.nextTid := rfl
@[simp] theorem Mach.setCore_tasks (m : Mach) (n : Nat) (c : Core) : (m.setCore n c).tasks = m.tasks := rfl
@[simp] theorem Mach.setCore_sets (m : Mach) (n : Nat) (c : Core) : (m.setCore n c).sets = m.sets := rfl
@[simp] theorem Mach.setCore_slots (m : Mach) (n : Nat) (c : Core) : (m.setCore n c).slots = m.slots := rfl
@[simp] theorem Mach.setCore_preReqs (m : Mach) (n : Nat) (c : Core) : (m.setCore n c).preReqs = m.preReqs := rfl
@[simp] theorem Mach.setCore_evalAt (m : Mach) (n : Nat) (c : Core) : (m.setCore n c).evalAt = m.evalAt := rfl
@[simp] theorem Mach.setCore_epochAt (m : Mach) (n : Nat) (c : Core) : (m.setCore n c).epochAt = m.epochAt := rfl
@[simp] theorem Mach.setCore_swapSince (m : Mach) (n : Nat) (c : Core) : (m.setCore n c).swapSince = m.swapSince := rfl
@[simp] theorem Mach.setCore_parts (m : Mach) (n : Nat) (c : Core) : (m.setCore n c).parts = m.parts := rfl
@[simp] theorem Mach.setCore_frames (m : Mach) (n : Nat) (c : Core) : (m.setCore n c).frames = m.frames := rfl
@[simp] theorem Mach.setCore_reserve (m : Mach) (n : Nat) (c : Core) : (m.setCore n c).reserve = m.reserve := rfl
@[simp] theorem Mach.setCore_admitted (m : Mach) (n : Nat) (c : Core) : (m.setCore n c).admitted = m.admitted := rfl
@[simp] theorem Mach.setCore_collSeen (m : Mach) (n : Nat) (c : Core) : (m.setCore n c).collSeen = m.collSeen := rfl
@[simp] theorem Mach.setCore_slotTabs (m : Mach) (n : Nat) (c : Core) : (m.setCore n c).slotTabs = m.slotTabs := rfl
@[simp] theorem Mach.setCore_slotNext (m : Mach) (n : Nat) (c : Core) : (m.setCore n c).slotNext = m.slotNext := rfl
@[simp] theorem Mach.setCore_queues (m : Mach) (n : Nat) (c : Core) : (m.setCore n c).queues = m.queues := rfl
@[simp] theorem Mach.setCore_events (m : Mach) (n : Nat) (c : Core) : (m.setCore n c).events = m.events := rfl
@[simp] theorem Mach.setCore_msgs (m : Mach) (n : Nat) (c : Core) : (m.setCore n c).msgs = m.msgs := rfl
@[simp] theorem Mach.setCore_nextSeq (m : Mach) (n : Nat) (c : Core) : (m.setCore n c).nextSeq = m.nextSeq := rfl
@[simp] theorem Mach.setCore_invals (m : Mach) (n : Nat) (c : Core) : (m.setCore n c).invals = m.invals := rfl
@[simp] theorem Mach.setCore_nextInval (m : Mach) (n : Nat) (c : Core) : (m.setCore n c).nextInval = m.nextInval := rfl
@[simp] theorem Mach.setCore_pins (m : Mach) (n : Nat) (c : Core) : (m.setCore n c).pins = m.pins := rfl
@[simp] theorem Mach.setCore_pages (m : Mach) (n : Nat) (c : Core) : (m.setCore n c).pages = m.pages := rfl
@[simp] theorem Mach.setCore_prefs (m : Mach) (n : Nat) (c : Core) : (m.setCore n c).prefs = m.prefs := rfl
@[simp] theorem Mach.setCore_moves (m : Mach) (n : Nat) (c : Core) : (m.setCore n c).moves = m.moves := rfl
@[simp] theorem Mach.setCore_free (m : Mach) (n : Nat) (c : Core) : (m.setCore n c).free = m.free := rfl
@[simp] theorem Mach.setCore_freed (m : Mach) (n : Nat) (c : Core) : (m.setCore n c).freed = m.freed := rfl
@[simp] theorem Mach.setCore_cxl (m : Mach) (n : Nat) (c : Core) : (m.setCore n c).cxl = m.cxl := rfl
@[simp] theorem Mach.setCore_links (m : Mach) (n : Nat) (c : Core) : (m.setCore n c).links = m.links := rfl
@[simp] theorem Mach.setCore_routes (m : Mach) (n : Nat) (c : Core) : (m.setCore n c).routes = m.routes := rfl
@[simp] theorem Mach.setCore_pkgnum (m : Mach) (n : Nat) (c : Core) : (m.setCore n c).pkgnum = m.pkgnum := rfl
@[simp] theorem Mach.setCore_dockArea (m : Mach) (n : Nat) (c : Core) : (m.setCore n c).dockArea = m.dockArea := rfl
@[simp] theorem Mach.setCore_dock (m : Mach) (n : Nat) (c : Core) : (m.setCore n c).dock = m.dock := rfl
@[simp] theorem Mach.setCore_dockNext (m : Mach) (n : Nat) (c : Core) : (m.setCore n c).dockNext = m.dockNext := rfl
@[simp] theorem Mach.setCore_dirty (m : Mach) (n : Nat) (c : Core) : (m.setCore n c).dirty = m.dirty := rfl
@[simp] theorem Mach.setCore_ckptRun (m : Mach) (n : Nat) (c : Core) : (m.setCore n c).ckptRun = m.ckptRun := rfl
@[simp] theorem Mach.setCore_retiring (m : Mach) (n : Nat) (c : Core) : (m.setCore n c).retiring = m.retiring := rfl
@[simp] theorem Mach.setCore_dissent (m : Mach) (n : Nat) (c : Core) : (m.setCore n c).dissent = m.dissent := rfl
@[simp] theorem Mach.setCore_ecc (m : Mach) (n : Nat) (c : Core) : (m.setCore n c).ecc = m.ecc := rfl
@[simp] theorem Mach.setCore_mgmt (m : Mach) (n : Nat) (c : Core) : (m.setCore n c).mgmt = m.mgmt := rfl
@[simp] theorem Mach.setCore_enqAt (m : Mach) (n : Nat) (c : Core) : (m.setCore n c).enqAt = m.enqAt := rfl
@[simp] theorem Mach.setCore_incTags (m : Mach) (n : Nat) (c : Core) : (m.setCore n c).incTags = m.incTags := rfl
@[simp] theorem Mach.setCore_capAsks (m : Mach) (n : Nat) (c : Core) : (m.setCore n c).capAsks = m.capAsks := rfl
@[simp] theorem Mach.setCore_colls (m : Mach) (n : Nat) (c : Core) : (m.setCore n c).colls = m.colls := rfl
@[simp] theorem Mach.setCore_unmoored (m : Mach) (n : Nat) (c : Core) : (m.setCore n c).unmoored = m.unmoored := rfl
@[simp] theorem Mach.setCore_owed (m : Mach) (n : Nat) (c : Core) : (m.setCore n c).owed = m.owed := rfl
@[simp] theorem Mach.setCore_journal (m : Mach) (n : Nat) (c : Core) : (m.setCore n c).journal = m.journal := rfl
@[simp] theorem Mach.setCore_basinTurns (m : Mach) (n : Nat) (c : Core) : (m.setCore n c).basinTurns = m.basinTurns := rfl
@[simp] theorem Mach.setCore_ckptNo (m : Mach) (n : Nat) (c : Core) : (m.setCore n c).ckptNo = m.ckptNo := rfl
@[simp] theorem Mach.setCore_regData (m : Mach) (n : Nat) (c : Core) : (m.setCore n c).regData = m.regData := rfl
@[simp] theorem Mach.setEngine_cores (m : Mach) (e : EngineId) (g : Engine) : (m.setEngine e g).cores = m.cores := rfl
@[simp] theorem Mach.setEngine_mem (m : Mach) (e : EngineId) (g : Engine) : (m.setEngine e g).mem = m.mem := rfl
@[simp] theorem Mach.setEngine_tlb2 (m : Mach) (e : EngineId) (g : Engine) : (m.setEngine e g).tlb2 = m.tlb2 := rfl
@[simp] theorem Mach.setEngine_roots (m : Mach) (e : EngineId) (g : Engine) : (m.setEngine e g).roots = m.roots := rfl
@[simp] theorem Mach.setEngine_basins (m : Mach) (e : EngineId) (g : Engine) : (m.setEngine e g).basins = m.basins := rfl
@[simp] theorem Mach.setEngine_starts (m : Mach) (e : EngineId) (g : Engine) : (m.setEngine e g).starts = m.starts := rfl
@[simp] theorem Mach.setEngine_spares (m : Mach) (e : EngineId) (g : Engine) : (m.setEngine e g).spares = m.spares := rfl
@[simp] theorem Mach.setEngine_absent (m : Mach) (e : EngineId) (g : Engine) : (m.setEngine e g).absent = m.absent := rfl
@[simp] theorem Mach.setEngine_nextTid (m : Mach) (e : EngineId) (g : Engine) : (m.setEngine e g).nextTid = m.nextTid := rfl
@[simp] theorem Mach.setEngine_tasks (m : Mach) (e : EngineId) (g : Engine) : (m.setEngine e g).tasks = m.tasks := rfl
@[simp] theorem Mach.setEngine_sets (m : Mach) (e : EngineId) (g : Engine) : (m.setEngine e g).sets = m.sets := rfl
@[simp] theorem Mach.setEngine_slots (m : Mach) (e : EngineId) (g : Engine) : (m.setEngine e g).slots = m.slots := rfl
@[simp] theorem Mach.setEngine_preReqs (m : Mach) (e : EngineId) (g : Engine) : (m.setEngine e g).preReqs = m.preReqs := rfl
@[simp] theorem Mach.setEngine_evalAt (m : Mach) (e : EngineId) (g : Engine) : (m.setEngine e g).evalAt = m.evalAt := rfl
@[simp] theorem Mach.setEngine_epochAt (m : Mach) (e : EngineId) (g : Engine) : (m.setEngine e g).epochAt = m.epochAt := rfl
@[simp] theorem Mach.setEngine_swapSince (m : Mach) (e : EngineId) (g : Engine) : (m.setEngine e g).swapSince = m.swapSince := rfl
@[simp] theorem Mach.setEngine_parts (m : Mach) (e : EngineId) (g : Engine) : (m.setEngine e g).parts = m.parts := rfl
@[simp] theorem Mach.setEngine_frames (m : Mach) (e : EngineId) (g : Engine) : (m.setEngine e g).frames = m.frames := rfl
@[simp] theorem Mach.setEngine_reserve (m : Mach) (e : EngineId) (g : Engine) : (m.setEngine e g).reserve = m.reserve := rfl
@[simp] theorem Mach.setEngine_admitted (m : Mach) (e : EngineId) (g : Engine) : (m.setEngine e g).admitted = m.admitted := rfl
@[simp] theorem Mach.setEngine_collSeen (m : Mach) (e : EngineId) (g : Engine) : (m.setEngine e g).collSeen = m.collSeen := rfl
@[simp] theorem Mach.setEngine_slotTabs (m : Mach) (e : EngineId) (g : Engine) : (m.setEngine e g).slotTabs = m.slotTabs := rfl
@[simp] theorem Mach.setEngine_slotNext (m : Mach) (e : EngineId) (g : Engine) : (m.setEngine e g).slotNext = m.slotNext := rfl
@[simp] theorem Mach.setEngine_queues (m : Mach) (e : EngineId) (g : Engine) : (m.setEngine e g).queues = m.queues := rfl
@[simp] theorem Mach.setEngine_events (m : Mach) (e : EngineId) (g : Engine) : (m.setEngine e g).events = m.events := rfl
@[simp] theorem Mach.setEngine_msgs (m : Mach) (e : EngineId) (g : Engine) : (m.setEngine e g).msgs = m.msgs := rfl
@[simp] theorem Mach.setEngine_nextSeq (m : Mach) (e : EngineId) (g : Engine) : (m.setEngine e g).nextSeq = m.nextSeq := rfl
@[simp] theorem Mach.setEngine_invals (m : Mach) (e : EngineId) (g : Engine) : (m.setEngine e g).invals = m.invals := rfl
@[simp] theorem Mach.setEngine_nextInval (m : Mach) (e : EngineId) (g : Engine) : (m.setEngine e g).nextInval = m.nextInval := rfl
@[simp] theorem Mach.setEngine_pins (m : Mach) (e : EngineId) (g : Engine) : (m.setEngine e g).pins = m.pins := rfl
@[simp] theorem Mach.setEngine_pages (m : Mach) (e : EngineId) (g : Engine) : (m.setEngine e g).pages = m.pages := rfl
@[simp] theorem Mach.setEngine_prefs (m : Mach) (e : EngineId) (g : Engine) : (m.setEngine e g).prefs = m.prefs := rfl
@[simp] theorem Mach.setEngine_moves (m : Mach) (e : EngineId) (g : Engine) : (m.setEngine e g).moves = m.moves := rfl
@[simp] theorem Mach.setEngine_free (m : Mach) (e : EngineId) (g : Engine) : (m.setEngine e g).free = m.free := rfl
@[simp] theorem Mach.setEngine_freed (m : Mach) (e : EngineId) (g : Engine) : (m.setEngine e g).freed = m.freed := rfl
@[simp] theorem Mach.setEngine_cxl (m : Mach) (e : EngineId) (g : Engine) : (m.setEngine e g).cxl = m.cxl := rfl
@[simp] theorem Mach.setEngine_links (m : Mach) (e : EngineId) (g : Engine) : (m.setEngine e g).links = m.links := rfl
@[simp] theorem Mach.setEngine_routes (m : Mach) (e : EngineId) (g : Engine) : (m.setEngine e g).routes = m.routes := rfl
@[simp] theorem Mach.setEngine_pkgnum (m : Mach) (e : EngineId) (g : Engine) : (m.setEngine e g).pkgnum = m.pkgnum := rfl
@[simp] theorem Mach.setEngine_dockArea (m : Mach) (e : EngineId) (g : Engine) : (m.setEngine e g).dockArea = m.dockArea := rfl
@[simp] theorem Mach.setEngine_dock (m : Mach) (e : EngineId) (g : Engine) : (m.setEngine e g).dock = m.dock := rfl
@[simp] theorem Mach.setEngine_dockNext (m : Mach) (e : EngineId) (g : Engine) : (m.setEngine e g).dockNext = m.dockNext := rfl
@[simp] theorem Mach.setEngine_dirty (m : Mach) (e : EngineId) (g : Engine) : (m.setEngine e g).dirty = m.dirty := rfl
@[simp] theorem Mach.setEngine_ckptRun (m : Mach) (e : EngineId) (g : Engine) : (m.setEngine e g).ckptRun = m.ckptRun := rfl
@[simp] theorem Mach.setEngine_retiring (m : Mach) (e : EngineId) (g : Engine) : (m.setEngine e g).retiring = m.retiring := rfl
@[simp] theorem Mach.setEngine_dissent (m : Mach) (e : EngineId) (g : Engine) : (m.setEngine e g).dissent = m.dissent := rfl
@[simp] theorem Mach.setEngine_ecc (m : Mach) (e : EngineId) (g : Engine) : (m.setEngine e g).ecc = m.ecc := rfl
@[simp] theorem Mach.setEngine_mgmt (m : Mach) (e : EngineId) (g : Engine) : (m.setEngine e g).mgmt = m.mgmt := rfl
@[simp] theorem Mach.setEngine_enqAt (m : Mach) (e : EngineId) (g : Engine) : (m.setEngine e g).enqAt = m.enqAt := rfl
@[simp] theorem Mach.setEngine_incTags (m : Mach) (e : EngineId) (g : Engine) : (m.setEngine e g).incTags = m.incTags := rfl
@[simp] theorem Mach.setEngine_capAsks (m : Mach) (e : EngineId) (g : Engine) : (m.setEngine e g).capAsks = m.capAsks := rfl
@[simp] theorem Mach.setEngine_colls (m : Mach) (e : EngineId) (g : Engine) : (m.setEngine e g).colls = m.colls := rfl
@[simp] theorem Mach.setEngine_unmoored (m : Mach) (e : EngineId) (g : Engine) : (m.setEngine e g).unmoored = m.unmoored := rfl
@[simp] theorem Mach.setEngine_owed (m : Mach) (e : EngineId) (g : Engine) : (m.setEngine e g).owed = m.owed := rfl
@[simp] theorem Mach.setEngine_journal (m : Mach) (e : EngineId) (g : Engine) : (m.setEngine e g).journal = m.journal := rfl
@[simp] theorem Mach.setEngine_basinTurns (m : Mach) (e : EngineId) (g : Engine) : (m.setEngine e g).basinTurns = m.basinTurns := rfl
@[simp] theorem Mach.setEngine_ckptNo (m : Mach) (e : EngineId) (g : Engine) : (m.setEngine e g).ckptNo = m.ckptNo := rfl
@[simp] theorem Mach.setEngine_regData (m : Mach) (e : EngineId) (g : Engine) : (m.setEngine e g).regData = m.regData := rfl

/-! ## The machine with a queue, a partition or a link replaced -/

@[simp] theorem Mach.setQueue_cores (m : Mach) (q : QueueId) (x : HostQ) : (m.setQueue q x).cores = m.cores := rfl
@[simp] theorem Mach.setQueue_engines (m : Mach) (q : QueueId) (x : HostQ) : (m.setQueue q x).engines = m.engines := rfl
@[simp] theorem Mach.setQueue_mem (m : Mach) (q : QueueId) (x : HostQ) : (m.setQueue q x).mem = m.mem := rfl
@[simp] theorem Mach.setQueue_tlb2 (m : Mach) (q : QueueId) (x : HostQ) : (m.setQueue q x).tlb2 = m.tlb2 := rfl
@[simp] theorem Mach.setQueue_roots (m : Mach) (q : QueueId) (x : HostQ) : (m.setQueue q x).roots = m.roots := rfl
@[simp] theorem Mach.setQueue_basins (m : Mach) (q : QueueId) (x : HostQ) : (m.setQueue q x).basins = m.basins := rfl
@[simp] theorem Mach.setQueue_starts (m : Mach) (q : QueueId) (x : HostQ) : (m.setQueue q x).starts = m.starts := rfl
@[simp] theorem Mach.setQueue_spares (m : Mach) (q : QueueId) (x : HostQ) : (m.setQueue q x).spares = m.spares := rfl
@[simp] theorem Mach.setQueue_absent (m : Mach) (q : QueueId) (x : HostQ) : (m.setQueue q x).absent = m.absent := rfl
@[simp] theorem Mach.setQueue_nextTid (m : Mach) (q : QueueId) (x : HostQ) : (m.setQueue q x).nextTid = m.nextTid := rfl
@[simp] theorem Mach.setQueue_tasks (m : Mach) (q : QueueId) (x : HostQ) : (m.setQueue q x).tasks = m.tasks := rfl
@[simp] theorem Mach.setQueue_sets (m : Mach) (q : QueueId) (x : HostQ) : (m.setQueue q x).sets = m.sets := rfl
@[simp] theorem Mach.setQueue_slots (m : Mach) (q : QueueId) (x : HostQ) : (m.setQueue q x).slots = m.slots := rfl
@[simp] theorem Mach.setQueue_preReqs (m : Mach) (q : QueueId) (x : HostQ) : (m.setQueue q x).preReqs = m.preReqs := rfl
@[simp] theorem Mach.setQueue_evalAt (m : Mach) (q : QueueId) (x : HostQ) : (m.setQueue q x).evalAt = m.evalAt := rfl
@[simp] theorem Mach.setQueue_epochAt (m : Mach) (q : QueueId) (x : HostQ) : (m.setQueue q x).epochAt = m.epochAt := rfl
@[simp] theorem Mach.setQueue_swapSince (m : Mach) (q : QueueId) (x : HostQ) : (m.setQueue q x).swapSince = m.swapSince := rfl
@[simp] theorem Mach.setQueue_parts (m : Mach) (q : QueueId) (x : HostQ) : (m.setQueue q x).parts = m.parts := rfl
@[simp] theorem Mach.setQueue_frames (m : Mach) (q : QueueId) (x : HostQ) : (m.setQueue q x).frames = m.frames := rfl
@[simp] theorem Mach.setQueue_reserve (m : Mach) (q : QueueId) (x : HostQ) : (m.setQueue q x).reserve = m.reserve := rfl
@[simp] theorem Mach.setQueue_admitted (m : Mach) (q : QueueId) (x : HostQ) : (m.setQueue q x).admitted = m.admitted := rfl
@[simp] theorem Mach.setQueue_collSeen (m : Mach) (q : QueueId) (x : HostQ) : (m.setQueue q x).collSeen = m.collSeen := rfl
@[simp] theorem Mach.setQueue_slotTabs (m : Mach) (q : QueueId) (x : HostQ) : (m.setQueue q x).slotTabs = m.slotTabs := rfl
@[simp] theorem Mach.setQueue_slotNext (m : Mach) (q : QueueId) (x : HostQ) : (m.setQueue q x).slotNext = m.slotNext := rfl
@[simp] theorem Mach.setQueue_events (m : Mach) (q : QueueId) (x : HostQ) : (m.setQueue q x).events = m.events := rfl
@[simp] theorem Mach.setQueue_msgs (m : Mach) (q : QueueId) (x : HostQ) : (m.setQueue q x).msgs = m.msgs := rfl
@[simp] theorem Mach.setQueue_nextSeq (m : Mach) (q : QueueId) (x : HostQ) : (m.setQueue q x).nextSeq = m.nextSeq := rfl
@[simp] theorem Mach.setQueue_invals (m : Mach) (q : QueueId) (x : HostQ) : (m.setQueue q x).invals = m.invals := rfl
@[simp] theorem Mach.setQueue_nextInval (m : Mach) (q : QueueId) (x : HostQ) : (m.setQueue q x).nextInval = m.nextInval := rfl
@[simp] theorem Mach.setQueue_pins (m : Mach) (q : QueueId) (x : HostQ) : (m.setQueue q x).pins = m.pins := rfl
@[simp] theorem Mach.setQueue_pages (m : Mach) (q : QueueId) (x : HostQ) : (m.setQueue q x).pages = m.pages := rfl
@[simp] theorem Mach.setQueue_prefs (m : Mach) (q : QueueId) (x : HostQ) : (m.setQueue q x).prefs = m.prefs := rfl
@[simp] theorem Mach.setQueue_moves (m : Mach) (q : QueueId) (x : HostQ) : (m.setQueue q x).moves = m.moves := rfl
@[simp] theorem Mach.setQueue_free (m : Mach) (q : QueueId) (x : HostQ) : (m.setQueue q x).free = m.free := rfl
@[simp] theorem Mach.setQueue_freed (m : Mach) (q : QueueId) (x : HostQ) : (m.setQueue q x).freed = m.freed := rfl
@[simp] theorem Mach.setQueue_cxl (m : Mach) (q : QueueId) (x : HostQ) : (m.setQueue q x).cxl = m.cxl := rfl
@[simp] theorem Mach.setQueue_links (m : Mach) (q : QueueId) (x : HostQ) : (m.setQueue q x).links = m.links := rfl
@[simp] theorem Mach.setQueue_routes (m : Mach) (q : QueueId) (x : HostQ) : (m.setQueue q x).routes = m.routes := rfl
@[simp] theorem Mach.setQueue_pkgnum (m : Mach) (q : QueueId) (x : HostQ) : (m.setQueue q x).pkgnum = m.pkgnum := rfl
@[simp] theorem Mach.setQueue_dockArea (m : Mach) (q : QueueId) (x : HostQ) : (m.setQueue q x).dockArea = m.dockArea := rfl
@[simp] theorem Mach.setQueue_dock (m : Mach) (q : QueueId) (x : HostQ) : (m.setQueue q x).dock = m.dock := rfl
@[simp] theorem Mach.setQueue_dockNext (m : Mach) (q : QueueId) (x : HostQ) : (m.setQueue q x).dockNext = m.dockNext := rfl
@[simp] theorem Mach.setQueue_dirty (m : Mach) (q : QueueId) (x : HostQ) : (m.setQueue q x).dirty = m.dirty := rfl
@[simp] theorem Mach.setQueue_ckptRun (m : Mach) (q : QueueId) (x : HostQ) : (m.setQueue q x).ckptRun = m.ckptRun := rfl
@[simp] theorem Mach.setQueue_retiring (m : Mach) (q : QueueId) (x : HostQ) : (m.setQueue q x).retiring = m.retiring := rfl
@[simp] theorem Mach.setQueue_dissent (m : Mach) (q : QueueId) (x : HostQ) : (m.setQueue q x).dissent = m.dissent := rfl
@[simp] theorem Mach.setQueue_ecc (m : Mach) (q : QueueId) (x : HostQ) : (m.setQueue q x).ecc = m.ecc := rfl
@[simp] theorem Mach.setQueue_mgmt (m : Mach) (q : QueueId) (x : HostQ) : (m.setQueue q x).mgmt = m.mgmt := rfl
@[simp] theorem Mach.setQueue_enqAt (m : Mach) (q : QueueId) (x : HostQ) : (m.setQueue q x).enqAt = m.enqAt := rfl
@[simp] theorem Mach.setQueue_incTags (m : Mach) (q : QueueId) (x : HostQ) : (m.setQueue q x).incTags = m.incTags := rfl
@[simp] theorem Mach.setQueue_capAsks (m : Mach) (q : QueueId) (x : HostQ) : (m.setQueue q x).capAsks = m.capAsks := rfl
@[simp] theorem Mach.setQueue_colls (m : Mach) (q : QueueId) (x : HostQ) : (m.setQueue q x).colls = m.colls := rfl
@[simp] theorem Mach.setQueue_unmoored (m : Mach) (q : QueueId) (x : HostQ) : (m.setQueue q x).unmoored = m.unmoored := rfl
@[simp] theorem Mach.setQueue_owed (m : Mach) (q : QueueId) (x : HostQ) : (m.setQueue q x).owed = m.owed := rfl
@[simp] theorem Mach.setQueue_journal (m : Mach) (q : QueueId) (x : HostQ) : (m.setQueue q x).journal = m.journal := rfl
@[simp] theorem Mach.setQueue_basinTurns (m : Mach) (q : QueueId) (x : HostQ) : (m.setQueue q x).basinTurns = m.basinTurns := rfl
@[simp] theorem Mach.setQueue_ckptNo (m : Mach) (q : QueueId) (x : HostQ) : (m.setQueue q x).ckptNo = m.ckptNo := rfl
@[simp] theorem Mach.setQueue_regData (m : Mach) (q : QueueId) (x : HostQ) : (m.setQueue q x).regData = m.regData := rfl
@[simp] theorem Mach.setPart_cores (m : Mach) (p : Nat) (x : Partition) : (m.setPart p x).cores = m.cores := rfl
@[simp] theorem Mach.setPart_engines (m : Mach) (p : Nat) (x : Partition) : (m.setPart p x).engines = m.engines := rfl
@[simp] theorem Mach.setPart_mem (m : Mach) (p : Nat) (x : Partition) : (m.setPart p x).mem = m.mem := rfl
@[simp] theorem Mach.setPart_tlb2 (m : Mach) (p : Nat) (x : Partition) : (m.setPart p x).tlb2 = m.tlb2 := rfl
@[simp] theorem Mach.setPart_roots (m : Mach) (p : Nat) (x : Partition) : (m.setPart p x).roots = m.roots := rfl
@[simp] theorem Mach.setPart_basins (m : Mach) (p : Nat) (x : Partition) : (m.setPart p x).basins = m.basins := rfl
@[simp] theorem Mach.setPart_starts (m : Mach) (p : Nat) (x : Partition) : (m.setPart p x).starts = m.starts := rfl
@[simp] theorem Mach.setPart_spares (m : Mach) (p : Nat) (x : Partition) : (m.setPart p x).spares = m.spares := rfl
@[simp] theorem Mach.setPart_absent (m : Mach) (p : Nat) (x : Partition) : (m.setPart p x).absent = m.absent := rfl
@[simp] theorem Mach.setPart_nextTid (m : Mach) (p : Nat) (x : Partition) : (m.setPart p x).nextTid = m.nextTid := rfl
@[simp] theorem Mach.setPart_tasks (m : Mach) (p : Nat) (x : Partition) : (m.setPart p x).tasks = m.tasks := rfl
@[simp] theorem Mach.setPart_sets (m : Mach) (p : Nat) (x : Partition) : (m.setPart p x).sets = m.sets := rfl
@[simp] theorem Mach.setPart_slots (m : Mach) (p : Nat) (x : Partition) : (m.setPart p x).slots = m.slots := rfl
@[simp] theorem Mach.setPart_preReqs (m : Mach) (p : Nat) (x : Partition) : (m.setPart p x).preReqs = m.preReqs := rfl
@[simp] theorem Mach.setPart_evalAt (m : Mach) (p : Nat) (x : Partition) : (m.setPart p x).evalAt = m.evalAt := rfl
@[simp] theorem Mach.setPart_epochAt (m : Mach) (p : Nat) (x : Partition) : (m.setPart p x).epochAt = m.epochAt := rfl
@[simp] theorem Mach.setPart_swapSince (m : Mach) (p : Nat) (x : Partition) : (m.setPart p x).swapSince = m.swapSince := rfl
@[simp] theorem Mach.setPart_frames (m : Mach) (p : Nat) (x : Partition) : (m.setPart p x).frames = m.frames := rfl
@[simp] theorem Mach.setPart_reserve (m : Mach) (p : Nat) (x : Partition) : (m.setPart p x).reserve = m.reserve := rfl
@[simp] theorem Mach.setPart_admitted (m : Mach) (p : Nat) (x : Partition) : (m.setPart p x).admitted = m.admitted := rfl
@[simp] theorem Mach.setPart_collSeen (m : Mach) (p : Nat) (x : Partition) : (m.setPart p x).collSeen = m.collSeen := rfl
@[simp] theorem Mach.setPart_slotTabs (m : Mach) (p : Nat) (x : Partition) : (m.setPart p x).slotTabs = m.slotTabs := rfl
@[simp] theorem Mach.setPart_slotNext (m : Mach) (p : Nat) (x : Partition) : (m.setPart p x).slotNext = m.slotNext := rfl
@[simp] theorem Mach.setPart_queues (m : Mach) (p : Nat) (x : Partition) : (m.setPart p x).queues = m.queues := rfl
@[simp] theorem Mach.setPart_events (m : Mach) (p : Nat) (x : Partition) : (m.setPart p x).events = m.events := rfl
@[simp] theorem Mach.setPart_msgs (m : Mach) (p : Nat) (x : Partition) : (m.setPart p x).msgs = m.msgs := rfl
@[simp] theorem Mach.setPart_nextSeq (m : Mach) (p : Nat) (x : Partition) : (m.setPart p x).nextSeq = m.nextSeq := rfl
@[simp] theorem Mach.setPart_invals (m : Mach) (p : Nat) (x : Partition) : (m.setPart p x).invals = m.invals := rfl
@[simp] theorem Mach.setPart_nextInval (m : Mach) (p : Nat) (x : Partition) : (m.setPart p x).nextInval = m.nextInval := rfl
@[simp] theorem Mach.setPart_pins (m : Mach) (p : Nat) (x : Partition) : (m.setPart p x).pins = m.pins := rfl
@[simp] theorem Mach.setPart_pages (m : Mach) (p : Nat) (x : Partition) : (m.setPart p x).pages = m.pages := rfl
@[simp] theorem Mach.setPart_prefs (m : Mach) (p : Nat) (x : Partition) : (m.setPart p x).prefs = m.prefs := rfl
@[simp] theorem Mach.setPart_moves (m : Mach) (p : Nat) (x : Partition) : (m.setPart p x).moves = m.moves := rfl
@[simp] theorem Mach.setPart_free (m : Mach) (p : Nat) (x : Partition) : (m.setPart p x).free = m.free := rfl
@[simp] theorem Mach.setPart_freed (m : Mach) (p : Nat) (x : Partition) : (m.setPart p x).freed = m.freed := rfl
@[simp] theorem Mach.setPart_cxl (m : Mach) (p : Nat) (x : Partition) : (m.setPart p x).cxl = m.cxl := rfl
@[simp] theorem Mach.setPart_links (m : Mach) (p : Nat) (x : Partition) : (m.setPart p x).links = m.links := rfl
@[simp] theorem Mach.setPart_routes (m : Mach) (p : Nat) (x : Partition) : (m.setPart p x).routes = m.routes := rfl
@[simp] theorem Mach.setPart_pkgnum (m : Mach) (p : Nat) (x : Partition) : (m.setPart p x).pkgnum = m.pkgnum := rfl
@[simp] theorem Mach.setPart_dockArea (m : Mach) (p : Nat) (x : Partition) : (m.setPart p x).dockArea = m.dockArea := rfl
@[simp] theorem Mach.setPart_dock (m : Mach) (p : Nat) (x : Partition) : (m.setPart p x).dock = m.dock := rfl
@[simp] theorem Mach.setPart_dockNext (m : Mach) (p : Nat) (x : Partition) : (m.setPart p x).dockNext = m.dockNext := rfl
@[simp] theorem Mach.setPart_dirty (m : Mach) (p : Nat) (x : Partition) : (m.setPart p x).dirty = m.dirty := rfl
@[simp] theorem Mach.setPart_ckptRun (m : Mach) (p : Nat) (x : Partition) : (m.setPart p x).ckptRun = m.ckptRun := rfl
@[simp] theorem Mach.setPart_retiring (m : Mach) (p : Nat) (x : Partition) : (m.setPart p x).retiring = m.retiring := rfl
@[simp] theorem Mach.setPart_dissent (m : Mach) (p : Nat) (x : Partition) : (m.setPart p x).dissent = m.dissent := rfl
@[simp] theorem Mach.setPart_ecc (m : Mach) (p : Nat) (x : Partition) : (m.setPart p x).ecc = m.ecc := rfl
@[simp] theorem Mach.setPart_mgmt (m : Mach) (p : Nat) (x : Partition) : (m.setPart p x).mgmt = m.mgmt := rfl
@[simp] theorem Mach.setPart_enqAt (m : Mach) (p : Nat) (x : Partition) : (m.setPart p x).enqAt = m.enqAt := rfl
@[simp] theorem Mach.setPart_incTags (m : Mach) (p : Nat) (x : Partition) : (m.setPart p x).incTags = m.incTags := rfl
@[simp] theorem Mach.setPart_capAsks (m : Mach) (p : Nat) (x : Partition) : (m.setPart p x).capAsks = m.capAsks := rfl
@[simp] theorem Mach.setPart_colls (m : Mach) (p : Nat) (x : Partition) : (m.setPart p x).colls = m.colls := rfl
@[simp] theorem Mach.setPart_unmoored (m : Mach) (p : Nat) (x : Partition) : (m.setPart p x).unmoored = m.unmoored := rfl
@[simp] theorem Mach.setPart_owed (m : Mach) (p : Nat) (x : Partition) : (m.setPart p x).owed = m.owed := rfl
@[simp] theorem Mach.setPart_journal (m : Mach) (p : Nat) (x : Partition) : (m.setPart p x).journal = m.journal := rfl
@[simp] theorem Mach.setPart_basinTurns (m : Mach) (p : Nat) (x : Partition) : (m.setPart p x).basinTurns = m.basinTurns := rfl
@[simp] theorem Mach.setPart_ckptNo (m : Mach) (p : Nat) (x : Partition) : (m.setPart p x).ckptNo = m.ckptNo := rfl
@[simp] theorem Mach.setPart_regData (m : Mach) (p : Nat) (x : Partition) : (m.setPart p x).regData = m.regData := rfl
@[simp] theorem Mach.setLink_cores (m : Mach) (p : Fin 13) (x : LinkPort) : (m.setLink p x).cores = m.cores := rfl
@[simp] theorem Mach.setLink_engines (m : Mach) (p : Fin 13) (x : LinkPort) : (m.setLink p x).engines = m.engines := rfl
@[simp] theorem Mach.setLink_mem (m : Mach) (p : Fin 13) (x : LinkPort) : (m.setLink p x).mem = m.mem := rfl
@[simp] theorem Mach.setLink_tlb2 (m : Mach) (p : Fin 13) (x : LinkPort) : (m.setLink p x).tlb2 = m.tlb2 := rfl
@[simp] theorem Mach.setLink_roots (m : Mach) (p : Fin 13) (x : LinkPort) : (m.setLink p x).roots = m.roots := rfl
@[simp] theorem Mach.setLink_basins (m : Mach) (p : Fin 13) (x : LinkPort) : (m.setLink p x).basins = m.basins := rfl
@[simp] theorem Mach.setLink_starts (m : Mach) (p : Fin 13) (x : LinkPort) : (m.setLink p x).starts = m.starts := rfl
@[simp] theorem Mach.setLink_spares (m : Mach) (p : Fin 13) (x : LinkPort) : (m.setLink p x).spares = m.spares := rfl
@[simp] theorem Mach.setLink_absent (m : Mach) (p : Fin 13) (x : LinkPort) : (m.setLink p x).absent = m.absent := rfl
@[simp] theorem Mach.setLink_nextTid (m : Mach) (p : Fin 13) (x : LinkPort) : (m.setLink p x).nextTid = m.nextTid := rfl
@[simp] theorem Mach.setLink_tasks (m : Mach) (p : Fin 13) (x : LinkPort) : (m.setLink p x).tasks = m.tasks := rfl
@[simp] theorem Mach.setLink_sets (m : Mach) (p : Fin 13) (x : LinkPort) : (m.setLink p x).sets = m.sets := rfl
@[simp] theorem Mach.setLink_slots (m : Mach) (p : Fin 13) (x : LinkPort) : (m.setLink p x).slots = m.slots := rfl
@[simp] theorem Mach.setLink_preReqs (m : Mach) (p : Fin 13) (x : LinkPort) : (m.setLink p x).preReqs = m.preReqs := rfl
@[simp] theorem Mach.setLink_evalAt (m : Mach) (p : Fin 13) (x : LinkPort) : (m.setLink p x).evalAt = m.evalAt := rfl
@[simp] theorem Mach.setLink_epochAt (m : Mach) (p : Fin 13) (x : LinkPort) : (m.setLink p x).epochAt = m.epochAt := rfl
@[simp] theorem Mach.setLink_swapSince (m : Mach) (p : Fin 13) (x : LinkPort) : (m.setLink p x).swapSince = m.swapSince := rfl
@[simp] theorem Mach.setLink_parts (m : Mach) (p : Fin 13) (x : LinkPort) : (m.setLink p x).parts = m.parts := rfl
@[simp] theorem Mach.setLink_frames (m : Mach) (p : Fin 13) (x : LinkPort) : (m.setLink p x).frames = m.frames := rfl
@[simp] theorem Mach.setLink_reserve (m : Mach) (p : Fin 13) (x : LinkPort) : (m.setLink p x).reserve = m.reserve := rfl
@[simp] theorem Mach.setLink_admitted (m : Mach) (p : Fin 13) (x : LinkPort) : (m.setLink p x).admitted = m.admitted := rfl
@[simp] theorem Mach.setLink_collSeen (m : Mach) (p : Fin 13) (x : LinkPort) : (m.setLink p x).collSeen = m.collSeen := rfl
@[simp] theorem Mach.setLink_slotTabs (m : Mach) (p : Fin 13) (x : LinkPort) : (m.setLink p x).slotTabs = m.slotTabs := rfl
@[simp] theorem Mach.setLink_slotNext (m : Mach) (p : Fin 13) (x : LinkPort) : (m.setLink p x).slotNext = m.slotNext := rfl
@[simp] theorem Mach.setLink_queues (m : Mach) (p : Fin 13) (x : LinkPort) : (m.setLink p x).queues = m.queues := rfl
@[simp] theorem Mach.setLink_events (m : Mach) (p : Fin 13) (x : LinkPort) : (m.setLink p x).events = m.events := rfl
@[simp] theorem Mach.setLink_msgs (m : Mach) (p : Fin 13) (x : LinkPort) : (m.setLink p x).msgs = m.msgs := rfl
@[simp] theorem Mach.setLink_nextSeq (m : Mach) (p : Fin 13) (x : LinkPort) : (m.setLink p x).nextSeq = m.nextSeq := rfl
@[simp] theorem Mach.setLink_invals (m : Mach) (p : Fin 13) (x : LinkPort) : (m.setLink p x).invals = m.invals := rfl
@[simp] theorem Mach.setLink_nextInval (m : Mach) (p : Fin 13) (x : LinkPort) : (m.setLink p x).nextInval = m.nextInval := rfl
@[simp] theorem Mach.setLink_pins (m : Mach) (p : Fin 13) (x : LinkPort) : (m.setLink p x).pins = m.pins := rfl
@[simp] theorem Mach.setLink_pages (m : Mach) (p : Fin 13) (x : LinkPort) : (m.setLink p x).pages = m.pages := rfl
@[simp] theorem Mach.setLink_prefs (m : Mach) (p : Fin 13) (x : LinkPort) : (m.setLink p x).prefs = m.prefs := rfl
@[simp] theorem Mach.setLink_moves (m : Mach) (p : Fin 13) (x : LinkPort) : (m.setLink p x).moves = m.moves := rfl
@[simp] theorem Mach.setLink_free (m : Mach) (p : Fin 13) (x : LinkPort) : (m.setLink p x).free = m.free := rfl
@[simp] theorem Mach.setLink_freed (m : Mach) (p : Fin 13) (x : LinkPort) : (m.setLink p x).freed = m.freed := rfl
@[simp] theorem Mach.setLink_cxl (m : Mach) (p : Fin 13) (x : LinkPort) : (m.setLink p x).cxl = m.cxl := rfl
@[simp] theorem Mach.setLink_routes (m : Mach) (p : Fin 13) (x : LinkPort) : (m.setLink p x).routes = m.routes := rfl
@[simp] theorem Mach.setLink_pkgnum (m : Mach) (p : Fin 13) (x : LinkPort) : (m.setLink p x).pkgnum = m.pkgnum := rfl
@[simp] theorem Mach.setLink_dockArea (m : Mach) (p : Fin 13) (x : LinkPort) : (m.setLink p x).dockArea = m.dockArea := rfl
@[simp] theorem Mach.setLink_dock (m : Mach) (p : Fin 13) (x : LinkPort) : (m.setLink p x).dock = m.dock := rfl
@[simp] theorem Mach.setLink_dockNext (m : Mach) (p : Fin 13) (x : LinkPort) : (m.setLink p x).dockNext = m.dockNext := rfl
@[simp] theorem Mach.setLink_dirty (m : Mach) (p : Fin 13) (x : LinkPort) : (m.setLink p x).dirty = m.dirty := rfl
@[simp] theorem Mach.setLink_ckptRun (m : Mach) (p : Fin 13) (x : LinkPort) : (m.setLink p x).ckptRun = m.ckptRun := rfl
@[simp] theorem Mach.setLink_retiring (m : Mach) (p : Fin 13) (x : LinkPort) : (m.setLink p x).retiring = m.retiring := rfl
@[simp] theorem Mach.setLink_dissent (m : Mach) (p : Fin 13) (x : LinkPort) : (m.setLink p x).dissent = m.dissent := rfl
@[simp] theorem Mach.setLink_ecc (m : Mach) (p : Fin 13) (x : LinkPort) : (m.setLink p x).ecc = m.ecc := rfl
@[simp] theorem Mach.setLink_mgmt (m : Mach) (p : Fin 13) (x : LinkPort) : (m.setLink p x).mgmt = m.mgmt := rfl
@[simp] theorem Mach.setLink_enqAt (m : Mach) (p : Fin 13) (x : LinkPort) : (m.setLink p x).enqAt = m.enqAt := rfl
@[simp] theorem Mach.setLink_incTags (m : Mach) (p : Fin 13) (x : LinkPort) : (m.setLink p x).incTags = m.incTags := rfl
@[simp] theorem Mach.setLink_capAsks (m : Mach) (p : Fin 13) (x : LinkPort) : (m.setLink p x).capAsks = m.capAsks := rfl
@[simp] theorem Mach.setLink_colls (m : Mach) (p : Fin 13) (x : LinkPort) : (m.setLink p x).colls = m.colls := rfl
@[simp] theorem Mach.setLink_unmoored (m : Mach) (p : Fin 13) (x : LinkPort) : (m.setLink p x).unmoored = m.unmoored := rfl
@[simp] theorem Mach.setLink_owed (m : Mach) (p : Fin 13) (x : LinkPort) : (m.setLink p x).owed = m.owed := rfl
@[simp] theorem Mach.setLink_journal (m : Mach) (p : Fin 13) (x : LinkPort) : (m.setLink p x).journal = m.journal := rfl
@[simp] theorem Mach.setLink_basinTurns (m : Mach) (p : Fin 13) (x : LinkPort) : (m.setLink p x).basinTurns = m.basinTurns := rfl
@[simp] theorem Mach.setLink_ckptNo (m : Mach) (p : Fin 13) (x : LinkPort) : (m.setLink p x).ckptNo = m.ckptNo := rfl
@[simp] theorem Mach.setLink_regData (m : Mach) (p : Fin 13) (x : LinkPort) : (m.setLink p x).regData = m.regData := rfl

/-! ## A core with a tile, a semaphore or a fibre replaced -/

@[simp] theorem Core.setTile_phys (c : Core) (n : Nat) (t : Tile) : (c.setTile n t).phys = c.phys := rfl
@[simp] theorem Core.setTile_released (c : Core) (n : Nat) (t : Tile) : (c.setTile n t).released = c.released := rfl
@[simp] theorem Core.setTile_task (c : Core) (n : Nat) (t : Tile) : (c.setTile n t).task = c.task := rfl
@[simp] theorem Core.setTile_warm (c : Core) (n : Nat) (t : Tile) : (c.setTile n t).warm = c.warm := rfl
@[simp] theorem Core.setTile_x (c : Core) (n : Nat) (t : Tile) : (c.setTile n t).x = c.x := rfl
@[simp] theorem Core.setTile_l (c : Core) (n : Nat) (t : Tile) : (c.setTile n t).l = c.l := rfl
@[simp] theorem Core.setTile_c (c : Core) (n : Nat) (t : Tile) : (c.setTile n t).c = c.c := rfl
@[simp] theorem Core.setTile_s (c : Core) (n : Nat) (t : Tile) : (c.setTile n t).s = c.s := rfl
@[simp] theorem Core.setTile_srkey (c : Core) (n : Nat) (t : Tile) : (c.setTile n t).srkey = c.srkey := rfl
@[simp] theorem Core.setTile_sridx (c : Core) (n : Nat) (t : Tile) : (c.setTile n t).sridx = c.sridx := rfl
@[simp] theorem Core.setTile_csrFcrL (c : Core) (n : Nat) (t : Tile) : (c.setTile n t).csrFcrL = c.csrFcrL := rfl
@[simp] theorem Core.setTile_csrFcrC (c : Core) (n : Nat) (t : Tile) : (c.setTile n t).csrFcrC = c.csrFcrC := rfl
@[simp] theorem Core.setTile_csrFcrS (c : Core) (n : Nat) (t : Tile) : (c.setTile n t).csrFcrS = c.csrFcrS := rfl
@[simp] theorem Core.setTile_csrSrkey (c : Core) (n : Nat) (t : Tile) : (c.setTile n t).csrSrkey = c.csrSrkey := rfl
@[simp] theorem Core.setTile_csrSridx (c : Core) (n : Nat) (t : Tile) : (c.setTile n t).csrSridx = c.csrSridx := rfl
@[simp] theorem Core.setTile_q (c : Core) (n : Nat) (t : Tile) : (c.setTile n t).q = c.q := rfl
@[simp] theorem Core.setTile_lastQ6 (c : Core) (n : Nat) (t : Tile) : (c.setTile n t).lastQ6 = c.lastQ6 := rfl
@[simp] theorem Core.setTile_gl (c : Core) (n : Nat) (t : Tile) : (c.setTile n t).gl = c.gl := rfl
@[simp] theorem Core.setTile_gs (c : Core) (n : Nat) (t : Tile) : (c.setTile n t).gs = c.gs := rfl
@[simp] theorem Core.setTile_f (c : Core) (n : Nat) (t : Tile) : (c.setTile n t).f = c.f := rfl
@[simp] theorem Core.setTile_cache (c : Core) (n : Nat) (t : Tile) : (c.setTile n t).cache = c.cache := rfl
@[simp] theorem Core.setTile_m (c : Core) (n : Nat) (t : Tile) : (c.setTile n t).m = c.m := rfl
@[simp] theorem Core.setTile_z (c : Core) (n : Nat) (t : Tile) : (c.setTile n t).z = c.z := rfl
@[simp] theorem Core.setTile_oa (c : Core) (n : Nat) (t : Tile) : (c.setTile n t).oa = c.oa := rfl
@[simp] theorem Core.setTile_ob (c : Core) (n : Nat) (t : Tile) : (c.setTile n t).ob = c.ob := rfl
@[simp] theorem Core.setTile_mat (c : Core) (n : Nat) (t : Tile) : (c.setTile n t).mat = c.mat := rfl
@[simp] theorem Core.setTile_emit (c : Core) (n : Nat) (t : Tile) : (c.setTile n t).emit = c.emit := rfl
@[simp] theorem Core.setTile_emitTab (c : Core) (n : Nat) (t : Tile) : (c.setTile n t).emitTab = c.emitTab := rfl
@[simp] theorem Core.setTile_tagr (c : Core) (n : Nat) (t : Tile) : (c.setTile n t).tagr = c.tagr := rfl
@[simp] theorem Core.setTile_trap (c : Core) (n : Nat) (t : Tile) : (c.setTile n t).trap = c.trap := rfl
@[simp] theorem Core.setTile_xret (c : Core) (n : Nat) (t : Tile) : (c.setTile n t).xret = c.xret := rfl
@[simp] theorem Core.setTile_otbase (c : Core) (n : Nat) (t : Tile) : (c.setTile n t).otbase = c.otbase := rfl
@[simp] theorem Core.setTile_otlen (c : Core) (n : Nat) (t : Tile) : (c.setTile n t).otlen = c.otlen := rfl
@[simp] theorem Core.setTile_sp (c : Core) (n : Nat) (t : Tile) : (c.setTile n t).sp = c.sp := rfl
@[simp] theorem Core.setTile_istore (c : Core) (n : Nat) (t : Tile) : (c.setTile n t).istore = c.istore := rfl
@[simp] theorem Core.setTile_pos (c : Core) (n : Nat) (t : Tile) : (c.setTile n t).pos = c.pos := rfl
@[simp] theorem Core.setTile_coreNo (c : Core) (n : Nat) (t : Tile) : (c.setTile n t).coreNo = c.coreNo := rfl
@[simp] theorem Core.setTile_tagNew (c : Core) (n : Nat) (t : Tile) : (c.setTile n t).tagNew = c.tagNew := rfl
@[simp] theorem Core.setTile_lastSem (c : Core) (n : Nat) (t : Tile) : (c.setTile n t).lastSem = c.lastSem := rfl
@[simp] theorem Core.setSem_phys (c : Core) (i : Nat) (x : W64) : (c.setSem i x).phys = c.phys := rfl
@[simp] theorem Core.setSem_released (c : Core) (i : Nat) (x : W64) : (c.setSem i x).released = c.released := rfl
@[simp] theorem Core.setSem_task (c : Core) (i : Nat) (x : W64) : (c.setSem i x).task = c.task := rfl
@[simp] theorem Core.setSem_warm (c : Core) (i : Nat) (x : W64) : (c.setSem i x).warm = c.warm := rfl
@[simp] theorem Core.setSem_x (c : Core) (i : Nat) (x : W64) : (c.setSem i x).x = c.x := rfl
@[simp] theorem Core.setSem_l (c : Core) (i : Nat) (x : W64) : (c.setSem i x).l = c.l := rfl
@[simp] theorem Core.setSem_c (c : Core) (i : Nat) (x : W64) : (c.setSem i x).c = c.c := rfl
@[simp] theorem Core.setSem_s (c : Core) (i : Nat) (x : W64) : (c.setSem i x).s = c.s := rfl
@[simp] theorem Core.setSem_srkey (c : Core) (i : Nat) (x : W64) : (c.setSem i x).srkey = c.srkey := rfl
@[simp] theorem Core.setSem_sridx (c : Core) (i : Nat) (x : W64) : (c.setSem i x).sridx = c.sridx := rfl
@[simp] theorem Core.setSem_csrFcrL (c : Core) (i : Nat) (x : W64) : (c.setSem i x).csrFcrL = c.csrFcrL := rfl
@[simp] theorem Core.setSem_csrFcrC (c : Core) (i : Nat) (x : W64) : (c.setSem i x).csrFcrC = c.csrFcrC := rfl
@[simp] theorem Core.setSem_csrFcrS (c : Core) (i : Nat) (x : W64) : (c.setSem i x).csrFcrS = c.csrFcrS := rfl
@[simp] theorem Core.setSem_csrSrkey (c : Core) (i : Nat) (x : W64) : (c.setSem i x).csrSrkey = c.csrSrkey := rfl
@[simp] theorem Core.setSem_csrSridx (c : Core) (i : Nat) (x : W64) : (c.setSem i x).csrSridx = c.csrSridx := rfl
@[simp] theorem Core.setSem_q (c : Core) (i : Nat) (x : W64) : (c.setSem i x).q = c.q := rfl
@[simp] theorem Core.setSem_lastQ6 (c : Core) (i : Nat) (x : W64) : (c.setSem i x).lastQ6 = c.lastQ6 := rfl
@[simp] theorem Core.setSem_gl (c : Core) (i : Nat) (x : W64) : (c.setSem i x).gl = c.gl := rfl
@[simp] theorem Core.setSem_gs (c : Core) (i : Nat) (x : W64) : (c.setSem i x).gs = c.gs := rfl
@[simp] theorem Core.setSem_f (c : Core) (i : Nat) (x : W64) : (c.setSem i x).f = c.f := rfl
@[simp] theorem Core.setSem_cache (c : Core) (i : Nat) (x : W64) : (c.setSem i x).cache = c.cache := rfl
@[simp] theorem Core.setSem_v (c : Core) (i : Nat) (x : W64) : (c.setSem i x).v = c.v := rfl
@[simp] theorem Core.setSem_m (c : Core) (i : Nat) (x : W64) : (c.setSem i x).m = c.m := rfl
@[simp] theorem Core.setSem_z (c : Core) (i : Nat) (x : W64) : (c.setSem i x).z = c.z := rfl
@[simp] theorem Core.setSem_oa (c : Core) (i : Nat) (x : W64) : (c.setSem i x).oa = c.oa := rfl
@[simp] theorem Core.setSem_ob (c : Core) (i : Nat) (x : W64) : (c.setSem i x).ob = c.ob := rfl
@[simp] theorem Core.setSem_mat (c : Core) (i : Nat) (x : W64) : (c.setSem i x).mat = c.mat := rfl
@[simp] theorem Core.setSem_emit (c : Core) (i : Nat) (x : W64) : (c.setSem i x).emit = c.emit := rfl
@[simp] theorem Core.setSem_emitTab (c : Core) (i : Nat) (x : W64) : (c.setSem i x).emitTab = c.emitTab := rfl
@[simp] theorem Core.setSem_tagr (c : Core) (i : Nat) (x : W64) : (c.setSem i x).tagr = c.tagr := rfl
@[simp] theorem Core.setSem_trap (c : Core) (i : Nat) (x : W64) : (c.setSem i x).trap = c.trap := rfl
@[simp] theorem Core.setSem_xret (c : Core) (i : Nat) (x : W64) : (c.setSem i x).xret = c.xret := rfl
@[simp] theorem Core.setSem_otbase (c : Core) (i : Nat) (x : W64) : (c.setSem i x).otbase = c.otbase := rfl
@[simp] theorem Core.setSem_otlen (c : Core) (i : Nat) (x : W64) : (c.setSem i x).otlen = c.otlen := rfl
@[simp] theorem Core.setSem_istore (c : Core) (i : Nat) (x : W64) : (c.setSem i x).istore = c.istore := rfl
@[simp] theorem Core.setSem_pos (c : Core) (i : Nat) (x : W64) : (c.setSem i x).pos = c.pos := rfl
@[simp] theorem Core.setSem_coreNo (c : Core) (i : Nat) (x : W64) : (c.setSem i x).coreNo = c.coreNo := rfl
@[simp] theorem Core.setSem_tagNew (c : Core) (i : Nat) (x : W64) : (c.setSem i x).tagNew = c.tagNew := rfl
@[simp] theorem Core.setSem_lastSem (c : Core) (i : Nat) (x : W64) : (c.setSem i x).lastSem = c.lastSem := rfl
@[simp] theorem Core.setFibre_phys (c : Core) (n : Nat) (x : Option Fibre) : (c.setFibre n x).phys = c.phys := rfl
@[simp] theorem Core.setFibre_released (c : Core) (n : Nat) (x : Option Fibre) : (c.setFibre n x).released = c.released := rfl
@[simp] theorem Core.setFibre_task (c : Core) (n : Nat) (x : Option Fibre) : (c.setFibre n x).task = c.task := rfl
@[simp] theorem Core.setFibre_warm (c : Core) (n : Nat) (x : Option Fibre) : (c.setFibre n x).warm = c.warm := rfl
@[simp] theorem Core.setFibre_x (c : Core) (n : Nat) (x : Option Fibre) : (c.setFibre n x).x = c.x := rfl
@[simp] theorem Core.setFibre_l (c : Core) (n : Nat) (x : Option Fibre) : (c.setFibre n x).l = c.l := rfl
@[simp] theorem Core.setFibre_c (c : Core) (n : Nat) (x : Option Fibre) : (c.setFibre n x).c = c.c := rfl
@[simp] theorem Core.setFibre_s (c : Core) (n : Nat) (x : Option Fibre) : (c.setFibre n x).s = c.s := rfl
@[simp] theorem Core.setFibre_srkey (c : Core) (n : Nat) (x : Option Fibre) : (c.setFibre n x).srkey = c.srkey := rfl
@[simp] theorem Core.setFibre_sridx (c : Core) (n : Nat) (x : Option Fibre) : (c.setFibre n x).sridx = c.sridx := rfl
@[simp] theorem Core.setFibre_csrFcrL (c : Core) (n : Nat) (x : Option Fibre) : (c.setFibre n x).csrFcrL = c.csrFcrL := rfl
@[simp] theorem Core.setFibre_csrFcrC (c : Core) (n : Nat) (x : Option Fibre) : (c.setFibre n x).csrFcrC = c.csrFcrC := rfl
@[simp] theorem Core.setFibre_csrFcrS (c : Core) (n : Nat) (x : Option Fibre) : (c.setFibre n x).csrFcrS = c.csrFcrS := rfl
@[simp] theorem Core.setFibre_csrSrkey (c : Core) (n : Nat) (x : Option Fibre) : (c.setFibre n x).csrSrkey = c.csrSrkey := rfl
@[simp] theorem Core.setFibre_csrSridx (c : Core) (n : Nat) (x : Option Fibre) : (c.setFibre n x).csrSridx = c.csrSridx := rfl
@[simp] theorem Core.setFibre_q (c : Core) (n : Nat) (x : Option Fibre) : (c.setFibre n x).q = c.q := rfl
@[simp] theorem Core.setFibre_lastQ6 (c : Core) (n : Nat) (x : Option Fibre) : (c.setFibre n x).lastQ6 = c.lastQ6 := rfl
@[simp] theorem Core.setFibre_gl (c : Core) (n : Nat) (x : Option Fibre) : (c.setFibre n x).gl = c.gl := rfl
@[simp] theorem Core.setFibre_gs (c : Core) (n : Nat) (x : Option Fibre) : (c.setFibre n x).gs = c.gs := rfl
@[simp] theorem Core.setFibre_cache (c : Core) (n : Nat) (x : Option Fibre) : (c.setFibre n x).cache = c.cache := rfl
@[simp] theorem Core.setFibre_v (c : Core) (n : Nat) (x : Option Fibre) : (c.setFibre n x).v = c.v := rfl
@[simp] theorem Core.setFibre_m (c : Core) (n : Nat) (x : Option Fibre) : (c.setFibre n x).m = c.m := rfl
@[simp] theorem Core.setFibre_z (c : Core) (n : Nat) (x : Option Fibre) : (c.setFibre n x).z = c.z := rfl
@[simp] theorem Core.setFibre_oa (c : Core) (n : Nat) (x : Option Fibre) : (c.setFibre n x).oa = c.oa := rfl
@[simp] theorem Core.setFibre_ob (c : Core) (n : Nat) (x : Option Fibre) : (c.setFibre n x).ob = c.ob := rfl
@[simp] theorem Core.setFibre_mat (c : Core) (n : Nat) (x : Option Fibre) : (c.setFibre n x).mat = c.mat := rfl
@[simp] theorem Core.setFibre_emit (c : Core) (n : Nat) (x : Option Fibre) : (c.setFibre n x).emit = c.emit := rfl
@[simp] theorem Core.setFibre_emitTab (c : Core) (n : Nat) (x : Option Fibre) : (c.setFibre n x).emitTab = c.emitTab := rfl
@[simp] theorem Core.setFibre_tagr (c : Core) (n : Nat) (x : Option Fibre) : (c.setFibre n x).tagr = c.tagr := rfl
@[simp] theorem Core.setFibre_trap (c : Core) (n : Nat) (x : Option Fibre) : (c.setFibre n x).trap = c.trap := rfl
@[simp] theorem Core.setFibre_xret (c : Core) (n : Nat) (x : Option Fibre) : (c.setFibre n x).xret = c.xret := rfl
@[simp] theorem Core.setFibre_otbase (c : Core) (n : Nat) (x : Option Fibre) : (c.setFibre n x).otbase = c.otbase := rfl
@[simp] theorem Core.setFibre_otlen (c : Core) (n : Nat) (x : Option Fibre) : (c.setFibre n x).otlen = c.otlen := rfl
@[simp] theorem Core.setFibre_sp (c : Core) (n : Nat) (x : Option Fibre) : (c.setFibre n x).sp = c.sp := rfl
@[simp] theorem Core.setFibre_istore (c : Core) (n : Nat) (x : Option Fibre) : (c.setFibre n x).istore = c.istore := rfl
@[simp] theorem Core.setFibre_pos (c : Core) (n : Nat) (x : Option Fibre) : (c.setFibre n x).pos = c.pos := rfl
@[simp] theorem Core.setFibre_coreNo (c : Core) (n : Nat) (x : Option Fibre) : (c.setFibre n x).coreNo = c.coreNo := rfl
@[simp] theorem Core.setFibre_tagNew (c : Core) (n : Nat) (x : Option Fibre) : (c.setFibre n x).tagNew = c.tagNew := rfl
@[simp] theorem Core.setFibre_lastSem (c : Core) (n : Nat) (x : Option Fibre) : (c.setFibre n x).lastSem = c.lastSem := rfl
@[simp] theorem Core.setM_phys (c : Core) (n : Nat) (x : Mask) : (c.setM n x).phys = c.phys := by unfold Core.setM; split <;> rfl
@[simp] theorem Core.setM_released (c : Core) (n : Nat) (x : Mask) : (c.setM n x).released = c.released := by unfold Core.setM; split <;> rfl
@[simp] theorem Core.setM_task (c : Core) (n : Nat) (x : Mask) : (c.setM n x).task = c.task := by unfold Core.setM; split <;> rfl
@[simp] theorem Core.setM_warm (c : Core) (n : Nat) (x : Mask) : (c.setM n x).warm = c.warm := by unfold Core.setM; split <;> rfl
@[simp] theorem Core.setM_x (c : Core) (n : Nat) (x : Mask) : (c.setM n x).x = c.x := by unfold Core.setM; split <;> rfl
@[simp] theorem Core.setM_l (c : Core) (n : Nat) (x : Mask) : (c.setM n x).l = c.l := by unfold Core.setM; split <;> rfl
@[simp] theorem Core.setM_c (c : Core) (n : Nat) (x : Mask) : (c.setM n x).c = c.c := by unfold Core.setM; split <;> rfl
@[simp] theorem Core.setM_s (c : Core) (n : Nat) (x : Mask) : (c.setM n x).s = c.s := by unfold Core.setM; split <;> rfl
@[simp] theorem Core.setM_srkey (c : Core) (n : Nat) (x : Mask) : (c.setM n x).srkey = c.srkey := by unfold Core.setM; split <;> rfl
@[simp] theorem Core.setM_sridx (c : Core) (n : Nat) (x : Mask) : (c.setM n x).sridx = c.sridx := by unfold Core.setM; split <;> rfl
@[simp] theorem Core.setM_csrFcrL (c : Core) (n : Nat) (x : Mask) : (c.setM n x).csrFcrL = c.csrFcrL := by unfold Core.setM; split <;> rfl
@[simp] theorem Core.setM_csrFcrC (c : Core) (n : Nat) (x : Mask) : (c.setM n x).csrFcrC = c.csrFcrC := by unfold Core.setM; split <;> rfl
@[simp] theorem Core.setM_csrFcrS (c : Core) (n : Nat) (x : Mask) : (c.setM n x).csrFcrS = c.csrFcrS := by unfold Core.setM; split <;> rfl
@[simp] theorem Core.setM_csrSrkey (c : Core) (n : Nat) (x : Mask) : (c.setM n x).csrSrkey = c.csrSrkey := by unfold Core.setM; split <;> rfl
@[simp] theorem Core.setM_csrSridx (c : Core) (n : Nat) (x : Mask) : (c.setM n x).csrSridx = c.csrSridx := by unfold Core.setM; split <;> rfl
@[simp] theorem Core.setM_q (c : Core) (n : Nat) (x : Mask) : (c.setM n x).q = c.q := by unfold Core.setM; split <;> rfl
@[simp] theorem Core.setM_lastQ6 (c : Core) (n : Nat) (x : Mask) : (c.setM n x).lastQ6 = c.lastQ6 := by unfold Core.setM; split <;> rfl
@[simp] theorem Core.setM_gl (c : Core) (n : Nat) (x : Mask) : (c.setM n x).gl = c.gl := by unfold Core.setM; split <;> rfl
@[simp] theorem Core.setM_gs (c : Core) (n : Nat) (x : Mask) : (c.setM n x).gs = c.gs := by unfold Core.setM; split <;> rfl
@[simp] theorem Core.setM_f (c : Core) (n : Nat) (x : Mask) : (c.setM n x).f = c.f := by unfold Core.setM; split <;> rfl
@[simp] theorem Core.setM_cache (c : Core) (n : Nat) (x : Mask) : (c.setM n x).cache = c.cache := by unfold Core.setM; split <;> rfl
@[simp] theorem Core.setM_v (c : Core) (n : Nat) (x : Mask) : (c.setM n x).v = c.v := by unfold Core.setM; split <;> rfl
@[simp] theorem Core.setM_z (c : Core) (n : Nat) (x : Mask) : (c.setM n x).z = c.z := by unfold Core.setM; split <;> rfl
@[simp] theorem Core.setM_oa (c : Core) (n : Nat) (x : Mask) : (c.setM n x).oa = c.oa := by unfold Core.setM; split <;> rfl
@[simp] theorem Core.setM_ob (c : Core) (n : Nat) (x : Mask) : (c.setM n x).ob = c.ob := by unfold Core.setM; split <;> rfl
@[simp] theorem Core.setM_mat (c : Core) (n : Nat) (x : Mask) : (c.setM n x).mat = c.mat := by unfold Core.setM; split <;> rfl
@[simp] theorem Core.setM_emit (c : Core) (n : Nat) (x : Mask) : (c.setM n x).emit = c.emit := by unfold Core.setM; split <;> rfl
@[simp] theorem Core.setM_emitTab (c : Core) (n : Nat) (x : Mask) : (c.setM n x).emitTab = c.emitTab := by unfold Core.setM; split <;> rfl
@[simp] theorem Core.setM_tagr (c : Core) (n : Nat) (x : Mask) : (c.setM n x).tagr = c.tagr := by unfold Core.setM; split <;> rfl
@[simp] theorem Core.setM_trap (c : Core) (n : Nat) (x : Mask) : (c.setM n x).trap = c.trap := by unfold Core.setM; split <;> rfl
@[simp] theorem Core.setM_xret (c : Core) (n : Nat) (x : Mask) : (c.setM n x).xret = c.xret := by unfold Core.setM; split <;> rfl
@[simp] theorem Core.setM_otbase (c : Core) (n : Nat) (x : Mask) : (c.setM n x).otbase = c.otbase := by unfold Core.setM; split <;> rfl
@[simp] theorem Core.setM_otlen (c : Core) (n : Nat) (x : Mask) : (c.setM n x).otlen = c.otlen := by unfold Core.setM; split <;> rfl
@[simp] theorem Core.setM_sp (c : Core) (n : Nat) (x : Mask) : (c.setM n x).sp = c.sp := by unfold Core.setM; split <;> rfl
@[simp] theorem Core.setM_istore (c : Core) (n : Nat) (x : Mask) : (c.setM n x).istore = c.istore := by unfold Core.setM; split <;> rfl
@[simp] theorem Core.setM_pos (c : Core) (n : Nat) (x : Mask) : (c.setM n x).pos = c.pos := by unfold Core.setM; split <;> rfl
@[simp] theorem Core.setM_coreNo (c : Core) (n : Nat) (x : Mask) : (c.setM n x).coreNo = c.coreNo := by unfold Core.setM; split <;> rfl
@[simp] theorem Core.setM_tagNew (c : Core) (n : Nat) (x : Mask) : (c.setM n x).tagNew = c.tagNew := by unfold Core.setM; split <;> rfl
@[simp] theorem Core.setM_lastSem (c : Core) (n : Nat) (x : Mask) : (c.setM n x).lastSem = c.lastSem := by unfold Core.setM; split <;> rfl
@[simp] theorem Core.setVs_phys (c : Core) (q : VSeq) (v : VState) : (c.setVs q v).phys = c.phys := by cases q <;> rfl
@[simp] theorem Core.setVs_released (c : Core) (q : VSeq) (v : VState) : (c.setVs q v).released = c.released := by cases q <;> rfl
@[simp] theorem Core.setVs_task (c : Core) (q : VSeq) (v : VState) : (c.setVs q v).task = c.task := by cases q <;> rfl
@[simp] theorem Core.setVs_warm (c : Core) (q : VSeq) (v : VState) : (c.setVs q v).warm = c.warm := by cases q <;> rfl
@[simp] theorem Core.setVs_x (c : Core) (q : VSeq) (v : VState) : (c.setVs q v).x = c.x := by cases q <;> rfl
@[simp] theorem Core.setVs_srkey (c : Core) (q : VSeq) (v : VState) : (c.setVs q v).srkey = c.srkey := by cases q <;> rfl
@[simp] theorem Core.setVs_sridx (c : Core) (q : VSeq) (v : VState) : (c.setVs q v).sridx = c.sridx := by cases q <;> rfl
@[simp] theorem Core.setVs_csrFcrL (c : Core) (q : VSeq) (v : VState) : (c.setVs q v).csrFcrL = c.csrFcrL := by cases q <;> rfl
@[simp] theorem Core.setVs_csrFcrC (c : Core) (q : VSeq) (v : VState) : (c.setVs q v).csrFcrC = c.csrFcrC := by cases q <;> rfl
@[simp] theorem Core.setVs_csrFcrS (c : Core) (q : VSeq) (v : VState) : (c.setVs q v).csrFcrS = c.csrFcrS := by cases q <;> rfl
@[simp] theorem Core.setVs_csrSrkey (c : Core) (q : VSeq) (v : VState) : (c.setVs q v).csrSrkey = c.csrSrkey := by cases q <;> rfl
@[simp] theorem Core.setVs_csrSridx (c : Core) (q : VSeq) (v : VState) : (c.setVs q v).csrSridx = c.csrSridx := by cases q <;> rfl
@[simp] theorem Core.setVs_q (c : Core) (q : VSeq) (v : VState) : (c.setVs q v).q = c.q := by cases q <;> rfl
@[simp] theorem Core.setVs_lastQ6 (c : Core) (q : VSeq) (v : VState) : (c.setVs q v).lastQ6 = c.lastQ6 := by cases q <;> rfl
@[simp] theorem Core.setVs_gl (c : Core) (q : VSeq) (v : VState) : (c.setVs q v).gl = c.gl := by cases q <;> rfl
@[simp] theorem Core.setVs_gs (c : Core) (q : VSeq) (v : VState) : (c.setVs q v).gs = c.gs := by cases q <;> rfl
@[simp] theorem Core.setVs_f (c : Core) (q : VSeq) (v : VState) : (c.setVs q v).f = c.f := by cases q <;> rfl
@[simp] theorem Core.setVs_cache (c : Core) (q : VSeq) (v : VState) : (c.setVs q v).cache = c.cache := by cases q <;> rfl
@[simp] theorem Core.setVs_v (c : Core) (q : VSeq) (v : VState) : (c.setVs q v).v = c.v := by cases q <;> rfl
@[simp] theorem Core.setVs_m (c : Core) (q : VSeq) (v : VState) : (c.setVs q v).m = c.m := by cases q <;> rfl
@[simp] theorem Core.setVs_z (c : Core) (q : VSeq) (v : VState) : (c.setVs q v).z = c.z := by cases q <;> rfl
@[simp] theorem Core.setVs_oa (c : Core) (q : VSeq) (v : VState) : (c.setVs q v).oa = c.oa := by cases q <;> rfl
@[simp] theorem Core.setVs_ob (c : Core) (q : VSeq) (v : VState) : (c.setVs q v).ob = c.ob := by cases q <;> rfl
@[simp] theorem Core.setVs_mat (c : Core) (q : VSeq) (v : VState) : (c.setVs q v).mat = c.mat := by cases q <;> rfl
@[simp] theorem Core.setVs_emit (c : Core) (q : VSeq) (v : VState) : (c.setVs q v).emit = c.emit := by cases q <;> rfl
@[simp] theorem Core.setVs_emitTab (c : Core) (q : VSeq) (v : VState) : (c.setVs q v).emitTab = c.emitTab := by cases q <;> rfl
@[simp] theorem Core.setVs_tagr (c : Core) (q : VSeq) (v : VState) : (c.setVs q v).tagr = c.tagr := by cases q <;> rfl
@[simp] theorem Core.setVs_trap (c : Core) (q : VSeq) (v : VState) : (c.setVs q v).trap = c.trap := by cases q <;> rfl
@[simp] theorem Core.setVs_xret (c : Core) (q : VSeq) (v : VState) : (c.setVs q v).xret = c.xret := by cases q <;> rfl
@[simp] theorem Core.setVs_otbase (c : Core) (q : VSeq) (v : VState) : (c.setVs q v).otbase = c.otbase := by cases q <;> rfl
@[simp] theorem Core.setVs_otlen (c : Core) (q : VSeq) (v : VState) : (c.setVs q v).otlen = c.otlen := by cases q <;> rfl
@[simp] theorem Core.setVs_sp (c : Core) (q : VSeq) (v : VState) : (c.setVs q v).sp = c.sp := by cases q <;> rfl
@[simp] theorem Core.setVs_istore (c : Core) (q : VSeq) (v : VState) : (c.setVs q v).istore = c.istore := by cases q <;> rfl
@[simp] theorem Core.setVs_pos (c : Core) (q : VSeq) (v : VState) : (c.setVs q v).pos = c.pos := by cases q <;> rfl
@[simp] theorem Core.setVs_coreNo (c : Core) (q : VSeq) (v : VState) : (c.setVs q v).coreNo = c.coreNo := by cases q <;> rfl
@[simp] theorem Core.setVs_tagNew (c : Core) (q : VSeq) (v : VState) : (c.setVs q v).tagNew = c.tagNew := by cases q <;> rfl
@[simp] theorem Core.setVs_lastSem (c : Core) (q : VSeq) (v : VState) : (c.setVs q v).lastSem = c.lastSem := by cases q <;> rfl

/-! ## X past a word; a scalar register written -/

@[simp] theorem XState.next_s (x : XState) (cyc len : Nat) : (x.next cyc len).s = x.s := rfl
@[simp] theorem XState.next_p (x : XState) (cyc len : Nat) : (x.next cyc len).p = x.p := rfl
@[simp] theorem XState.next_fcr (x : XState) (cyc len : Nat) : (x.next cyc len).fcr = x.fcr := rfl
@[simp] theorem XState.next_fsr (x : XState) (cyc len : Nat) : (x.next cyc len).fsr = x.fsr := rfl
@[simp] theorem XState.next_pend (x : XState) (cyc len : Nat) : (x.next cyc len).pend = x.pend := rfl
@[simp] theorem XState.next_lastDone (x : XState) (cyc len : Nat) : (x.next cyc len).lastDone = x.lastDone := rfl
@[simp] theorem XState.next_launch (x : XState) (cyc len : Nat) : (x.next cyc len).launch = x.launch := rfl
@[simp] theorem XState.next_fsc (x : XState) (cyc len : Nat) : (x.next cyc len).fsc = x.fsc := rfl
@[simp] theorem XState.next_fsrNew (x : XState) (cyc len : Nat) : (x.next cyc len).fsrNew = x.fsrNew := rfl
@[simp] theorem XState.next_fscWait (x : XState) (cyc len : Nat) : (x.next cyc len).fscWait = x.fscWait := rfl
@[simp] theorem XState.next_descGot (x : XState) (cyc len : Nat) : (x.next cyc len).descGot = x.descGot := rfl
@[simp] theorem XState.setS_pc (x : XState) (r : SReg) (v : W64) : (x.setS r v).pc = x.pc := by unfold XState.setS; split <;> rfl
@[simp] theorem XState.setS_p (x : XState) (r : SReg) (v : W64) : (x.setS r v).p = x.p := by unfold XState.setS; split <;> rfl
@[simp] theorem XState.setS_fcr (x : XState) (r : SReg) (v : W64) : (x.setS r v).fcr = x.fcr := by unfold XState.setS; split <;> rfl
@[simp] theorem XState.setS_fsr (x : XState) (r : SReg) (v : W64) : (x.setS r v).fsr = x.fsr := by unfold XState.setS; split <;> rfl
@[simp] theorem XState.setS_pend (x : XState) (r : SReg) (v : W64) : (x.setS r v).pend = x.pend := by unfold XState.setS; split <;> rfl
@[simp] theorem XState.setS_lastDone (x : XState) (r : SReg) (v : W64) : (x.setS r v).lastDone = x.lastDone := by unfold XState.setS; split <;> rfl
@[simp] theorem XState.setS_wait (x : XState) (r : SReg) (v : W64) : (x.setS r v).wait = x.wait := by unfold XState.setS; split <;> rfl
@[simp] theorem XState.setS_launch (x : XState) (r : SReg) (v : W64) : (x.setS r v).launch = x.launch := by unfold XState.setS; split <;> rfl
@[simp] theorem XState.setS_fsc (x : XState) (r : SReg) (v : W64) : (x.setS r v).fsc = x.fsc := by unfold XState.setS; split <;> rfl
@[simp] theorem XState.setS_ready (x : XState) (r : SReg) (v : W64) : (x.setS r v).ready = x.ready := by unfold XState.setS; split <;> rfl
@[simp] theorem XState.setS_fsrNew (x : XState) (r : SReg) (v : W64) : (x.setS r v).fsrNew = x.fsrNew := by unfold XState.setS; split <;> rfl
@[simp] theorem XState.setS_fscWait (x : XState) (r : SReg) (v : W64) : (x.setS r v).fscWait = x.fscWait := by unfold XState.setS; split <;> rfl
@[simp] theorem XState.setS_descGot (x : XState) (r : SReg) (v : W64) : (x.setS r v).descGot = x.descGot := by unfold XState.setS; split <;> rfl
@[simp] theorem XState.next_pc (x : XState) (cyc len : Nat) : (x.next cyc len).pc = x.pc + BitVec.ofNat 32 len := rfl
@[simp] theorem XState.next_ready (x : XState) (cyc len : Nat) : (x.next cyc len).ready = cyc + 1 := rfl
@[simp] theorem XState.next_wait (x : XState) (cyc len : Nat) : (x.next cyc len).wait = none := rfl

/-! ## L, C or S past a word; a k register written -/

@[simp] theorem VState.setK_pc (v : VState) (r : Nat) (x : W64) : (v.setK r x).pc = v.pc := by unfold VState.setK; split <;> rfl
@[simp] theorem VState.setK_p (v : VState) (r : Nat) (x : W64) : (v.setK r x).p = v.p := by unfold VState.setK; split <;> rfl
@[simp] theorem VState.setK_fcr (v : VState) (r : Nat) (x : W64) : (v.setK r x).fcr = v.fcr := by unfold VState.setK; split <;> rfl
@[simp] theorem VState.setK_fsr (v : VState) (r : Nat) (x : W64) : (v.setK r x).fsr = v.fsr := by unfold VState.setK; split <;> rfl
@[simp] theorem VState.setK_wait (v : VState) (r : Nat) (x : W64) : (v.setK r x).wait = v.wait := by unfold VState.setK; split <;> rfl
@[simp] theorem VState.setK_loop (v : VState) (r : Nat) (x : W64) : (v.setK r x).loop = v.loop := by unfold VState.setK; split <;> rfl
@[simp] theorem VState.setK_ready (v : VState) (r : Nat) (x : W64) : (v.setK r x).ready = v.ready := by unfold VState.setK; split <;> rfl
@[simp] theorem VState.setK_fsrNew (v : VState) (r : Nat) (x : W64) : (v.setK r x).fsrNew = v.fsrNew := by unfold VState.setK; split <;> rfl
@[simp] theorem VState.setK_acc (v : VState) (r : Nat) (x : W64) : (v.setK r x).acc = v.acc := by unfold VState.setK; split <;> rfl
@[simp] theorem VState.setK_store (v : VState) (r : Nat) (x : W64) : (v.setK r x).store = v.store := by unfold VState.setK; split <;> rfl
@[simp] theorem VState.setK_ext (v : VState) (r : Nat) (x : W64) : (v.setK r x).ext = v.ext := by unfold VState.setK; split <;> rfl
@[simp] theorem VState.next_k (v : VState) (cyc len : Nat) : (v.next cyc len).k = v.k := by
  unfold VState.next; dsimp only; split
  · rfl
  · split
    · split <;> rfl
    · rfl
@[simp] theorem VState.next_p (v : VState) (cyc len : Nat) : (v.next cyc len).p = v.p := by
  unfold VState.next; dsimp only; split
  · rfl
  · split
    · split <;> rfl
    · rfl
@[simp] theorem VState.next_fcr (v : VState) (cyc len : Nat) : (v.next cyc len).fcr = v.fcr := by
  unfold VState.next; dsimp only; split
  · rfl
  · split
    · split <;> rfl
    · rfl
@[simp] theorem VState.next_fsr (v : VState) (cyc len : Nat) : (v.next cyc len).fsr = v.fsr := by
  unfold VState.next; dsimp only; split
  · rfl
  · split
    · split <;> rfl
    · rfl
@[simp] theorem VState.next_ready (v : VState) (cyc len : Nat) : (v.next cyc len).ready = cyc + 1 := by
  unfold VState.next; dsimp only; split
  · rfl
  · split
    · split <;> rfl
    · rfl
@[simp] theorem VState.next_wait (v : VState) (cyc len : Nat) : (v.next cyc len).wait = none := by
  unfold VState.next; dsimp only; split
  · rfl
  · split
    · split <;> rfl
    · rfl
@[simp] theorem VState.next_fsrNew (v : VState) (cyc len : Nat) : (v.next cyc len).fsrNew = v.fsrNew := by
  unfold VState.next; dsimp only; split
  · rfl
  · split
    · split <;> rfl
    · rfl
@[simp] theorem VState.next_store (v : VState) (cyc len : Nat) : (v.next cyc len).store = v.store := by
  unfold VState.next; dsimp only; split
  · rfl
  · split
    · split <;> rfl
    · rfl
@[simp] theorem VState.next_acc (v : VState) (cyc len : Nat) : (v.next cyc len).acc = none := by
  unfold VState.next; dsimp only; split
  · rfl
  · split
    · split <;> rfl
    · rfl
@[simp] theorem VState.next_ext (v : VState) (cyc len : Nat) : (v.next cyc len).ext = none := by
  unfold VState.next; dsimp only; split
  · rfl
  · split
    · split <;> rfl
    · rfl

/-! ## A step as a sequencer, a context or an event sees it -/

@[simp] theorem State.forSeq_agenda (s : State) (n : Fin 320) (q : SeqName) : (s.forSeq n q).agenda = s.agenda := rfl
@[simp] theorem State.forSeq_turns (s : State) (n : Fin 320) (q : SeqName) : (s.forSeq n q).turns = s.turns := rfl
@[simp] theorem State.forSeq_mc (s : State) (n : Fin 320) (q : SeqName) : (s.forSeq n q).mc = s.mc := rfl
@[simp] theorem State.forSeq_cyc (s : State) (n : Fin 320) (q : SeqName) : (s.forSeq n q).ctl.cyc = s.ctl.cyc := rfl
@[simp] theorem State.forSeq_tick (s : State) (n : Fin 320) (q : SeqName) : (s.forSeq n q).ctl.tick = s.ctl.tick := rfl
@[simp] theorem State.forCtx_agenda (s : State) (e : EngineId) (n : Fin 4) : (s.forCtx e n).agenda = s.agenda := rfl
@[simp] theorem State.forCtx_turns (s : State) (e : EngineId) (n : Fin 4) : (s.forCtx e n).turns = s.turns := rfl
@[simp] theorem State.forCtx_mc (s : State) (e : EngineId) (n : Fin 4) : (s.forCtx e n).mc = s.mc := rfl
@[simp] theorem State.forCtx_cyc (s : State) (e : EngineId) (n : Fin 4) : (s.forCtx e n).ctl.cyc = s.ctl.cyc := rfl
@[simp] theorem State.forCtx_tick (s : State) (e : EngineId) (n : Fin 4) : (s.forCtx e n).ctl.tick = s.ctl.tick := rfl
@[simp] theorem State.forOcc_agenda (s : State) (o : Occ) : (s.forOcc o).agenda = s.agenda := rfl
@[simp] theorem State.forOcc_turns (s : State) (o : Occ) : (s.forOcc o).turns = s.turns := rfl
@[simp] theorem State.forOcc_mc (s : State) (o : Occ) : (s.forOcc o).mc = s.mc := rfl
@[simp] theorem State.forOcc_cyc (s : State) (o : Occ) : (s.forOcc o).ctl.cyc = s.ctl.cyc := rfl
@[simp] theorem State.forOcc_tick (s : State) (o : Occ) : (s.forOcc o).ctl.tick = s.ctl.tick := rfl
@[simp] theorem State.forSeq_cur (s : State) (n : Fin 320) (q : SeqName) : (s.forSeq n q).ctl.cur = n := rfl
@[simp] theorem State.forSeq_curV (s : State) (n : Fin 320) (q : SeqName) : (s.forSeq n q).ctl.curV = seqV q := rfl
@[simp] theorem State.forCtx_eng (s : State) (e : EngineId) (n : Fin 4) : (s.forCtx e n).ctl.eng = e := rfl
@[simp] theorem State.forCtx_ctx (s : State) (e : EngineId) (n : Fin 4) : (s.forCtx e n).ctl.ctx = n := rfl
@[simp] theorem State.forOcc_occ (s : State) (o : Occ) : (s.forOcc o).ctl.occ = o := rfl
@[simp] theorem State.forOcc_cur (s : State) (o : Occ) : (s.forOcc o).ctl.cur = o.core := rfl

/-! ## Banks -/

@[simp] theorem vget_vset_same {α : Type} {n : Nat} (v : Vector α n) (i : Nat) (x d : α) (h : i < n) :
    vget (vset v i x) i d = x := by simp [vget, vset, h]

theorem vget_vset_other {α : Type} {n : Nat} (v : Vector α n) (i j : Nat) (x d : α) (h : j ≠ i) :
    vget (vset v i x) j d = vget v j d := by
  unfold vget vset
  split
  · rw [Vector.getElem_setIfInBounds_ne _ (Ne.symm h)]
  · rfl

@[simp] theorem vget_tab {α : Type} (n : Nat) (f : Nat → α) (i : Nat) (d : α) (h : i < n) : vget (tab n f) i d = f i := by
  simp [vget, tab, h]

theorem vset_vset {α : Type} {n : Nat} (v : Vector α n) (i : Nat) (x y : α) : vset (vset v i x) i y = vset v i y := by
  simp [vset]

/-! ## Cores, engines, queues and registers read back -/

@[simp] theorem Mach.core_setCore (m : Mach) (n : Fin 320) (c : Core) : (m.setCore n.val c).core n.val = c :=
  vget_vset_same _ _ _ _ n.isLt

theorem Mach.core_setCore_other (m : Mach) (n k : Nat) (c : Core) (h : k ≠ n) : (m.setCore n c).core k = m.core k :=
  vget_vset_other _ _ _ _ _ h

@[simp] theorem Mach.setCore_setCore (m : Mach) (n : Nat) (c d : Core) : (m.setCore n c).setCore n d = m.setCore n d := by
  simp [Mach.setCore, vset_vset]

@[simp] theorem Mach.engine_setCore (m : Mach) (n : Nat) (c : Core) (e : EngineId) : (m.setCore n c).engine e = m.engine e :=
  rfl

@[simp] theorem Mach.core_setEngine (m : Mach) (e : EngineId) (g : Engine) (n : Nat) : (m.setEngine e g).core n = m.core n :=
  rfl

theorem engineIndex_lt (e : EngineId) : engineIndex e < 416 := by
  cases e <;> simp only [engineIndex] <;> omega

@[simp] theorem Mach.engine_setEngine (m : Mach) (e : EngineId) (g : Engine) : (m.setEngine e g).engine e = g :=
  vget_vset_same _ _ _ _ (engineIndex_lt e)

/-- s0 reads as zero (R143). -/
@[simp] theorem XState.getS_zero (x : XState) : x.getS 0 = 0 := rfl

/-- A write to s0 is discarded (R143). -/
@[simp] theorem XState.setS_zero (x : XState) (v : W64) : x.setS 0 v = x := rfl

/-- A scalar register other than s0 reads as it was written. -/
theorem XState.getS_setS (x : XState) (r : SReg) (v : W64) (h : r ≠ 0) : (x.setS r v).getS r = v := by
  have hb : (r == 0) = false := beq_false_of_ne h
  simp only [XState.getS, XState.setS, hb, Bool.false_eq_true, if_false]
  exact vget_vset_same _ _ _ _ (by have := r.isLt; omega)

/-- Writing a scalar register leaves the others alone. -/
theorem XState.getS_setS_other (x : XState) (r t : SReg) (v : W64) (h : t ≠ r) : (x.setS r v).getS t = x.getS t := by
  unfold XState.getS XState.setS
  split
  · rfl
  · split
    · rfl
    · exact vget_vset_other _ _ _ _ _ (by intro e; exact h (BitVec.eq_of_toNat_eq e))

/-- p7 reads as 1 (R144, R198). -/
@[simp] theorem getPred_seven (p : BitVec 8) : getPred p 7 = true := rfl

/-- A write to p7 is discarded (R144, R198). -/
@[simp] theorem setPred_seven (p : BitVec 8) (b : Bool) : setPred p 7 b = p := rfl

/-- k0 reads as zero (R198). -/
@[simp] theorem VState.getK_zero (v : VState) : v.getK 0 = 0 := rfl

/-- A write to k0 is discarded (R198). -/
@[simp] theorem VState.setK_zero (v : VState) (x : W64) : v.setK 0 x = v := rfl

/-- m7 reads as all ones (R47, R231). -/
@[simp] theorem Core.getM_seven (c : Core) : c.getM 7 = BitVec.allOnes 1024 := rfl

/-- A write to m7 is discarded (R231). -/
@[simp] theorem Core.setM_seven (c : Core) (x : Mask) : c.setM 7 x = c := rfl

/-! ## How a meaning acts -/

/-- A meaning on the machine always answers a next state, and changes nothing but the machine. -/
@[simp] theorem onMach_eq (s : State) (f : Ctl → Mach → Mach) : onMach s f = .next { s with mc := f s.ctl s.mc } := rfl

/-- A meaning on a core always answers a next state, and changes nothing but the cores. -/
@[simp] theorem onCore_eq (s : State) (f : Ctl → Core → Core) :
    onCore s f = .next { s with mc := s.mc.setCore s.ctl.cur.val (f s.ctl (s.mc.core s.ctl.cur.val)) } := rfl

end Sys2Proof.Machine
end

