-- ==== Sys2Proof/Laws/Memory.lean ====
section
/-!
SUPPORT. Laws/Memory.lean: a byte reads as it was last written, a write leaves every other byte alone, and every operation
on memory keeps the canonical form.
-/

namespace Sys2Proof.Machine

/-! ## The canonical form -/

/-- The form from a higher address on is the form from a lower one on. -/
theorem Cells.wfFrom_mono (c : Cells) {lo hi : Nat} (h : lo ≤ hi) (w : c.wfFrom hi = true) : c.wfFrom lo = true := by
  cases c with
  | nil => rfl
  | cons p cs =>
    obtain ⟨k, b⟩ := p
    simp only [Cells.wfFrom, Bool.and_eq_true, decide_eq_true_eq] at w ⊢
    exact ⟨⟨Nat.le_trans h w.1.1, w.1.2⟩, w.2⟩

theorem Cells.set_wfFrom (c : Cells) (lo a : Nat) (v : Byte) (h : lo ≤ a) (w : c.wfFrom lo = true) :
    (c.set a v).wfFrom lo = true := by
  induction c generalizing lo with
  | nil =>
    unfold Cells.set
    split
    · rfl
    · rename_i hv
      simp only [Cells.wfFrom, Bool.and_eq_true, decide_eq_true_eq, bne_iff_ne, ne_eq, and_true]
      exact ⟨h, fun e => hv (by simp [e])⟩
  | cons p cs ih =>
    obtain ⟨k, b⟩ := p
    simp only [Cells.wfFrom, Bool.and_eq_true, decide_eq_true_eq] at w
    obtain ⟨⟨hk, hb⟩, hr⟩ := w
    unfold Cells.set
    split
    · rename_i hlt
      split
      · simp only [Cells.wfFrom, Bool.and_eq_true, decide_eq_true_eq]; exact ⟨⟨hk, hb⟩, hr⟩
      · rename_i hv
        simp only [Cells.wfFrom, Bool.and_eq_true, decide_eq_true_eq, bne_iff_ne, ne_eq]
        exact ⟨⟨h, fun e => hv (by simp [e])⟩, ⟨by omega, by simpa using hb⟩, hr⟩
    · rename_i hlt
      split
      · rename_i he
        have he' : a = k := by simpa using he
        split
        · exact Cells.wfFrom_mono cs (by omega) hr
        · rename_i hv
          simp only [Cells.wfFrom, Bool.and_eq_true, decide_eq_true_eq, bne_iff_ne, ne_eq]
          exact ⟨⟨h, fun e => hv (by simp [e])⟩, by rw [he']; exact hr⟩
      · rename_i he
        have he' : a ≠ k := by simpa using he
        simp only [Cells.wfFrom, Bool.and_eq_true, decide_eq_true_eq]
        exact ⟨⟨hk, hb⟩, ih (k + 1) (by omega) hr⟩

/-- Writing a byte keeps the canonical form. -/
theorem Cells.set_wf (c : Cells) (a : Nat) (v : Byte) (w : c.wf = true) : (c.set a v).wf = true :=
  Cells.set_wfFrom c 0 a v (Nat.zero_le a) w

/-- Writing a number keeps the canonical form. -/
theorem Cells.wr_wf (c : Cells) (a n v : Nat) (w : c.wf = true) : (c.wr a n v).wf = true := by
  induction n generalizing c a v with
  | zero => exact w
  | succ n ih => exact ih _ _ _ (Cells.set_wf c a _ w)

/-- Writing bytes keeps the canonical form. -/
theorem Cells.put_wf (c : Cells) (a : Nat) (bs : List Byte) (w : c.wf = true) : (c.put a bs).wf = true := by
  induction bs generalizing c a with
  | nil => exact w
  | cons b bs ih => exact ih _ _ (Cells.set_wf c a b w)

theorem Cells.filter_wfFrom (c : Cells) (lo : Nat) (f : Nat × Byte → Bool) (w : c.wfFrom lo = true) :
    (Cells.wfFrom lo (c.filter f)) = true := by
  induction c generalizing lo with
  | nil => rfl
  | cons p cs ih =>
    obtain ⟨k, b⟩ := p
    simp only [Cells.wfFrom, Bool.and_eq_true, decide_eq_true_eq] at w
    obtain ⟨⟨hk, hb⟩, hr⟩ := w
    rw [List.filter_cons]
    split
    · simp only [Cells.wfFrom, Bool.and_eq_true, decide_eq_true_eq]
      exact ⟨⟨hk, hb⟩, ih (k + 1) hr⟩
    · exact Cells.wfFrom_mono _ (Nat.le_succ_of_le hk) (ih (k + 1) hr)

/-- Clearing a range keeps the canonical form. -/
theorem Cells.clear_wf (c : Cells) (a n : Nat) (w : c.wf = true) : (c.clear a n).wf = true :=
  Cells.filter_wfFrom c 0 _ w

/-- Taking a range keeps the canonical form. -/
theorem Cells.slice_wf (c : Cells) (a n : Nat) (w : c.wf = true) : (c.slice a n).wf = true :=
  Cells.filter_wfFrom c 0 _ w

/-- Copying a range keeps the canonical form. -/
theorem Cells.lay_wf (c : Cells) (dst n : Nat) (s : Cells) (src : Nat) (w : c.wf = true) :
    (c.lay dst n s src).wf = true := by
  have key : ∀ (l : Cells) (d : Cells), d.wf = true →
      (l.foldl (fun (c : Cells) p => c.set (p.1 - src + dst) p.2) d).wf = true := by
    intro l
    induction l with
    | nil => intro d hd; exact hd
    | cons p l ih => intro d hd; exact ih _ (Cells.set_wf d _ _ hd)
  exact key _ _ (Cells.clear_wf c dst n w)

/-- Replacing a core by one whose scratchpad is canonical keeps every memory canonical. -/
theorem Mach.setCore_memWf (m : Mach) (n : Nat) (c : Core) (w : m.memWf) (hc : c.sp.wf = true) : (m.setCore n c).memWf := by
  refine ⟨w.1, fun k => ?_⟩
  by_cases hk : k = n
  · subst hk
    by_cases hl : k < 320
    · have h := Mach.core_setCore m ⟨k, hl⟩ c
      dsimp only at h
      rw [h]
      exact hc
    · have h : (m.setCore k c).core k = Core.init 0 := by simp [Mach.core, vget, hl]
      rw [h]
      rfl
  · rw [Mach.core_setCore_other _ _ _ _ hk]
    exact w.2 k

/-- Noting a written page changes no memory. -/
theorem Mach.noteDirty_memWf (m : Mach) (key : Nat) (w : m.memWf) : (m.noteDirty key).memWf := by
  unfold Mach.noteDirty
  dsimp only
  split
  · exact w
  · exact w

/-- Writing a byte of the machine keeps every memory canonical. -/
theorem Mach.set_memWf (m : Mach) (key : Nat) (b : Byte) (w : m.memWf) : (m.set key b).memWf := by
  unfold Mach.set
  split
  · exact Mach.setCore_memWf m _ _ w (Cells.set_wf _ _ _ (w.2 _))
  · exact Mach.noteDirty_memWf _ _ ⟨Cells.set_wf _ _ _ w.1, w.2⟩

/-- Writing a number into the machine keeps every memory canonical. -/
theorem Mach.wr_memWf (m : Mach) (key n v : Nat) (w : m.memWf) : (m.wr key n v).memWf := by
  induction n generalizing m key v with
  | zero => exact w
  | succ n ih => exact ih _ _ _ (Mach.set_memWf m key _ w)

/-- A machine that holds the frames and checkpoints of a canonical one, and memory that is canonical, is canonical. -/
theorem Mach.canonical_of (m d : Mach) (w : m.canonical) (h : d.memWf) (hf : d.frames = m.frames) (hd : d.dock = m.dock) :
    d.canonical := ⟨h, hf ▸ w.2.1, hd ▸ w.2.2⟩

/-- Replacing a core by one whose scratchpad is canonical keeps the machine canonical. -/
theorem Mach.setCore_canonical (m : Mach) (n : Nat) (c : Core) (w : m.canonical) (hc : c.sp.wf = true) : (m.setCore n c).canonical :=
  m.canonical_of _ w (m.setCore_memWf n c w.1 hc) rfl rfl

/-- Replacing an engine keeps the machine canonical. -/
theorem Mach.setEngine_canonical (m : Mach) (e : EngineId) (g : Engine) (w : m.canonical) : (m.setEngine e g).canonical :=
  m.canonical_of _ w w.1 rfl rfl

/-- Serving an access in a position of a scratchpad changes one core's position alone, or nothing. -/
theorem Mach.takeFree_cases (m : Mach) (cyc key : Nat) :
    m.takeFree cyc key = m ∨ ∃ n, m.takeFree cyc key = m.setCore n { m.core n with pos := (cyc + 1, 0) } := by
  unfold Mach.takeFree
  split
  · exact .inr ⟨_, rfl⟩
  · exact .inl rfl

/-- Serving an access in a position of a scratchpad keeps the machine canonical. -/
theorem Mach.takeFree_canonical (m : Mach) (cyc key : Nat) (w : m.canonical) : (m.takeFree cyc key).canonical := by
  obtain h | ⟨n, h⟩ := m.takeFree_cases cyc key
  · exact h.symm ▸ w
  · exact h.symm ▸ Mach.setCore_canonical m n _ w (w.1.2 n)

/-- Serving an access of several places keeps the machine canonical. -/
theorem Mach.takeFrees_canonical (m : Mach) (cyc : Nat) (ps : Parts) (w : m.canonical) : (m.takeFrees cyc ps).canonical := by
  induction ps generalizing m with
  | nil => exact w
  | cons p ps ih => exact ih _ (m.takeFree_canonical cyc p.1 w)

/-- Serving an access of several places leaves memory, engines, tasks, queues and frames as they are. -/
theorem Mach.takeFrees_keeps (m : Mach) (cyc : Nat) (ps : Parts) :
    (m.takeFrees cyc ps).mem = m.mem ∧ (m.takeFrees cyc ps).engines = m.engines ∧ (m.takeFrees cyc ps).tasks = m.tasks ∧
      (m.takeFrees cyc ps).queues = m.queues ∧ (m.takeFrees cyc ps).frames = m.frames := by
  induction ps generalizing m with
  | nil => exact ⟨rfl, rfl, rfl, rfl, rfl⟩
  | cons p ps ih =>
    have go : m.takeFrees cyc (p :: ps) = (m.takeFree cyc p.1).takeFrees cyc ps := rfl
    rw [go]
    obtain h | ⟨n, h⟩ := m.takeFree_cases cyc p.1 <;> rw [h]
    · exact ih m
    · exact ih (m.setCore n { m.core n with pos := (cyc + 1, 0) })

/-! ## Reading after writing -/

theorem Cells.get_below (c : Cells) (lo a : Nat) (h : a < lo) (w : c.wfFrom lo = true) : c.get a = 0 := by
  cases c with
  | nil => rfl
  | cons p cs =>
    obtain ⟨k, b⟩ := p
    simp only [Cells.wfFrom, Bool.and_eq_true, decide_eq_true_eq] at w
    have h1 : (a == k) = false := beq_false_of_ne (by omega)
    simp only [Cells.get, h1, Bool.false_eq_true, if_false]
    rw [if_pos (by omega)]

theorem Cells.get_set_from (c : Cells) (lo a x : Nat) (v : Byte) (w : c.wfFrom lo = true) :
    (c.set a v).get x = if x = a then v else c.get x := by
  induction c generalizing lo with
  | nil =>
    unfold Cells.set
    split
    · rename_i hv
      have hv' : v = 0 := by simpa using hv
      split <;> simp [Cells.get, hv']
    · simp only [Cells.get]
      by_cases hx : x = a <;> simp [hx]
  | cons p cs ih =>
    obtain ⟨k, b⟩ := p
    have w0 := w
    simp only [Cells.wfFrom, Bool.and_eq_true, decide_eq_true_eq] at w
    obtain ⟨⟨hk, hb⟩, hr⟩ := w
    unfold Cells.set
    split
    · rename_i hlt
      split
      · rename_i hv
        have hv' : v = 0 := by simpa using hv
        split
        · rename_i hx
          subst hx
          simp only [Cells.get]
          have h1 : (x == k) = false := beq_false_of_ne (by omega)
          simp [h1, hlt, hv']
        · rfl
      · by_cases hx : x = a
        · simp [Cells.get, hx]
        · have h1 : (x == a) = false := beq_false_of_ne hx
          simp only [Cells.get, h1, Bool.false_eq_true, if_false, hx]
          by_cases hxa : x < a
          · have h2 : (x == k) = false := beq_false_of_ne (by omega)
            have h3 : x < k := by omega
            simp [hxa, h2, h3]
          · simp [hxa]
    · rename_i hlt
      split
      · rename_i he
        have he' : a = k := by simpa using he
        subst he'
        split
        · rename_i hv
          have hv' : v = 0 := by simpa using hv
          by_cases hx : x = a
          · subst hx
            simp only [if_true, hv']
            exact Cells.get_below cs (x + 1) x (by omega) hr
          · have h1 : (x == a) = false := beq_false_of_ne hx
            simp only [Cells.get, h1, Bool.false_eq_true, if_false, hx]
            by_cases hxa : x < a
            · simp only [hxa, if_true]
              exact Cells.get_below cs (a + 1) x (by omega) hr
            · simp [hxa]
        · by_cases hx : x = a
          · simp [Cells.get, hx]
          · have h1 : (x == a) = false := beq_false_of_ne hx
            simp [Cells.get, h1, hx]
      · rename_i he
        have he' : a ≠ k := by simpa using he
        simp only [Cells.get]
        by_cases hxk : x = k
        · have : x ≠ a := by omega
          simp [hxk, Ne.symm he']
        · have h1 : (x == k) = false := beq_false_of_ne hxk
          simp only [h1, Bool.false_eq_true, if_false]
          by_cases hlx : x < k
          · have : x ≠ a := by omega
            simp [hlx, this]
          · simp only [hlx, if_false]
            exact ih (k + 1) hr

/-- In canonical memory a byte reads as it was last written, and every other byte as before. -/
theorem Cells.get_set (c : Cells) (a x : Nat) (v : Byte) (w : c.wf = true) :
    (c.set a v).get x = if x = a then v else c.get x := Cells.get_set_from c 0 a x v w

/-- A wide write leaves every byte outside it as it was. -/
theorem Cells.get_wr_outside (c : Cells) (a n v x : Nat) (w : c.wf = true) (h : x < a ∨ a + n ≤ x) :
    (c.wr a n v).get x = c.get x := by
  induction n generalizing c a v with
  | zero => rfl
  | succ n ih =>
    rw [Cells.wr, ih _ _ _ (Cells.set_wf c a _ w) (by omega), Cells.get_set c a x _ w, if_neg (by omega)]

/-- A wide write is read back, byte by byte, little-endian (R3). -/
theorem Cells.get_wr_inside (c : Cells) (a n v i : Nat) (w : c.wf = true) (h : i < n) :
    (c.wr a n v).get (a + i) = BitVec.ofNat 8 (v / 256 ^ i) := by
  induction n generalizing c a v i with
  | zero => omega
  | succ n ih =>
    rw [Cells.wr]
    cases i with
    | zero =>
      show ((c.set a (BitVec.ofNat 8 v)).wr (a + 1) n (v / 256)).get a = _
      rw [Cells.get_wr_outside _ _ _ _ _ (Cells.set_wf c a _ w) (by omega),
        Cells.get_set c a a _ w, if_pos rfl, Nat.pow_zero, Nat.div_one]
    | succ i =>
      have e : a + (i + 1) = (a + 1) + i := by omega
      rw [e, ih _ _ _ _ (Cells.set_wf c a _ w) (by omega), Nat.div_div_eq_div_mul, Nat.pow_succ, Nat.mul_comm 256]

/-- A wide write is read back as the number written. -/
theorem Cells.rd_wr (c : Cells) (a n v : Nat) (w : c.wf = true) : (c.wr a n v).rd a n = v % 256 ^ n := by
  induction n generalizing c a v with
  | zero => simp [Cells.rd, Nat.mod_one]
  | succ n ih =>
    rw [Cells.rd, Cells.wr, ih _ _ _ (Cells.set_wf c a _ w), Cells.get_wr_outside _ _ _ _ _ (Cells.set_wf c a _ w) (by omega),
      Cells.get_set c a a _ w, if_pos rfl, BitVec.toNat_ofNat, show 2 ^ 8 = 256 from rfl, Nat.pow_succ,
      Nat.mul_comm (256 ^ n) 256, Nat.mod_mul]

/-- The reset memory is canonical. -/
theorem reset_mem_wf : State.reset.mc.mem.wf = true := rfl

end Sys2Proof.Machine
end

