-- ==== Sys2Proof/Laws/Words.lean ====
section
/-!
SUPPORT. Laws/Words.lean: what the shared operations of X's words and of the words of L, C and S can do, said once for each:
under a true guard, under a false guard, and while an operand is awaited.
-/

namespace Sys2Proof.Machine

/-! ## Replacing by the same -/

theorem vset_vget_self {α : Type} {n : Nat} (v : Vector α n) (i : Nat) (d : α) : vset v i (vget v i d) = v := by
  unfold vset vget
  split
  · apply Vector.ext
    intro j hj
    rw [Vector.getElem_setIfInBounds]
    split
    · rename_i h1 h2; subst h2; rfl
    · rfl
  · rename_i h
    apply Vector.ext
    intro j hj
    rw [Vector.getElem_setIfInBounds]
    split
    · omega
    · rfl

@[simp] theorem Mach.setCore_self (m : Mach) (n : Nat) : m.setCore n (m.core n) = m := by
  show { m with cores := vset m.cores n (vget m.cores n (Core.init 0)) } = m
  rw [vset_vget_self]

@[simp] theorem State.put_self (s : State) : s.put s.mc = s := rfl

@[simp] theorem State.putCore_self (s : State) : s.putCore s.core = s := by
  show s.put (s.mc.setCore s.ctl.cur.val (s.mc.core s.ctl.cur.val)) = s
  rw [Mach.setCore_self]; rfl

/-- A meaning on the machine, in the words of claims. -/
theorem onMach_put (s : State) (f : Ctl → Mach → Mach) : onMach s f = .next (s.put (f s.ctl s.mc)) := rfl

/-- A meaning on a core, in the words of claims. -/
theorem onCore_put (s : State) (f : Ctl → Core → Core) : onCore s f = .next (s.putCore (f s.ctl s.core)) := rfl

/-! ## Words of X -/

/-- Passing a word keeps everything of X but its pc, its readiness and its wait. -/
theorem XState.next_eq_past (x : XState) (cyc len : Nat) (pc : W32) (h : x.pc = pc) : x.next cyc len = x.past pc cyc len := by
  subst h; rfl

/-- A word that only changes X acts under a true guard with its registers free. -/
theorem xDo_go (s : State) (len : Nat) (g : Guard) (regs : List SReg) (f : Ctl → XState → XState)
    (hpc : (f s.ctl s.core.x).pc = s.core.x.pc) (h : s.xGo g regs) :
    xDo s len g regs f = .next (s.xAfter len (f s.ctl s.core.x)) := by
  unfold xDo State.xAfter State.xPass
  rw [onCore_put, if_neg (by rw [h.1]; decide), if_neg (by rw [h.2]; decide), XState.next_eq_past _ _ _ _ hpc]

/-- Under a false guard it is only passed. -/
theorem xDo_skip (s : State) (len : Nat) (g : Guard) (regs : List SReg) (f : Ctl → XState → XState)
    (h : guardHolds g s.core.x.p = false) : xDo s len g regs f = .next (s.xAfter len s.core.x) := by
  unfold xDo State.xAfter State.xPass
  rw [onCore_put, if_pos (by rw [h]; rfl)]
  rfl

/-- While a register it uses awaits a load, nothing changes. -/
theorem xDo_busy (s : State) (len : Nat) (g : Guard) (regs : List SReg) (f : Ctl → XState → XState)
    (h : guardHolds g s.core.x.p = true) (hb : regs.any s.core.x.busy = true) : xDo s len g regs f = .next s := by
  unfold xDo
  rw [onCore_put, if_neg (by rw [h]; decide), if_pos hb, State.putCore_self]

/-- A word whose meaning is xDo is a word that only changes X. -/
theorem XWord.of_xDo {s : State} {i : Instr} {g : Guard} {len : Nat} {regs : List SReg} (f : Ctl → XState → XState)
    (he : exec i s = xDo s len g regs f) (hpc : (f s.ctl s.core.x).pc = s.core.x.pc) {x : XState} (hx : f s.ctl s.core.x = x) :
    XWord s i g len regs x := by
  subst hx
  exact ⟨fun h => he.trans (xDo_go s len g regs f hpc h), fun h => he.trans (xDo_skip s len g regs f h),
    fun h hb => he.trans (xDo_busy s len g regs f h hb)⟩

/-- A word that may trap: under a true guard with its registers free it leaves the core it makes, or traps. -/
theorem xTry_go (s : State) (len : Nat) (g : Guard) (regs : List SReg) (f : Ctl → Core → CoreRes) (h : s.xGo g regs) :
    xTry s len g regs f = .next (match f s.ctl s.core with
      | .ok c => s.putCore { c with x := c.x.next s.ctl.cyc len }
      | .trap code i0 i1 => s.xTrap code i0 i1) := by
  unfold xTry
  rw [onMach_put, if_neg (by show ¬(!guardHolds g s.core.x.p) = true; rw [h.1]; decide),
    if_neg (by show ¬(regs.any s.core.x.busy) = true; rw [h.2]; decide)]
  show Host.Outcome.next (s.put (match f s.ctl s.core with | .ok c' => _ | .trap code i0 i1 => _)) = _
  cases f s.ctl s.core <;> rfl

theorem xTry_skip (s : State) (len : Nat) (g : Guard) (regs : List SReg) (f : Ctl → Core → CoreRes)
    (h : guardHolds g s.core.x.p = false) : xTry s len g regs f = .next (s.xAfter len s.core.x) := by
  unfold xTry State.xAfter State.xPass
  rw [onMach_put, if_pos (by show (!guardHolds g s.core.x.p) = true; rw [h]; rfl)]
  rfl

theorem xTry_busy (s : State) (len : Nat) (g : Guard) (regs : List SReg) (f : Ctl → Core → CoreRes)
    (h : guardHolds g s.core.x.p = true) (hb : regs.any s.core.x.busy = true) : xTry s len g regs f = .next s := by
  unfold xTry
  rw [onMach_put, if_neg (by show ¬(!guardHolds g s.core.x.p) = true; rw [h]; decide),
    if_pos (by show regs.any s.core.x.busy = true; exact hb)]
  rfl

/-! ## Words of L, C and S -/

/-- The sequencer's guard, as the model looks at it. -/
theorem vGuard_eq (s : State) (g : Guard) : s.core.vGuard s.ctl.curV g = guardHolds g s.vs.p := rfl

theorem vDo_go (s : State) (len : Nat) (g : Guard) (f : Ctl → Core → Core) (h : guardHolds g s.vs.p = true) :
    vDo s len g f = .next (s.vPass len (f s.ctl s.core)) := by
  unfold vDo State.vPass
  rw [onCore_put, if_pos (by rw [vGuard_eq]; exact h)]

theorem vDo_skip (s : State) (len : Nat) (g : Guard) (f : Ctl → Core → Core) (h : guardHolds g s.vs.p = false) :
    vDo s len g f = .next (s.vPass len s.core) := by
  unfold vDo State.vPass
  rw [onCore_put, if_neg (by rw [vGuard_eq, h]; decide)]

/-- A word whose meaning is vDo is a word of L, C or S that acts on its core and does not trap. -/
theorem VWord.of_vDo {s : State} {i : Instr} {g : Guard} {len : Nat} (f : Ctl → Core → Core) (he : exec i s = vDo s len g f)
    {c : Core} (hc : f s.ctl s.core = c) : VWord s i g len c := by
  subst hc
  exact ⟨fun h => he.trans (vDo_go s len g f h), fun h => he.trans (vDo_skip s len g f h)⟩

theorem vMach_skip (s : State) (len : Nat) (g : Guard) (f : Ctl → Mach → Except (Byte × W64 × W64) Mach)
    (h : guardHolds g s.vs.p = false) : vMach s len g f = .next (s.vPass len s.core) := by
  unfold vMach State.vPass
  rw [onMach_put, if_pos (by show (!s.core.vGuard s.ctl.curV g) = true; rw [vGuard_eq, h]; rfl)]
  rfl

/-- A word on the machine: it leaves the machine that `f` makes, its core past the word, or traps. -/
theorem vMach_go (s : State) (len : Nat) (g : Guard) (f : Ctl → Mach → Except (Byte × W64 × W64) Mach)
    (h : guardHolds g s.vs.p = true) : vMach s len g f = .next (match f s.ctl s.mc with
      | .ok m => (s.put m).vPass len (m.core s.ctl.cur.val)
      | .error (code, i0, i1) => s.vTrap code i0 i1) := by
  unfold vMach
  rw [onMach_put, if_neg (by show ¬(!s.core.vGuard s.ctl.curV g) = true; rw [vGuard_eq, h]; decide)]
  cases f s.ctl s.mc with
  | ok m => rfl
  | error e => rfl

theorem vTry_skip (s : State) (len : Nat) (g : Guard) (f : Ctl → Core → CoreRes) (h : guardHolds g s.vs.p = false) :
    vTry s len g f = .next (s.vPass len s.core) := vMach_skip s len g _ h

/-- A word on its core: it leaves the core that `f` makes, past the word, or traps. -/
theorem vTry_go (s : State) (len : Nat) (g : Guard) (f : Ctl → Core → CoreRes) (h : guardHolds g s.vs.p = true) :
    vTry s len g f = .next (match f s.ctl s.core with
      | .ok c => s.vPass len c
      | .trap code i0 i1 => s.vTrap code i0 i1) := by
  unfold vTry
  rw [vMach_go s len g _ h]
  show Host.Outcome.next (match (match f s.ctl s.core with | .ok c => _ | .trap code i0 i1 => _ : Except (Byte × W64 × W64) Mach) with
    | .ok m => _ | .error (code, i0, i1) => _) = _
  cases f s.ctl s.core with
  | ok c =>
    show Host.Outcome.next ((s.put (s.mc.setCore s.ctl.cur.val c)).vPass len ((s.mc.setCore s.ctl.cur.val c).core s.ctl.cur.val)) = _
    rw [Mach.core_setCore]
    unfold State.vPass State.putCore State.put
    simp only [Mach.setCore_setCore]
  | trap code i0 i1 => rfl

end Sys2Proof.Machine
end

