-- ==== Sys2Proof/Laws/Transfer.lean ====
section
/-!
SUPPORT. Laws/Transfer.lean: what a turn of a transfer context and a packet can do, said once for each: a context read
back, a control word, a data command's turn, a packet's step.
-/

namespace Sys2Proof.Machine

/-! ## Contexts -/

@[simp] theorem Mach.ctx_setCtx (m : Mach) (e : EngineId) (n : Fin 4) (x : Ctx) : (m.setCtx e n x).ctx e n = x := by
  simp only [Mach.setCtx, Mach.ctx, Mach.engine_setEngine, Engine.ctx]
  exact vget_vset_same _ _ _ _ n.isLt

theorem Mach.setEngine_setEngine (m : Mach) (e : EngineId) (g h : Engine) : (m.setEngine e g).setEngine e h = m.setEngine e h := by
  simp only [Mach.setEngine, vset_vset]

@[simp] theorem Mach.setCtx_setCtx (m : Mach) (e : EngineId) (n : Fin 4) (x y : Ctx) :
    (m.setCtx e n x).setCtx e n y = m.setCtx e n y := by
  simp only [Mach.setCtx, Mach.engine_setEngine, Mach.setEngine_setEngine, vset_vset]

/-- A word on its context's registers acts when it awaits no result. -/
theorem ctxWord_go (s : State) (rs : List Reg4) (f : Ctx → Ctx) (h : s.ctx.awaits rs = false) :
    ctxWord s rs f = .next (s.putCtx (f s.ctx)) := by
  unfold ctxWord
  rw [onMach_put, if_neg (by rw [show (s.mc.ctx s.ctl.eng s.ctl.ctx).awaits rs = false from h]; decide)]
  rfl

/-- It does not issue while it awaits one. -/
theorem ctxWord_busy (s : State) (rs : List Reg4) (f : Ctx → Ctx) (h : s.ctx.awaits rs = true) : ctxWord s rs f = .next s := by
  unfold ctxWord
  rw [onMach_put, if_pos (show (s.mc.ctx s.ctl.eng s.ctl.ctx).awaits rs = true from h)]
  rfl

/-! ## Data commands -/

/-- A turn of a context whose command is in progress. -/
theorem dataWord_some (s : State) (i : Instr) (long : Bool) (w : TArgs) (sp : CmdSpec) (c : Cmd) (h : s.ctx.cmd = some c) :
    dataWord s i long w sp = .next (s.put (s.mc.runCmd s.ctl long w sp c s.ctx.ep.toNat)) := by
  unfold dataWord
  rw [onMach_put]
  have h' : (s.mc.ctx s.ctl.eng s.ctl.ctx).cmd = some c := h
  simp only [h']
  rfl

/-- A turn of a context that meets a data command: it waits, or it starts. -/
theorem dataWord_none (s : State) (i : Instr) (long : Bool) (w : TArgs) (sp : CmdSpec) (h : s.ctx.cmd = none) :
    dataWord s i long w sp = .next (if s.mc.issueHeld s.ctl s.ctx w sp then s
      else s.put (((s.mc.tellFor s.ctl w).numberCmd s.ctl.eng s.ctl.ctx s.ctl.cyc).runCmd s.ctl long w sp (s.ctx.newCmd i (s.mc.engine s.ctl.eng).nextId (tVc w)) 0)) := by
  unfold dataWord
  rw [onMach_put]
  have h' : (s.mc.ctx s.ctl.eng s.ctl.ctx).cmd = none := h
  simp only [h']
  show Host.Outcome.next (s.put (if s.mc.issueHeld s.ctl s.ctx w sp = true then s.mc else _)) = _
  split <;> rfl

/-- The turn of a started command at an element. -/
theorem dataWord_elem (s : State) (i : Instr) (long : Bool) (w : TArgs) (sp : CmdSpec) (c : Cmd) (h : s.ctx.cmd = some c)
    (hs : c.started = true) (he : s.ctx.ep.toNat < c.total) :
    dataWord s i long w sp = .next (s.put (match sp.elem s.ctl (s.mc.access s.ctl c) s.mc c s.ctx.ep.toNat with
      | .error t => s.mc.stopCmd (s.mc.access s.ctl c) s.ctl.eng s.ctl.ctx sp c s.ctx.ep.toNat t
      | .ok (m', c', .next) =>
        let m' := m'.setCtx s.ctl.eng s.ctl.ctx { m'.ctx s.ctl.eng s.ctl.ctx with
          ep := BitVec.ofNat 64 (s.ctx.ep.toNat + 1), got := [], again := [], since := s.ctl.cyc }
        if c'.total ≤ s.ctx.ep.toNat + 1 then m'.finishCmd s.ctl.eng s.ctl.ctx long w sp c'
        else m'.keepCmd s.ctl.eng s.ctl.ctx c' (s.ctx.ep.toNat + 1) .none
      | .ok (m', c', .finish) => m'.finishCmd s.ctl.eng s.ctl.ctx long w sp c'
      | .ok (m', c', .again) => (m'.readDone s.ctl.eng s.ctl.ctx).keepCmd s.ctl.eng s.ctl.ctx c' s.ctx.ep.toNat .none)) := by
  rw [dataWord_some s i long w sp c h]
  unfold Mach.runCmd
  rw [if_pos hs]
  unfold Mach.runElem
  rw [if_neg (by omega)]
  all_goals rfl

/-! ## Packets -/

/-- A packet's step on a queue without a packet changes nothing. -/
theorem onPacket_none (s : State) (ts : List Nat) (mgmt : Bool) (f : Ctl → Mach → Packet → Mach)
    (h : s.mc.packetAt s.ctl.occ.queue = none) : onPacket s ts mgmt f = .next s := by
  unfold onPacket
  rw [onMach_put, h]
  rfl

/-- A packet's step on a packet of its type that is not turned away. -/
theorem onPacket_ready (s : State) (ts : List Nat) (mgmt : Bool) (f : Ctl → Mach → Packet → Mach) (p : Packet)
    (h : s.mc.packetAt s.ctl.occ.queue = some p) (ht : p.type ∈ ts) (hb : s.mc.tenantBarred p = false)
    (hm : mgmt = true → p.q = .mgmt ∧ p.fieldsBad s.ctl.occ = false) : onPacket s ts mgmt f = .next (s.put (f s.ctl s.mc p)) := by
  unfold onPacket
  rw [onMach_put, h]
  have h1 : ts.contains p.type = true := by simpa using ht
  have h2 : (mgmt && p.q != .mgmt) = false := by
    cases mgmt with
    | false => rfl
    | true => simp [(hm rfl).1]
  have h3 : (mgmt && p.fieldsBad s.ctl.occ) = false := by
    cases mgmt with
    | false => rfl
    | true => simp [(hm rfl).2]
  simp only [h1, hb, h2, h3, Bool.not_true, Bool.or_self, Bool.false_eq_true, if_false]

/-- A management packet with a field outside its range fails with error 1 (R409). -/
theorem onPacket_fieldsBad (s : State) (ts : List Nat) (f : Ctl → Mach → Packet → Mach) (p : Packet)
    (h : s.mc.packetAt s.ctl.occ.queue = some p) (ht : p.type ∈ ts) (hb : s.mc.tenantBarred p = false)
    (hm : p.q = .mgmt) (hf : p.fieldsBad s.ctl.occ = true) : onPacket s ts true f = .next (s.put (s.mc.packetError p 1)) := by
  unfold onPacket
  rw [onMach_put, h]
  have h1 : ts.contains p.type = true := by simpa using ht
  have h2 : (p.q != .mgmt) = false := by simp [hm]
  simp only [h1, hb, h2, hf, Bool.not_true, Bool.and_false, Bool.true_and, Bool.or_self, Bool.false_eq_true, if_false, if_true]

/-- A management packet on a tenant queue is turned away with error 6. -/
theorem onPacket_barred (s : State) (ts : List Nat) (f : Ctl → Mach → Packet → Mach) (p : Packet)
    (h : s.mc.packetAt s.ctl.occ.queue = some p) (ht : p.type ∈ ts) (hq : p.q ≠ .mgmt) :
    onPacket s ts true f = .next (s.put (s.mc.packetError p 6)) := by
  unfold onPacket
  rw [onMach_put, h]
  have h1 : ts.contains p.type = true := by simpa using ht
  have h2 : (p.q != .mgmt) = true := by simpa using hq
  simp only [h1, h2, Bool.not_true, Bool.true_and, Bool.or_true, Bool.false_eq_true, if_false, if_true]

end Sys2Proof.Machine
end

