-- ==== Sys2Proof/Tests/Slice0.lean ====
section
/-!
SUPPORT. Tests/Slice0.lean: small checks of the model against numbers written out from the spec by hand: the words of
every row that is fetched (R39-R58), an ill-formed term for every operand limit, single steps on small states, and for
each statement a state and operands that meet its hypotheses.
-/

namespace Sys2Proof.Tests

set_option Elab.async false

open Sys2Proof Sys2Proof.Machine

/-! ## Decoding: words written out field by field from the layouts of R39, R44, R50 and R56 -/

/-- The bytes of the word decode to the step, with none left over. -/
def reads (r : Except DecodeErr (Instr × List Byte)) (i : Instr) : Bool :=
  match r with
  | .ok (j, rest) => decide (j = i) && rest.isEmpty
  | .error _ => false

/-- A word of n bytes in X. -/
def readX (n w : Nat) (i : Instr) : Bool := reads (decodeSeq .x (Sys2Proof.leBytes n w)) i

/-- A word of n bytes in L, C or S. -/
def readV (q : SeqName) (n w : Nat) (i : Instr) : Bool := reads (decodeSeq q (Sys2Proof.leBytes n w)) i

/-- A word of n bytes in a transfer context. -/
def readT (n w : Nat) (i : Instr) : Bool := reads (decodeXfer (Sys2Proof.leBytes n w)) i

/-- R39, R41: OP 0x00, FN 0-15. -/
theorem test_decode_alu_register_words : [
    readX 4 0x017D1A00 (.add ⟨true, 2⟩ 17 30 5),
    readX 4 0x097D1A00 (.sub ⟨true, 2⟩ 17 30 5),
    readX 4 0x117D1A00 (.andR ⟨true, 2⟩ 17 30 5),
    readX 4 0x197D1A00 (.orR ⟨true, 2⟩ 17 30 5),
    readX 4 0x217D1A00 (.xorR ⟨true, 2⟩ 17 30 5),
    readX 4 0x297D1A00 (.andn ⟨true, 2⟩ 17 30 5),
    readX 4 0x317D1A00 (.sll ⟨true, 2⟩ 17 30 5),
    readX 4 0x397D1A00 (.srl ⟨true, 2⟩ 17 30 5),
    readX 4 0x417D1A00 (.sra ⟨true, 2⟩ 17 30 5),
    readX 4 0x497D1A00 (.minS ⟨true, 2⟩ 17 30 5),
    readX 4 0x517D1A00 (.maxS ⟨true, 2⟩ 17 30 5),
    readX 4 0x597D1A00 (.minU ⟨true, 2⟩ 17 30 5),
    readX 4 0x617D1A00 (.maxU ⟨true, 2⟩ 17 30 5),
    readX 4 0x683D1A00 (.clz ⟨true, 2⟩ 17 30),
    readX 4 0x703D1A00 (.ctz ⟨true, 2⟩ 17 30),
    readX 4 0x783D1A00 (.popc ⟨true, 2⟩ 17 30)].all id = true := by decide +kernel

/-- R40, R41: OP 0x01 with I16, FN 0-12. -/
theorem test_decode_alu_immediate_words_64 : [
    readX 8 0x00008001002C9A05 (.addImm64 ⟨true, 2⟩ 9 22 0x8001),
    readX 8 0x00008001082C9A05 (.subImm64 ⟨true, 2⟩ 9 22 0x8001),
    readX 8 0x00008001102C9A05 (.andImm64 ⟨true, 2⟩ 9 22 0x8001),
    readX 8 0x00008001182C9A05 (.orImm64 ⟨true, 2⟩ 9 22 0x8001),
    readX 8 0x00008001202C9A05 (.xorImm64 ⟨true, 2⟩ 9 22 0x8001),
    readX 8 0x00008001282C9A05 (.andnImm64 ⟨true, 2⟩ 9 22 0x8001),
    readX 8 0x0000003F302C9A05 (.sllImm64 ⟨true, 2⟩ 9 22 0x3f),
    readX 8 0x0000003F382C9A05 (.srlImm64 ⟨true, 2⟩ 9 22 0x3f),
    readX 8 0x0000003F402C9A05 (.sraImm64 ⟨true, 2⟩ 9 22 0x3f),
    readX 8 0x00008001482C9A05 (.minImm64 ⟨true, 2⟩ 9 22 0x8001),
    readX 8 0x00008001502C9A05 (.maxImm64 ⟨true, 2⟩ 9 22 0x8001),
    readX 8 0x00008001582C9A05 (.minuImm64 ⟨true, 2⟩ 9 22 0x8001),
    readX 8 0x00008001602C9A05 (.maxuImm64 ⟨true, 2⟩ 9 22 0x8001)].all id = true := by decide +kernel

/-- R40, R41: OP 0x01 with LIT, FN 0-12. -/
theorem test_decode_alu_immediate_words_96 : [
    readX 12 0x8000000100000000002C9A06 (.addImm96 ⟨true, 2⟩ 9 22 0x80000001),
    readX 12 0x8000000100000000082C9A06 (.subImm96 ⟨true, 2⟩ 9 22 0x80000001),
    readX 12 0x8000000100000000102C9A06 (.andImm96 ⟨true, 2⟩ 9 22 0x80000001),
    readX 12 0x8000000100000000182C9A06 (.orImm96 ⟨true, 2⟩ 9 22 0x80000001),
    readX 12 0x8000000100000000202C9A06 (.xorImm96 ⟨true, 2⟩ 9 22 0x80000001),
    readX 12 0x8000000100000000282C9A06 (.andnImm96 ⟨true, 2⟩ 9 22 0x80000001),
    readX 12 0x0000003F00000000302C9A06 (.sllImm96 ⟨true, 2⟩ 9 22 0x3f),
    readX 12 0x0000003F00000000382C9A06 (.srlImm96 ⟨true, 2⟩ 9 22 0x3f),
    readX 12 0x0000003F00000000402C9A06 (.sraImm96 ⟨true, 2⟩ 9 22 0x3f),
    readX 12 0x8000000100000000482C9A06 (.minImm96 ⟨true, 2⟩ 9 22 0x80000001),
    readX 12 0x8000000100000000502C9A06 (.maxImm96 ⟨true, 2⟩ 9 22 0x80000001),
    readX 12 0x8000000100000000582C9A06 (.minuImm96 ⟨true, 2⟩ 9 22 0x80000001),
    readX 12 0x8000000100000000602C9A06 (.maxuImm96 ⟨true, 2⟩ 9 22 0x80000001)].all id = true := by decide +kernel

/-- R41: OP 0x02, 0x03, 0x04. -/
theorem test_decode_multiply_bit_field_words : [
    readX 4 0x0403FA08 (.mul ⟨true, 2⟩ 31 1 16),
    readX 4 0x0C03FA08 (.mulh ⟨true, 2⟩ 31 1 16),
    readX 4 0x1403FA08 (.mulhu ⟨true, 2⟩ 31 1 16),
    readX 4 0x1C03FA08 (.div ⟨true, 2⟩ 31 1 16),
    readX 4 0x2403FA08 (.divu ⟨true, 2⟩ 31 1 16),
    readX 4 0x2C03FA08 (.rem ⟨true, 2⟩ 31 1 16),
    readX 4 0x3403FA08 (.remu ⟨true, 2⟩ 31 1 16),
    readX 8 0x00000F4300088A0D (.bfx ⟨true, 2⟩ 8 4 3 61),
    readX 8 0x00000F4308088A0D (.bfxs ⟨true, 2⟩ 8 4 3 61),
    readX 8 0x00000F4310088A0D (.bfi ⟨true, 2⟩ 8 4 3 61),
    readX 8 0x0000BEEF00008A11 (.li64 ⟨true, 2⟩ 8 0xBEEF),
    readX 12 0xDEADBEEF0000000000008A12 (.li96 ⟨true, 2⟩ 8 0xDEADBEEF),
    readX 12 0xDEADBEEF0000000008008A12 (.lih ⟨true, 2⟩ 8 0xDEADBEEF)].all id = true := by decide +kernel

/-- R41: OP 0x05-0x07; the last two lines are the register and the immediate form of CMP. -/
theorem test_decode_predicate_words : [
    readX 4 0x00C26A1C (.plogAnd ⟨true, 2⟩ 6 1 3),
    readX 4 0x08C26A1C (.plogOr ⟨true, 2⟩ 6 1 3),
    readX 4 0x10C26A1C (.plogXor ⟨true, 2⟩ 6 1 3),
    readX 4 0x18C26A1C (.plogAndn ⟨true, 2⟩ 6 1 3),
    readX 4 0x20C26A1C (.plogNand ⟨true, 2⟩ 6 1 3),
    readX 4 0x28C26A1C (.plogNor ⟨true, 2⟩ 6 1 3),
    readX 4 0x30C26A1C (.plogXnor ⟨true, 2⟩ 6 1 3),
    readX 4 0x38026A1C (.plogMov ⟨true, 2⟩ 6 1),
    readX 8 0x006400009D681A19 (.fcmp ⟨true, 2⟩ 3 2 3 1 4 20 21),
    readX 8 0x000400006D681A15 (.cmp ⟨true, 2⟩ 5 1 1 4 20 21 false 0),
    readX 8 0x0027FF0010287A15 (.cmp ⟨true, 2⟩ 2 0 7 7 20 0 true 0xFF00)].all id = true := by decide +kernel

/-- R41: OP 0x08-0x0C. -/
theorem test_decode_floating_point_words : [
    readX 4 0x18443A20 (.fadd ⟨true, 2⟩ 3 3 2 1),
    readX 4 0x30443A20 (.fsub ⟨true, 2⟩ 2 3 2 1),
    readX 4 0x08443A24 (.fmul ⟨true, 2⟩ 1 3 2 1),
    readX 8 0x001D000030443A29 (.ffma ⟨true, 2⟩ true false 2 3 2 1 29),
    readX 8 0x001D000048443A29 (.ffma ⟨true, 2⟩ false true 1 3 2 1 29),
    readX 4 0x00443A2C (.fmin ⟨true, 2⟩ 0 3 2 1),
    readX 4 0x38443A2C (.fmax ⟨true, 2⟩ 3 3 2 1),
    readX 4 0x48043A30 (.fcvtFpFp ⟨true, 2⟩ 1 2 3 2),
    readX 4 0x60443A30 (.fcvtFpI64 ⟨true, 2⟩ 3 3 2),
    readX 4 0x40843A30 (.fcvtFpU64 ⟨true, 2⟩ 2 3 2),
    readX 4 0x18C43A30 (.fcvtI64Fp ⟨true, 2⟩ 3 3 2),
    readX 4 0x11043A30 (.fcvtU64Fp ⟨true, 2⟩ 2 3 2)].all id = true := by decide +kernel

/-- R39, R41: OP 0x10-0x14. -/
theorem test_decode_flow_words : [
    readX 4 0xFF800A40 (.br32 ⟨true, 2⟩ 0x3FE),
    readX 8 0x0000FFFE00000A41 (.br64 ⟨true, 2⟩ 0xFFFE),
    readX 12 0xFFFFFFFE0000000000000A42 (.br96 ⟨true, 2⟩ 0xFFFFFFFE),
    readX 4 0xFF800A48 (.call32 ⟨true, 2⟩ 0x3FE),
    readX 8 0x0000FFFE00000A49 (.call64 ⟨true, 2⟩ 0xFFFE),
    readX 12 0xFFFFFFFE0000000000000A4A (.call96 ⟨true, 2⟩ 0xFFFFFFFE),
    readX 4 0x00180A44 (.jmpr ⟨true, 2⟩ 12),
    readX 4 0x00000A4C (.ret ⟨true, 2⟩),
    readX 4 0x00000A50 (.nop32 ⟨true, 2⟩),
    readX 8 0x0000000000000A51 (.nop64 ⟨true, 2⟩),
    readX 12 0x000000000000000000000A52 (.nop96 ⟨true, 2⟩)].all id = true := by decide +kernel

/-- R41: OP 0x18-0x23. -/
theorem test_decode_memory_and_wait_words : [
    readX 8 0x0000FFF8300C7A61 (.lds ⟨true, 2⟩ 7 6 2 true 0xFFF8),
    readX 8 0x00000008180C7A61 (.lds ⟨true, 2⟩ 7 6 3 false 8),
    readX 8 0x0000FFF80A4C0A65 (.sts ⟨true, 2⟩ 6 9 1 0xFFF8),
    readX 8 0xC8A000FA00000A69 (.waitlc64 ⟨true, 2⟩ 250 5 200),
    readX 12 0x8000000000A000FA00000A6A (.waitlc96 ⟨true, 2⟩ 250 5 2147483648),
    readX 8 0x0000FFF8024C0A71 (.semadd ⟨true, 2⟩ 6 9 0xFFF8),
    readX 8 0xC8A00FFF0A4C0A75 (.semwait64 ⟨true, 2⟩ 6 9 4095 true 5 200),
    readX 12 0x8000000000A00FFF024C0A76 (.semwait96 ⟨true, 2⟩ 6 9 4095 false 5 2147483648),
    readX 8 0xC8A00000080C7A81 (.tagwait64 ⟨true, 2⟩ 7 6 true false 5 200),
    readX 12 0x8000000000A00000100C7A82 (.tagwait96 ⟨true, 2⟩ 7 6 false true 5 2147483648),
    readX 4 0x080C7A84 (.tagff ⟨true, 2⟩ 7 6 true),
    readX 8 0xC8A00000100C0A89 (.qput64 ⟨true, 2⟩ 2 6 5 200),
    readX 12 0x8000000000A00000100C0A8A (.qput96 ⟨true, 2⟩ 2 6 5 2147483648),
    readX 8 0xC8A0000028007A8D (.qget64 ⟨true, 2⟩ 5 7 5 200),
    readX 12 0x8000000000A0000038007A8E (.qget96 ⟨true, 2⟩ 7 7 5 2147483648)].all id = true := by decide +kernel

/-- R41: OP 0x24-0x38. -/
theorem test_decode_system_words_1 : [
    readX 4 0x18000A90 (.fenceFull ⟨true, 2⟩ 3),
    readX 4 0x30000A90 (.fenceRelease ⟨true, 2⟩ 2),
    readX 4 0x48000A90 (.fenceAcquire ⟨true, 2⟩ 1),
    readX 4 0x00000A94 (.fencesc ⟨true, 2⟩),
    readX 4 0x00000AA4 (.done ⟨true, 2⟩),
    readX 4 0x00000AA8 (.yield ⟨true, 2⟩),
    readX 4 0x00000AC4 (.tret ⟨true, 2⟩),
    readX 8 0x00A00000000C7AA1 (.launch ⟨true, 2⟩ 7 6 5),
    readX 8 0x0000011500007AB1 (.csrr ⟨true, 2⟩ 7 0x115),
    readX 8 0x00000801000C7AB5 (.csrw ⟨true, 2⟩ 7 6 0x801),
    readX 8 0x00000801080C7AB5 (.csrwSet ⟨true, 2⟩ 7 6 0x801),
    readX 8 0x00000801100C7AB5 (.csrwClr ⟨true, 2⟩ 7 6 0x801),
    readX 4 0x3FC00AC0 (.trap ⟨true, 2⟩ 255),
    readX 4 0x000C7AD0 (.apcvtGlob ⟨true, 2⟩ 7 6),
    readX 4 0x080C7AD0 (.apcvtOwn ⟨true, 2⟩ 7 6),
    readX 4 0x000C7AD4 (.aptst ⟨true, 2⟩ 7 6)].all id = true := by decide +kernel

/-- R41: OP 0x24-0x38. -/
theorem test_decode_system_words_2 : [
    readX 8 0xC8A01FFF000C0AE1 (.txgo64 ⟨true, 2⟩ 6 8191 5 200),
    readX 12 0x8000000000A01FFF000C0AE2 (.txgo96 ⟨true, 2⟩ 6 8191 5 2147483648)].all id = true := by decide +kernel

/-- R44, R48: OP 0x00-0x09, in L or S. -/
theorem test_decode_stream_words : [
    readV .s 12 0x800000100000000000067A02 (.gopen ⟨⟨true, 2⟩, 7, 6, 0, 0, 0, 0, 0, false, 0, 0, 0, 0x80000010⟩),
    readV .l 12 0x0000FFFF0000000010007A02 (.gopenX ⟨⟨true, 2⟩, 7, 0, 0, 0, 1, 0, 0, false, 0, 0, 0, 0xffff⟩),
    readV .l 12 0x000000000000000000007A06 (.gclose ⟨⟨true, 2⟩, 7, 0, 0, 0, 0, 0, 0, false, 0, 0, 0, 0⟩),
    readV .s 12 0x000000000000000000000A26 (.shfence ⟨⟨true, 2⟩, 0, 0, 0, 0, 0, 0, 0, false, 0, 0, 0, 0⟩),
    readV .l 12 0x00000000000000000006FA0A (.gld ⟨⟨true, 2⟩, 15, 6, 0, 0, 0, 0, 0, false, 0, 0, 0, 0⟩),
    readV .l 12 0x000000000000000010063A0A (.gldOa ⟨⟨true, 2⟩, 3, 6, 0, 0, 1, 0, 0, false, 0, 0, 0, 0⟩),
    readV .l 12 0x000000000000000020062A0A (.gldOb ⟨⟨true, 2⟩, 2, 6, 0, 0, 2, 0, 0, false, 0, 0, 0, 0⟩),
    readV .l 12 0x00000000000000000006FA12 (.gldm ⟨⟨true, 2⟩, 15, 6, 0, 0, 0, 0, 0, false, 0, 0, 0, 0⟩),
    readV .s 12 0x0000000000000000000F6A0E (.gst ⟨⟨true, 2⟩, 6, 15, 0, 0, 0, 0, 0, false, 0, 0, 0, 0⟩),
    readV .s 12 0x000000000000000010036A0E (.gstAccumulator ⟨⟨true, 2⟩, 6, 3, 0, 0, 1, 0, 0, false, 0, 0, 0, 0⟩),
    readV .s 12 0x0000000000000000000F6A16 (.gstz ⟨⟨true, 2⟩, 6, 15, 0, 0, 0, 0, 0, false, 0, 0, 0, 0⟩),
    readV .s 12 0xFFFFFFFF0000000050006A1A (.gadv ⟨⟨true, 2⟩, 6, 0, 0, 0, 5, 0, 0, false, 0, 0, 0, 0xffffffff⟩),
    readV .l 12 0x000000000000000000056A1E (.gend ⟨⟨true, 2⟩, 6, 5, 0, 0, 0, 0, 0, false, 0, 0, 0, 0⟩),
    readV .l 12 0x00000000000000000606FA22 (.gldr ⟨⟨true, 2⟩, 15, 6, 0, 6, 0, 0, 0, false, 0, 0, 0, 0⟩)].all id = true := by decide +kernel

/-- R44, R48: OP 0x0A-0x14. -/
theorem test_decode_fibre_and_ring_words : [
    readV .l 12 0x000000400000000000063A2A (.fopen ⟨⟨true, 2⟩, 3, 6, 0, 0, 0, 0, 0, false, 0, 0, 0, 0x40⟩),
    readV .l 12 0x000000090000000000003A2E (.fadv ⟨⟨true, 2⟩, 3, 0, 0, 0, 0, 0, 0, false, 0, 0, 0, 9⟩),
    readV .l 12 0x000000000000000000036A32 (.fend ⟨⟨true, 2⟩, 6, 3, 0, 0, 0, 0, 0, false, 0, 0, 0, 0⟩),
    readV .l 12 0x000000000000000000003A36 (.fclose ⟨⟨true, 2⟩, 3, 0, 0, 0, 0, 0, 0, false, 0, 0, 0, 0⟩),
    readV .l 12 0x000000000000000000123A3A (.fisect ⟨⟨true, 2⟩, 3, 2, 1, 0, 0, 0, 0, false, 0, 0, 0, 0⟩),
    readV .l 12 0x00000000000000000003FA3E (.fldv ⟨⟨true, 2⟩, 15, 3, 0, 0, 0, 0, 0, false, 0, 0, 0, 0⟩),
    readV .l 12 0x00000000000000001003FA3E (.fldvCrd ⟨⟨true, 2⟩, 15, 3, 0, 0, 1, 0, 0, false, 0, 0, 0, 0⟩),
    readV .l 12 0x0000004D0000004000056A42 (.rwaitf ⟨⟨true, 2⟩, 6, 5, 0, 0, 0, 0, 4, false, 0, 0, 0, 0x4d⟩),
    readV .s 12 0x0000004D0000004000056A46 (.rwaite ⟨⟨true, 2⟩, 6, 5, 0, 0, 0, 0, 4, false, 0, 0, 0, 0x4d⟩),
    readV .s 12 0x000000000000000000056A4A (.rclaim ⟨⟨true, 2⟩, 6, 5, 0, 0, 0, 0, 0, false, 0, 0, 0, 0⟩),
    readV .s 12 0x000000000000000000050A4E (.rpub ⟨⟨true, 2⟩, 0, 5, 0, 0, 0, 0, 0, false, 0, 0, 0, 0⟩),
    readV .l 12 0x000000000000000000050A52 (.rrel ⟨⟨true, 2⟩, 0, 5, 0, 0, 0, 0, 0, false, 0, 0, 0, 0⟩)].all id = true := by decide +kernel

/-- R44, R48: OP 0x15-0x1B and 0x3F. -/
theorem test_decode_scalar_words_of_LCS : [
    readV .c 12 0x00000000000000C020006A56 (.vpm ⟨⟨true, 2⟩, 6, 0, 0, 0, 2, 0, 4, true, 0, 0, 0, 0⟩),
    readV .l 12 0x0000004D0000004030050A5A (.qputVw ⟨⟨true, 2⟩, 0, 5, 0, 0, 3, 0, 4, false, 0, 0, 0, 0x4d⟩),
    readV .c 12 0x0000004D0000004030006A5E (.qgetVw ⟨⟨true, 2⟩, 6, 0, 0, 0, 3, 0, 4, false, 0, 0, 0, 0x4d⟩),
    readV .s 12 0xFFFFFFFF0000000000450A62 (.semaddVw ⟨⟨true, 2⟩, 0, 5, 4, 0, 0, 0, 0, false, 0, 0, 0, 0xffffffff⟩),
    readV .c 12 0x0000004D0000004010450A66 (.semwaitVw ⟨⟨true, 2⟩, 0, 5, 4, 0, 1, 0, 4, false, 0, 0, 0, 0x4d⟩),
    readV .l 12 0x800000000000000000006A6A (.kli ⟨⟨true, 2⟩, 6, 0, 0, 0, 0, 0, 0, false, 0, 0, 0, 0x80000000⟩),
    readV .c 12 0x800000000000000000056A6E (.kadd ⟨⟨true, 2⟩, 6, 5, 0, 0, 0, 0, 0, false, 0, 0, 0, 0x80000000⟩),
    readV .s 12 0x0000001F0000000050050AFE (.loopn ⟨⟨true, 2⟩, 0, 5, 0, 0, 5, 0, 0, false, 0, 0, 0, 0x1f⟩)].all id = true := by decide +kernel

/-- R44-R48: OP 0x20-0x2D. -/
theorem test_decode_lane_arithmetic_words : [
    readV .c 12 0x00000000002190C000DEFA82 (.vadd ⟨⟨true, 2⟩, 15, 14, 13, 0, 0, 0, 4, true, 0x90, 0x21, 0, 0⟩),
    readV .c 12 0x00000000002190C200DEFA86 (.vsub ⟨⟨true, 2⟩, 15, 14, 13, 0, 0, 2, 4, true, 0x90, 0x21, 0, 0⟩),
    readV .c 12 0x00000000002190C300DEFA8A (.vmul ⟨⟨true, 2⟩, 15, 14, 13, 0, 0, 3, 4, true, 0x90, 0x21, 0, 0⟩),
    readV .c 12 0x00000000FF2190C30CDEFA8E (.vfma ⟨⟨true, 2⟩, 15, 14, 13, 12, 0, 3, 4, true, 0x90, 0x21, 0xff, 0⟩),
    readV .c 12 0x00000000002190C010DEFA92 (.vminmax ⟨⟨true, 2⟩, 15, 14, 13, 0, 1, 0, 4, true, 0x90, 0x21, 0, 0⟩),
    readV .c 12 0x00000000002190C020DEFA96 (.vsgn ⟨⟨true, 2⟩, 15, 14, 13, 0, 2, 0, 4, true, 0x90, 0x21, 0, 0⟩),
    readV .c 12 0x00000000002190C110DEFA9A (.viadd ⟨⟨true, 2⟩, 15, 14, 13, 0, 1, 1, 4, true, 0x90, 0x21, 0, 0⟩),
    readV .c 12 0x00000000002190C110DEFA9E (.visub ⟨⟨true, 2⟩, 15, 14, 13, 0, 1, 1, 4, true, 0x90, 0x21, 0, 0⟩),
    readV .c 12 0x00000000002190C120DEFAA2 (.vimul ⟨⟨true, 2⟩, 15, 14, 13, 0, 2, 1, 4, true, 0x90, 0x21, 0, 0⟩),
    readV .c 12 0x00000000002190C130DEFAAE (.viminmax ⟨⟨true, 2⟩, 15, 14, 13, 0, 3, 1, 4, true, 0x90, 0x21, 0, 0⟩),
    readV .c 12 0x00000000000010C1400EFAA6 (.vlogic ⟨⟨true, 2⟩, 15, 14, 0, 0, 4, 1, 4, true, 0x10, 0, 0, 0⟩),
    readV .c 12 0x00000000002110C120DEFAAA (.vshift ⟨⟨true, 2⟩, 15, 14, 13, 0, 2, 1, 4, true, 0x10, 0x21, 0, 0⟩),
    readV .c 12 0x00000000002190C145DE6AB2 (.vcmp ⟨⟨true, 2⟩, 6, 14, 13, 5, 4, 1, 4, true, 0x90, 0x21, 0, 0⟩),
    readV .c 12 0x00000000002190C305DEFAB6 (.vsel ⟨⟨true, 2⟩, 15, 14, 13, 5, 0, 3, 4, true, 0x90, 0x21, 0, 0⟩),
    readV .c 12 0x00000000FF2190C10CDEFAF6 (.vclamp ⟨⟨true, 2⟩, 15, 14, 13, 12, 0, 1, 4, true, 0x90, 0x21, 0xff, 0⟩)].all id = true := by decide +kernel

/-- R44-R48: OP 0x2E-0x3E. -/
theorem test_decode_lane_conversion_and_movement_words_1 : [
    readV .c 12 0x12345678000090C0A10EFABA (.vcvt ⟨⟨true, 2⟩, 15, 14, 0, 1, 10, 0, 4, true, 0x90, 0, 0, 0x12345678⟩),
    readV .c 12 0x12345678000090C2F10EEABE (.vqnt ⟨⟨true, 2⟩, 14, 14, 0, 1, 15, 2, 4, true, 0x90, 0, 0, 0x12345678⟩),
    readV .c 12 0x00000000000090C3A00EFAC2 (.vsf ⟨⟨true, 2⟩, 15, 14, 0, 0, 10, 3, 4, true, 0x90, 0, 0, 0⟩),
    readV .c 12 0x0000000F000021C0000EFAC6 (.vbcr ⟨⟨true, 2⟩, 15, 14, 0, 0, 0, 0, 4, true, 0x21, 0, 0, 15⟩),
    readV .c 12 0x0000003F000021C0000EFACA (.vbcc ⟨⟨true, 2⟩, 15, 14, 0, 0, 0, 0, 4, true, 0x21, 0, 0, 0x3f⟩),
    readV .c 12 0x0000000F000021C0000EFACE (.vrotr ⟨⟨true, 2⟩, 15, 14, 0, 0, 0, 0, 4, true, 0x21, 0, 0, 15⟩),
    readV .c 12 0x0000003F000021C0000EFAD2 (.vrotc ⟨⟨true, 2⟩, 15, 14, 0, 0, 0, 0, 4, true, 0x21, 0, 0, 0x3f⟩),
    readV .c 12 0x00000000000021C1500EFAD6 (.vredr ⟨⟨true, 2⟩, 15, 14, 0, 0, 5, 1, 4, true, 0x21, 0, 0, 0⟩),
    readV .c 12 0x000000000000A1C3200EFADA (.vredc ⟨⟨true, 2⟩, 15, 14, 0, 0, 2, 3, 4, true, 0xa1, 0, 0, 0⟩),
    readV .c 12 0x00000000000021C1250EFADE (.vsegr ⟨⟨true, 2⟩, 15, 14, 0, 5, 2, 1, 4, true, 0x21, 0, 0, 0⟩),
    readV .c 12 0x000000000000A1C0300EFAE2 (.vscanr ⟨⟨true, 2⟩, 15, 14, 0, 0, 3, 0, 4, true, 0xa1, 0, 0, 0⟩),
    readV .c 12 0x00000000003121C010DEFAE6 (.vperm ⟨⟨true, 2⟩, 15, 14, 13, 0, 1, 0, 4, true, 0x21, 0x31, 0, 0⟩),
    readV .c 12 0x00000000000000C03006FAEA (.vmov ⟨⟨true, 2⟩, 15, 6, 0, 0, 3, 0, 4, true, 0, 0, 0, 0⟩),
    readV .c 12 0x7FC00000000000C01000FAEE (.vli ⟨⟨true, 2⟩, 15, 0, 0, 0, 1, 0, 4, true, 0, 0, 0, 0x7fc00000⟩),
    readV .c 12 0x00000009003100C027D6FAF2 (.vrng ⟨⟨true, 2⟩, 15, 6, 13, 7, 2, 0, 4, true, 0, 0x31, 0, 9⟩),
    readV .c 12 0x0000001F413121C40CEE3AFA (.upd ⟨⟨true, 2⟩, 3, 14, 14, 12, 0, 4, 4, true, 0x21, 0x31, 0x41, 0x1f⟩)].all id = true := by decide +kernel

/-- R44-R48: OP 0x2E-0x3E. -/
theorem test_decode_lane_conversion_and_movement_words_2 : [
    readV .c 12 0x000000000000000010003AFA (.updf ⟨⟨true, 2⟩, 3, 0, 0, 0, 1, 0, 0, false, 0, 0, 0, 0⟩)].all id = true := by decide +kernel

/-- R50-R54. -/
theorem test_decode_matrix_words : [
    readV .c 24 0x0000000000000000000000000000000000000027FC006A03 (.mma ⟨⟨true, 2⟩, 2, 1, 0, 0, 0, 63, 0x27⟩),
    readV .c 24 0x000000000000000000000000000000400000020005513A03 (.mmaD ⟨⟨true, 2⟩, 3, 0, 1, 4, 5, 1, 0x4000000200⟩),
    readV .c 24 0x000000000000000000000000000000000000000D14009A07 (.mmas ⟨⟨true, 2⟩, 1, 2, 0, 0, 0, 5, 0xd⟩),
    readV .c 24 0x00000000000000000000000000000000000000000000CA0B (.mzero ⟨⟨true, 2⟩, 0, 3, 0, 0, 0, 0, 0x0⟩),
    readV .c 24 0x000000000000000000000000000000000000000C00003A0F (.maccr ⟨⟨true, 2⟩, 3, 0, 0, 0, 0, 0, 0xc⟩),
    readV .c 24 0x000000000000000000000000000000000000000B00003A13 (.maccw ⟨⟨true, 2⟩, 3, 0, 0, 0, 0, 0, 0xb⟩),
    readV .c 24 0x000000000000000000000000000000000000000F00005A17 (.mscale ⟨⟨true, 2⟩, 1, 1, 0, 0, 0, 0, 0xf⟩),
    readV .c 24 0x000000000000000000000000000000058000000100005A1B (.mwait ⟨⟨true, 2⟩, 1, 1, 0, 0, 0, 0, 0x580000001⟩)].all id = true := by decide +kernel

/-- R56-R58: OP 0x00-0x08, 0x14. -/
theorem test_decode_moving_commands : [
    readT 8 0x0000C000BF86F780 (.copy ⟨15, 14, 13, 0, 0x3f, true, 2, 0, 0, 0, 3, 0, 0⟩),
    readT 8 0x0000C0AABFE6F782 (.xpose ⟨15, 14, 13, 12, 0x3f, true, 2, 10, 10, 0, 3, 0, 0⟩),
    readT 8 0x0000C1FABF86F784 (.conv ⟨15, 14, 13, 0, 0x3f, true, 2, 10, 15, 1, 3, 0, 0⟩),
    readT 8 0x0000C299BF86F784 (.convZp ⟨15, 14, 13, 0, 0x3f, true, 2, 9, 9, 2, 3, 0, 0⟩),
    readT 8 0x0000C499BF86F784 (.convFib ⟨15, 14, 13, 0, 0x3f, true, 2, 9, 9, 4, 3, 0, 0⟩),
    readT 8 0x0000C022BF86F786 (.decomp ⟨15, 14, 13, 0, 0x3f, true, 2, 2, 2, 0, 3, 0, 0⟩),
    readT 8 0x0000C0BFBF86F7A8 (.req ⟨15, 14, 13, 0, 0x3f, true, 2, 15, 11, 0, 3, 0, 0⟩),
    readT 8 0x0000C000BFE6F788 (.gather ⟨15, 14, 13, 12, 0x3f, true, 2, 0, 0, 0, 3, 0, 0⟩),
    readT 8 0x0000C000BFE6F78A (.scatter ⟨15, 14, 13, 12, 0x3f, true, 2, 0, 0, 0, 3, 0, 0⟩),
    readT 8 0x0000C000BFE6F78C (.iread ⟨15, 14, 13, 12, 0x3f, true, 2, 0, 0, 0, 3, 0, 0⟩),
    readT 8 0x0040C000BFE6F00E (.mcast ⟨0, 14, 13, 12, 0x3f, true, 2, 0, 0, 0, 3, 0x40, 0⟩),
    readT 8 0x0010C700BFE68790 (.reduce ⟨15, 0, 13, 12, 0x3f, true, 2, 0, 0, 7, 3, 0x10, 0⟩)].all id = true := by decide +kernel

/-- R56-R58: OP 0x09-0x1A. -/
theorem test_decode_modifying_and_synchronising_commands : [
    readT 8 0x0000C700BF86F792 (.accw ⟨15, 14, 13, 0, 0x3f, true, 2, 0, 0, 7, 3, 0, 0⟩),
    readT 8 0x0000C600BFE6F794 (.atom ⟨15, 14, 13, 12, 0x3f, true, 2, 0, 0, 6, 3, 0, 0⟩),
    readT 8 0xFFFFC000BF800796 (.signal ⟨15, 0, 0, 0, 0x3f, true, 2, 0, 0, 0, 3, 0xffff, 0⟩),
    readT 16 0x000000070000FFFF0000C100BF800799 (.semwt ⟨15, 0, 0, 0, 0x3f, true, 2, 0, 0, 1, 3, 0, 0x70000ffff⟩),
    readT 16 0x00000007000000000000C000BFE6F01B (.rfill ⟨0, 14, 13, 12, 0x3f, true, 2, 0, 0, 0, 3, 0, 0x700000000⟩),
    readT 16 0x00000007000000000000C000BFE6879D (.rdrain ⟨15, 0, 13, 12, 0x3f, true, 2, 0, 0, 0, 3, 0, 0x700000000⟩),
    readT 8 0x0000C000BF80001E (.tagset ⟨0, 0, 0, 0, 0x3f, true, 2, 0, 0, 0, 3, 0, 0⟩),
    readT 8 0x0000800000000030 (.trel ⟨0, 0, 0, 0, 0, false, 0, 0, 0, 0, 2, 0, 0⟩),
    readT 8 0x0000800000000032 (.tacq ⟨0, 0, 0, 0, 0, false, 0, 0, 0, 0, 2, 0, 0⟩),
    readT 8 0x0000800000000034 (.tfence ⟨0, 0, 0, 0, 0, false, 0, 0, 0, 0, 2, 0, 0⟩),
    readT 8 0x000000003F807020 (.follow ⟨0, 14, 0, 0, 0x3f, true, 0, 0, 0, 0, 0, 0, 0⟩),
    readT 8 0x000001003F86F022 (.pref ⟨0, 14, 13, 0, 0x3f, true, 0, 0, 0, 1, 0, 0, 0⟩),
    readT 8 0x000002003F86F02C (.migh ⟨0, 14, 13, 0, 0x3f, true, 0, 0, 0, 2, 0, 0, 0⟩),
    readT 8 0x0000C000BF8007A4 (.udrain ⟨15, 0, 0, 0, 0x3f, true, 2, 0, 0, 0, 3, 0, 0⟩),
    readT 8 0x000000003F8077AA (.urgn ⟨15, 14, 0, 0, 0x3f, true, 0, 0, 0, 0, 0, 0, 0⟩),
    readT 8 0x0000E100BFE6F7A6 (.coll ⟨15, 14, 13, 12, 0x3f, true, 2, 0, 0, 0x21, 3, 0, 0⟩)].all id = true := by decide +kernel

/-- R56-R58: OP 0x20-0x26. -/
theorem test_decode_control_words_of_contexts : [
    readT 8 0xFFFE020000000040 (.tbr64 ⟨0, 0, 0, 0, 0, false, 0, 0, 0, 2, 0, 0xfffe, 0⟩),
    readT 16 0xFFFFFFFFFFFFFFFE0000010000000041 (.tbr128 ⟨0, 0, 0, 0, 0, false, 0, 0, 0, 1, 0, 0, 0xfffffffffffffffe⟩),
    readT 8 0xFFFE0000000003C2 (.tloop64 ⟨7, 0, 0, 0, 0, false, 0, 0, 0, 0, 0, 0xfffe, 0⟩),
    readT 16 0xFFFFFFFFFFFFFFFE00000000000003C3 (.tloop128 ⟨7, 0, 0, 0, 0, false, 0, 0, 0, 0, 0, 0, 0xfffffffffffffffe⟩),
    readT 8 0x80000000000007C4 (.tli64 ⟨15, 0, 0, 0, 0, false, 0, 0, 0, 0, 0, 0x8000, 0⟩),
    readT 16 0x0123456789ABCDEF00000000000007C5 (.tli128 ⟨15, 0, 0, 0, 0, false, 0, 0, 0, 0, 0, 0, 0x123456789abcdef⟩),
    readT 8 0x0000050000607046 (.tcmp ⟨0, 14, 0, 12, 0, false, 0, 0, 0, 5, 0, 0, 0⟩),
    readT 8 0xFFF80000000077CA (.tldr ⟨15, 14, 0, 0, 0, false, 0, 0, 0, 0, 0, 0xfff8, 0⟩),
    readT 8 0xFFF80000000077CC (.tstr ⟨15, 14, 0, 0, 0, false, 0, 0, 0, 0, 0, 0xfff8, 0⟩),
    readT 8 0x0000000000000048 (.tend)].all id = true := by decide +kernel

/-- R56-R58: OP 0x28-0x2E, register and immediate forms. -/
theorem test_decode_register_words_of_contexts : [
    readT 8 0x00000000006077D0 (.tadd64 ⟨15, 14, 0, 12, 0, false, 0, 0, 0, 0, 0, 0, 0⟩),
    readT 16 0x800000000000000100000100000077D1 (.tadd128 ⟨15, 14, 0, 0, 0, false, 0, 0, 0, 1, 0, 0, 0x8000000000000001⟩),
    readT 8 0x00000000006077D2 (.tsub64 ⟨15, 14, 0, 12, 0, false, 0, 0, 0, 0, 0, 0, 0⟩),
    readT 16 0x800000000000000100000100000077D3 (.tsub128 ⟨15, 14, 0, 0, 0, false, 0, 0, 0, 1, 0, 0, 0x8000000000000001⟩),
    readT 8 0x00000000006077D4 (.tmul64 ⟨15, 14, 0, 12, 0, false, 0, 0, 0, 0, 0, 0, 0⟩),
    readT 16 0x800000000000000100000100000077D5 (.tmul128 ⟨15, 14, 0, 0, 0, false, 0, 0, 0, 1, 0, 0, 0x8000000000000001⟩),
    readT 8 0x00000000006077D6 (.tand64 ⟨15, 14, 0, 12, 0, false, 0, 0, 0, 0, 0, 0, 0⟩),
    readT 16 0x800000000000000100000100000077D7 (.tand128 ⟨15, 14, 0, 0, 0, false, 0, 0, 0, 1, 0, 0, 0x8000000000000001⟩),
    readT 8 0x00000000006077D8 (.tor64 ⟨15, 14, 0, 12, 0, false, 0, 0, 0, 0, 0, 0, 0⟩),
    readT 16 0x800000000000000100000100000077D9 (.tor128 ⟨15, 14, 0, 0, 0, false, 0, 0, 0, 1, 0, 0, 0x8000000000000001⟩),
    readT 8 0x00000000006077DA (.tshl64 ⟨15, 14, 0, 12, 0, false, 0, 0, 0, 0, 0, 0, 0⟩),
    readT 16 0x800000000000000100000100000077DB (.tshl128 ⟨15, 14, 0, 0, 0, false, 0, 0, 0, 1, 0, 0, 0x8000000000000001⟩),
    readT 8 0x00000000006077DC (.tshr64 ⟨15, 14, 0, 12, 0, false, 0, 0, 0, 0, 0, 0, 0⟩),
    readT 16 0x800000000000000100000100000077DD (.tshr128 ⟨15, 14, 0, 0, 0, false, 0, 0, 0, 1, 0, 0, 0x8000000000000001⟩)].all id = true := by decide +kernel
/-! ## Well-formedness: an ill-formed term for every check (R41-R60) -/

/-- The operand fields with one of them made 1 more than it was. -/
def pokeV (w : VArgs) : VField → VArgs
  | .d => { w with d := w.d + 1 }
  | .a => { w with a := w.a + 1 }
  | .b => { w with b := w.b + 1 }
  | .c => { w with c := w.c + 1 }
  | .fn => { w with fn := w.fn + 1 }
  | .fmt => { w with fmt := w.fmt + 1 }
  | .msel => { w with msel := w.msel + 1 }
  | .ms => { w with ms := !w.ms }
  | .sa => { w with sa := w.sa + 1 }
  | .sb => { w with sb := w.sb + 1 }
  | .sc => { w with sc := w.sc + 1 }
  | .imm => { w with imm := w.imm + 1 }

/-- The word is well formed, and no longer so when any of the listed fields, which R48 does not name for it, is set. -/
def barredV (i : VArgs → Instr) (w : VArgs) (fs : List VField) : Bool :=
  (i w).wf && fs.all fun f => !(i (pokeV w f)).wf

/-- R48, R49: a field that a row does not name must be zero. -/
theorem test_wf_vector_fields_1 : [
    barredV .gopen ⟨⟨false, 7⟩, 0, 0, 0, 0, 0, 0, 0, false, 0, 0, 0, 0⟩ [.b, .c, .fn, .fmt, .msel, .ms, .sa, .sb, .sc],
    barredV .gopenX ⟨⟨false, 7⟩, 0, 0, 0, 0, 1, 0, 0, false, 0, 0, 0, 0⟩ [.a, .b, .c, .fmt, .msel, .ms, .sa, .sb, .sc],
    barredV .gclose ⟨⟨false, 7⟩, 0, 0, 0, 0, 0, 0, 0, false, 0, 0, 0, 0⟩ [.a, .b, .c, .fn, .fmt, .msel, .ms, .sa, .sb, .sc, .imm],
    barredV .shfence ⟨⟨false, 7⟩, 0, 0, 0, 0, 0, 0, 0, false, 0, 0, 0, 0⟩ [.d, .a, .b, .c, .fn, .fmt, .msel, .ms, .sa, .sb, .sc, .imm],
    barredV .gld ⟨⟨false, 7⟩, 0, 0, 0, 0, 0, 0, 0, false, 0, 0, 0, 0⟩ [.b, .c, .fn, .fmt, .msel, .ms, .sa, .sb, .sc, .imm],
    barredV .gldOa ⟨⟨false, 7⟩, 0, 0, 0, 0, 1, 0, 0, false, 0, 0, 0, 0⟩ [.b, .c, .fmt, .msel, .ms, .sa, .sb, .sc, .imm],
    barredV .gldOb ⟨⟨false, 7⟩, 0, 0, 0, 0, 2, 0, 0, false, 0, 0, 0, 0⟩ [.b, .c, .fmt, .msel, .ms, .sa, .sb, .sc, .imm],
    barredV .gldm ⟨⟨false, 7⟩, 0, 0, 0, 0, 0, 0, 0, false, 0, 0, 0, 0⟩ [.b, .c, .fn, .fmt, .msel, .ms, .sa, .sb, .sc, .imm],
    barredV .gst ⟨⟨false, 7⟩, 0, 0, 0, 0, 0, 0, 0, false, 0, 0, 0, 0⟩ [.b, .c, .fn, .fmt, .msel, .ms, .sa, .sb, .sc, .imm],
    barredV .gstAccumulator ⟨⟨false, 7⟩, 0, 0, 0, 0, 1, 0, 0, false, 0, 0, 0, 0⟩ [.b, .c, .fmt, .msel, .ms, .sa, .sb, .sc, .imm],
    barredV .gstz ⟨⟨false, 7⟩, 0, 0, 0, 0, 0, 0, 0, false, 0, 0, 0, 0⟩ [.b, .c, .fn, .fmt, .msel, .ms, .sa, .sb, .sc, .imm],
    barredV .gadv ⟨⟨false, 7⟩, 0, 0, 0, 0, 0, 0, 0, false, 0, 0, 0, 0⟩ [.a, .b, .c, .fmt, .msel, .ms, .sa, .sb, .sc],
    barredV .gend ⟨⟨false, 7⟩, 0, 0, 0, 0, 0, 0, 0, false, 0, 0, 0, 0⟩ [.b, .c, .fn, .fmt, .msel, .ms, .sa, .sb, .sc, .imm],
    barredV .gldr ⟨⟨false, 7⟩, 0, 0, 0, 0, 0, 0, 0, false, 0, 0, 0, 0⟩ [.b, .fn, .fmt, .msel, .ms, .sa, .sb, .sc, .imm],
    barredV .fopen ⟨⟨false, 7⟩, 0, 0, 0, 0, 0, 0, 0, false, 0, 0, 0, 0⟩ [.b, .c, .fn, .fmt, .msel, .ms, .sa, .sb, .sc],
    barredV .fadv ⟨⟨false, 7⟩, 0, 0, 0, 0, 0, 0, 0, false, 0, 0, 0, 0⟩ [.a, .b, .c, .fn, .fmt, .msel, .ms, .sa, .sb, .sc],
    barredV .fend ⟨⟨false, 7⟩, 0, 0, 0, 0, 0, 0, 0, false, 0, 0, 0, 0⟩ [.b, .c, .fn, .fmt, .msel, .ms, .sa, .sb, .sc, .imm],
    barredV .fclose ⟨⟨false, 7⟩, 0, 0, 0, 0, 0, 0, 0, false, 0, 0, 0, 0⟩ [.a, .b, .c, .fn, .fmt, .msel, .ms, .sa, .sb, .sc, .imm],
    barredV .fisect ⟨⟨false, 7⟩, 0, 0, 0, 0, 0, 0, 0, false, 0, 0, 0, 0⟩ [.c, .fn, .fmt, .msel, .ms, .sa, .sb, .sc, .imm],
    barredV .fldv ⟨⟨false, 7⟩, 0, 0, 0, 0, 0, 0, 0, false, 0, 0, 0, 0⟩ [.b, .c, .fn, .fmt, .msel, .ms, .sa, .sb, .sc, .imm],
    barredV .fldvCrd ⟨⟨false, 7⟩, 0, 0, 0, 0, 1, 0, 0, false, 0, 0, 0, 0⟩ [.b, .c, .fmt, .msel, .ms, .sa, .sb, .sc, .imm],
    barredV .rwaitf ⟨⟨false, 7⟩, 0, 0, 0, 0, 0, 0, 0, false, 0, 0, 0, 0⟩ [.b, .c, .fn, .fmt, .ms, .sa, .sb, .sc]].all id = true := by decide +kernel

/-- R48, R49: a field that a row does not name must be zero. -/
theorem test_wf_vector_fields_2 : [
    barredV .rwaite ⟨⟨false, 7⟩, 0, 0, 0, 0, 0, 0, 0, false, 0, 0, 0, 0⟩ [.b, .c, .fn, .fmt, .ms, .sa, .sb, .sc],
    barredV .rclaim ⟨⟨false, 7⟩, 0, 0, 0, 0, 0, 0, 0, false, 0, 0, 0, 0⟩ [.b, .c, .fn, .fmt, .msel, .ms, .sa, .sb, .sc, .imm],
    barredV .rpub ⟨⟨false, 7⟩, 0, 0, 0, 0, 0, 0, 0, false, 0, 0, 0, 0⟩ [.d, .b, .c, .fn, .fmt, .msel, .ms, .sa, .sb, .sc, .imm],
    barredV .rrel ⟨⟨false, 7⟩, 0, 0, 0, 0, 0, 0, 0, false, 0, 0, 0, 0⟩ [.d, .b, .c, .fn, .fmt, .msel, .ms, .sa, .sb, .sc, .imm],
    barredV .vpm ⟨⟨false, 7⟩, 0, 0, 0, 0, 0, 0, 0, false, 0, 0, 0, 0⟩ [.a, .b, .c, .fmt, .sa, .sb, .sc, .imm],
    barredV .qputVw ⟨⟨false, 7⟩, 0, 0, 0, 0, 0, 0, 0, false, 0, 0, 0, 0⟩ [.d, .b, .c, .fmt, .ms, .sa, .sb, .sc],
    barredV .qgetVw ⟨⟨false, 7⟩, 0, 0, 0, 0, 0, 0, 0, false, 0, 0, 0, 0⟩ [.a, .b, .c, .fmt, .ms, .sa, .sb, .sc],
    barredV .semaddVw ⟨⟨false, 7⟩, 0, 0, 0, 0, 0, 0, 0, false, 0, 0, 0, 0⟩ [.d, .c, .fn, .fmt, .msel, .ms, .sa, .sb, .sc],
    barredV .semwaitVw ⟨⟨false, 7⟩, 0, 0, 0, 0, 0, 0, 0, false, 0, 0, 0, 0⟩ [.d, .c, .fmt, .ms, .sa, .sb, .sc],
    barredV .kli ⟨⟨false, 7⟩, 0, 0, 0, 0, 0, 0, 0, false, 0, 0, 0, 0⟩ [.a, .b, .c, .fn, .fmt, .msel, .ms, .sa, .sb, .sc],
    barredV .kadd ⟨⟨false, 7⟩, 0, 0, 0, 0, 0, 0, 0, false, 0, 0, 0, 0⟩ [.b, .c, .fn, .fmt, .msel, .ms, .sa, .sb, .sc],
    barredV .loopn ⟨⟨false, 7⟩, 0, 0, 0, 0, 0, 0, 0, false, 0, 0, 0, 0⟩ [.d, .b, .c, .fmt, .msel, .ms, .sa, .sb, .sc],
    barredV .vadd ⟨⟨false, 7⟩, 0, 0, 0, 0, 0, 0, 0, false, 0, 0, 0, 0⟩ [.c, .fn, .sc, .imm],
    barredV .vsub ⟨⟨false, 7⟩, 0, 0, 0, 0, 0, 0, 0, false, 0, 0, 0, 0⟩ [.c, .fn, .sc, .imm],
    barredV .vmul ⟨⟨false, 7⟩, 0, 0, 0, 0, 0, 0, 0, false, 0, 0, 0, 0⟩ [.c, .fn, .sc, .imm],
    barredV .vfma ⟨⟨false, 7⟩, 0, 0, 0, 0, 0, 0, 0, false, 0, 0, 0, 0⟩ [.fn, .imm],
    barredV .vminmax ⟨⟨false, 7⟩, 0, 0, 0, 0, 0, 0, 0, false, 0, 0, 0, 0⟩ [.c, .sc, .imm],
    barredV .vsgn ⟨⟨false, 7⟩, 0, 0, 0, 0, 2, 0, 0, false, 0, 0, 0, 0⟩ [.c, .sc, .imm],
    barredV .vclamp ⟨⟨false, 7⟩, 0, 0, 0, 0, 0, 0, 0, false, 0, 0, 0, 0⟩ [.fn, .imm],
    barredV .viadd ⟨⟨false, 7⟩, 0, 0, 0, 0, 0, 1, 0, false, 0, 0, 0, 0⟩ [.c, .sc, .imm],
    barredV .visub ⟨⟨false, 7⟩, 0, 0, 0, 0, 0, 1, 0, false, 0, 0, 0, 0⟩ [.c, .sc, .imm],
    barredV .vimul ⟨⟨false, 7⟩, 0, 0, 0, 0, 0, 1, 0, false, 0, 0, 0, 0⟩ [.c, .sc, .imm]].all id = true := by decide +kernel

/-- R48, R49: a field that a row does not name must be zero. -/
theorem test_wf_vector_fields_3 : [
    barredV .vlogic ⟨⟨false, 7⟩, 0, 0, 0, 0, 0, 1, 0, false, 0, 0, 0, 0⟩ [.c, .sc, .imm],
    barredV .vshift ⟨⟨false, 7⟩, 0, 0, 0, 0, 0, 1, 0, false, 0, 0, 0, 0⟩ [.c, .sc, .imm],
    barredV .viminmax ⟨⟨false, 7⟩, 0, 0, 0, 0, 0, 1, 0, false, 0, 0, 0, 0⟩ [.c, .sc, .imm],
    barredV .vcmp ⟨⟨false, 7⟩, 1, 0, 0, 0, 0, 0, 0, false, 0, 0, 0, 0⟩ [.sc, .imm],
    barredV .vsel ⟨⟨false, 7⟩, 0, 0, 0, 0, 0, 0, 0, false, 0, 0, 0, 0⟩ [.fn, .sc, .imm],
    barredV .vcvt ⟨⟨false, 7⟩, 0, 0, 0, 0, 0, 0, 0, false, 0, 0, 0, 0⟩ [.b, .sb, .sc],
    barredV .vqnt ⟨⟨false, 7⟩, 0, 0, 0, 0, 11, 0, 0, false, 0, 0, 0, 0⟩ [.b, .sb, .sc],
    barredV .vsf ⟨⟨false, 7⟩, 0, 0, 0, 0, 0, 0, 0, false, 0, 0, 0, 0⟩ [.b, .c, .sb, .sc, .imm],
    barredV .vbcr ⟨⟨false, 7⟩, 0, 0, 0, 0, 0, 0, 0, false, 0, 0, 0, 0⟩ [.b, .c, .fn, .fmt, .sb, .sc],
    barredV .vbcc ⟨⟨false, 7⟩, 0, 0, 0, 0, 0, 0, 0, false, 0, 0, 0, 0⟩ [.b, .c, .fn, .fmt, .sb, .sc],
    barredV .vrotr ⟨⟨false, 7⟩, 0, 0, 0, 0, 0, 0, 0, false, 0, 0, 0, 0⟩ [.b, .c, .fn, .fmt, .sb, .sc],
    barredV .vrotc ⟨⟨false, 7⟩, 0, 0, 0, 0, 0, 0, 0, false, 0, 0, 0, 0⟩ [.b, .c, .fn, .fmt, .sb, .sc],
    barredV .vperm ⟨⟨false, 7⟩, 0, 0, 0, 0, 0, 0, 0, false, 0, 0, 0, 0⟩ [.c, .fmt, .sc, .imm],
    barredV .vmov ⟨⟨false, 7⟩, 0, 0, 0, 0, 0, 0, 0, false, 0, 0, 0, 0⟩ [.b, .c, .fmt, .sb, .sc, .imm],
    barredV .vli ⟨⟨false, 7⟩, 0, 0, 0, 0, 0, 0, 0, false, 0, 0, 0, 0⟩ [.a, .b, .c, .fmt, .sa, .sb, .sc],
    barredV .vredr ⟨⟨false, 7⟩, 0, 0, 0, 0, 0, 0, 0, false, 0, 0, 0, 0⟩ [.b, .c, .sb, .sc, .imm],
    barredV .vredc ⟨⟨false, 7⟩, 0, 0, 0, 0, 0, 0, 0, false, 0, 0, 0, 0⟩ [.b, .c, .sb, .sc, .imm],
    barredV .vsegr ⟨⟨false, 7⟩, 0, 0, 0, 0, 0, 0, 0, false, 0, 0, 0, 0⟩ [.b, .sb, .sc, .imm],
    barredV .vscanr ⟨⟨false, 7⟩, 0, 0, 0, 0, 0, 0, 0, false, 0, 0, 0, 0⟩ [.b, .c, .sb, .sc, .imm],
    barredV .vrng ⟨⟨false, 7⟩, 0, 0, 0, 0, 0, 0, 0, false, 0, 0, 0, 0⟩ [.fmt, .sa, .sc],
    barredV .upd ⟨⟨false, 7⟩, 0, 0, 0, 0, 0, 0, 0, false, 0, 0, 0, 0⟩ [.fn],
    barredV .updf ⟨⟨false, 7⟩, 0, 0, 0, 0, 1, 0, 0, false, 0, 0, 0, 0⟩ [.a, .b, .c, .fmt, .msel, .ms, .sa, .sb, .sc, .imm]].all id = true := by decide +kernel

/-- R41, R42, R60: values outside the listed ranges. -/
theorem test_wf_scalar_words_1 : [
    Instr.sllImm64 ⟨false, 7⟩ 1 2 64,
    Instr.sllImm96 ⟨false, 7⟩ 1 2 64,
    Instr.srlImm64 ⟨false, 7⟩ 1 2 64,
    Instr.srlImm96 ⟨false, 7⟩ 1 2 64,
    Instr.sraImm64 ⟨false, 7⟩ 1 2 64,
    Instr.sraImm96 ⟨false, 7⟩ 1 2 64,
    Instr.bfx ⟨false, 7⟩ 1 2 3 0,
    Instr.bfx ⟨false, 7⟩ 1 2 3 62,
    Instr.bfxs ⟨false, 7⟩ 1 2 0 65,
    Instr.bfi ⟨false, 7⟩ 1 2 63 2,
    Instr.cmp ⟨false, 7⟩ 6 0 1 2 3 4 false 0,
    Instr.cmp ⟨false, 7⟩ 0 3 1 2 3 4 false 0,
    Instr.cmp ⟨false, 7⟩ 0 0 2 2 3 4 false 0,
    Instr.cmp ⟨false, 7⟩ 0 0 1 2 3 4 false 5,
    Instr.cmp ⟨false, 7⟩ 0 0 1 2 3 4 true 5,
    Instr.fcmp ⟨false, 7⟩ 4 0 0 1 2 3 4,
    Instr.fcmp ⟨false, 7⟩ 0 3 0 1 2 3 4,
    Instr.fcmp ⟨false, 7⟩ 0 0 0 6 6 3 4,
    Instr.lds ⟨false, 7⟩ 1 2 3 true 0,
    Instr.qput64 ⟨false, 7⟩ 3 1 7 0,
    Instr.qput96 ⟨false, 7⟩ 4 1 7 0,
    Instr.qget64 ⟨false, 7⟩ 4 1 7 0,
    Instr.qget96 ⟨false, 7⟩ 2 1 7 0,
    Instr.csrr ⟨false, 7⟩ 1 0x000].all (fun i => !i.wf) = true := by decide +kernel

/-- R41, R42, R60: values outside the listed ranges. -/
theorem test_wf_scalar_words_2 : [
    Instr.csrw ⟨false, 7⟩ 1 2 0x200,
    Instr.csrwSet ⟨false, 7⟩ 1 2 0x802,
    Instr.csrwClr ⟨false, 7⟩ 1 2 0x116].all (fun i => !i.wf) = true := by decide +kernel

/-- R44, R48: a register number or an FN that the row does not admit. -/
theorem test_wf_stream_and_fibre_words_1 : [
    Instr.gopen ⟨⟨false, 7⟩, 8, 0, 0, 0, 0, 0, 0, false, 0, 0, 0, 0⟩,
    Instr.gclose ⟨⟨false, 7⟩, 8, 0, 0, 0, 0, 0, 0, false, 0, 0, 0, 0⟩,
    Instr.gst ⟨⟨false, 7⟩, 8, 0, 0, 0, 0, 0, 0, false, 0, 0, 0, 0⟩,
    Instr.gstz ⟨⟨false, 7⟩, 8, 0, 0, 0, 0, 0, 0, false, 0, 0, 0, 0⟩,
    Instr.gadv ⟨⟨false, 7⟩, 8, 0, 0, 0, 0, 0, 0, false, 0, 0, 0, 0⟩,
    Instr.gend ⟨⟨false, 7⟩, 8, 0, 0, 0, 0, 0, 0, false, 0, 0, 0, 0⟩,
    Instr.gopen ⟨⟨false, 7⟩, 0, 8, 0, 0, 0, 0, 0, false, 0, 0, 0, 0⟩,
    Instr.gld ⟨⟨false, 7⟩, 0, 8, 0, 0, 0, 0, 0, false, 0, 0, 0, 0⟩,
    Instr.gldm ⟨⟨false, 7⟩, 0, 8, 0, 0, 0, 0, 0, false, 0, 0, 0, 0⟩,
    Instr.gend ⟨⟨false, 7⟩, 0, 8, 0, 0, 0, 0, 0, false, 0, 0, 0, 0⟩,
    Instr.gldr ⟨⟨false, 7⟩, 0, 8, 0, 0, 0, 0, 0, false, 0, 0, 0, 0⟩,
    Instr.gopenX ⟨⟨false, 7⟩, 8, 0, 0, 0, 1, 0, 0, false, 0, 0, 0, 0⟩,
    Instr.gopenX ⟨⟨false, 7⟩, 0, 0, 0, 0, 1, 0, 0, false, 0, 0, 0, 0x10000⟩,
    Instr.gopenX ⟨⟨false, 7⟩, 0, 0, 0, 0, 2, 0, 0, false, 0, 0, 0, 0⟩,
    Instr.gldOa ⟨⟨false, 7⟩, 4, 0, 0, 0, 1, 0, 0, false, 0, 0, 0, 0⟩,
    Instr.gldOa ⟨⟨false, 7⟩, 0, 8, 0, 0, 1, 0, 0, false, 0, 0, 0, 0⟩,
    Instr.gldOa ⟨⟨false, 7⟩, 0, 0, 0, 0, 2, 0, 0, false, 0, 0, 0, 0⟩,
    Instr.gldOb ⟨⟨false, 7⟩, 4, 0, 0, 0, 2, 0, 0, false, 0, 0, 0, 0⟩,
    Instr.gldOb ⟨⟨false, 7⟩, 0, 8, 0, 0, 2, 0, 0, false, 0, 0, 0, 0⟩,
    Instr.gldOb ⟨⟨false, 7⟩, 0, 0, 0, 0, 3, 0, 0, false, 0, 0, 0, 0⟩,
    Instr.gstAccumulator ⟨⟨false, 7⟩, 0, 4, 0, 0, 1, 0, 0, false, 0, 0, 0, 0⟩,
    Instr.gstAccumulator ⟨⟨false, 7⟩, 8, 0, 0, 0, 1, 0, 0, false, 0, 0, 0, 0⟩,
    Instr.gstAccumulator ⟨⟨false, 7⟩, 0, 0, 0, 0, 2, 0, 0, false, 0, 0, 0, 0⟩,
    Instr.gadv ⟨⟨false, 7⟩, 0, 0, 0, 0, 6, 0, 0, false, 0, 0, 0, 0⟩].all (fun i => !i.wf) = true := by decide +kernel

/-- R44, R48: a register number or an FN that the row does not admit. -/
theorem test_wf_stream_and_fibre_words_2 : [
    Instr.gldr ⟨⟨false, 7⟩, 0, 0, 0, 7, 0, 0, 0, false, 0, 0, 0, 0⟩,
    Instr.fopen ⟨⟨false, 7⟩, 4, 0, 0, 0, 0, 0, 0, false, 0, 0, 0, 0⟩,
    Instr.fadv ⟨⟨false, 7⟩, 4, 0, 0, 0, 0, 0, 0, false, 0, 0, 0, 0⟩,
    Instr.fclose ⟨⟨false, 7⟩, 4, 0, 0, 0, 0, 0, 0, false, 0, 0, 0, 0⟩,
    Instr.fisect ⟨⟨false, 7⟩, 4, 0, 0, 0, 0, 0, 0, false, 0, 0, 0, 0⟩,
    Instr.fopen ⟨⟨false, 7⟩, 0, 8, 0, 0, 0, 0, 0, false, 0, 0, 0, 0⟩,
    Instr.fend ⟨⟨false, 7⟩, 0, 4, 0, 0, 0, 0, 0, false, 0, 0, 0, 0⟩,
    Instr.fldv ⟨⟨false, 7⟩, 0, 4, 0, 0, 0, 0, 0, false, 0, 0, 0, 0⟩,
    Instr.fisect ⟨⟨false, 7⟩, 0, 4, 0, 0, 0, 0, 0, false, 0, 0, 0, 0⟩,
    Instr.fend ⟨⟨false, 7⟩, 8, 0, 0, 0, 0, 0, 0, false, 0, 0, 0, 0⟩,
    Instr.fisect ⟨⟨false, 7⟩, 0, 0, 4, 0, 0, 0, 0, false, 0, 0, 0, 0⟩,
    Instr.fldvCrd ⟨⟨false, 7⟩, 0, 4, 0, 0, 1, 0, 0, false, 0, 0, 0, 0⟩,
    Instr.fldvCrd ⟨⟨false, 7⟩, 0, 0, 0, 0, 2, 0, 0, false, 0, 0, 0, 0⟩].all (fun i => !i.wf) = true := by decide +kernel

/-- R44, R48: the same for rings, queues, semaphores, k registers and LOOPN. -/
theorem test_wf_ring_queue_loop_words_1 : [
    Instr.rwaitf ⟨⟨false, 7⟩, 8, 0, 0, 0, 0, 0, 0, false, 0, 0, 0, 0⟩,
    Instr.rwaitf ⟨⟨false, 7⟩, 0, 8, 0, 0, 0, 0, 0, false, 0, 0, 0, 0⟩,
    Instr.rwaite ⟨⟨false, 7⟩, 8, 0, 0, 0, 0, 0, 0, false, 0, 0, 0, 0⟩,
    Instr.rwaite ⟨⟨false, 7⟩, 0, 8, 0, 0, 0, 0, 0, false, 0, 0, 0, 0⟩,
    Instr.rclaim ⟨⟨false, 7⟩, 8, 0, 0, 0, 0, 0, 0, false, 0, 0, 0, 0⟩,
    Instr.rclaim ⟨⟨false, 7⟩, 0, 8, 0, 0, 0, 0, 0, false, 0, 0, 0, 0⟩,
    Instr.rpub ⟨⟨false, 7⟩, 0, 8, 0, 0, 0, 0, 0, false, 0, 0, 0, 0⟩,
    Instr.rrel ⟨⟨false, 7⟩, 0, 8, 0, 0, 0, 0, 0, false, 0, 0, 0, 0⟩,
    Instr.qputVw ⟨⟨false, 7⟩, 0, 0, 0, 0, 8, 0, 0, false, 0, 0, 0, 0⟩,
    Instr.qputVw ⟨⟨false, 7⟩, 0, 8, 0, 0, 0, 0, 0, false, 0, 0, 0, 0⟩,
    Instr.qgetVw ⟨⟨false, 7⟩, 0, 0, 0, 0, 8, 0, 0, false, 0, 0, 0, 0⟩,
    Instr.qgetVw ⟨⟨false, 7⟩, 8, 0, 0, 0, 0, 0, 0, false, 0, 0, 0, 0⟩,
    Instr.semaddVw ⟨⟨false, 7⟩, 0, 8, 0, 0, 0, 0, 0, false, 0, 0, 0, 0⟩,
    Instr.semaddVw ⟨⟨false, 7⟩, 0, 0, 8, 0, 0, 0, 0, false, 0, 0, 0, 0⟩,
    Instr.semwaitVw ⟨⟨false, 7⟩, 0, 0, 0, 0, 2, 0, 0, false, 0, 0, 0, 0⟩,
    Instr.semwaitVw ⟨⟨false, 7⟩, 0, 8, 0, 0, 0, 0, 0, false, 0, 0, 0, 0⟩,
    Instr.semwaitVw ⟨⟨false, 7⟩, 0, 0, 8, 0, 0, 0, 0, false, 0, 0, 0, 0⟩,
    Instr.kli ⟨⟨false, 7⟩, 8, 0, 0, 0, 0, 0, 0, false, 0, 0, 0, 0⟩,
    Instr.kadd ⟨⟨false, 7⟩, 8, 0, 0, 0, 0, 0, 0, false, 0, 0, 0, 0⟩,
    Instr.kadd ⟨⟨false, 7⟩, 0, 8, 0, 0, 0, 0, 0, false, 0, 0, 0, 0⟩,
    Instr.loopn ⟨⟨false, 7⟩, 0, 0, 0, 0, 6, 0, 0, false, 0, 0, 0, 0⟩,
    Instr.loopn ⟨⟨false, 7⟩, 0, 8, 0, 0, 0, 0, 0, false, 0, 0, 0, 0⟩,
    Instr.loopn ⟨⟨false, 7⟩, 0, 0, 0, 0, 0, 0, 0, false, 0, 0, 0, 0x20⟩,
    Instr.vpm ⟨⟨false, 7⟩, 0, 0, 0, 0, 3, 0, 0, false, 0, 0, 0, 0⟩].all (fun i => !i.wf) = true := by decide +kernel

/-- R44, R48: the same for rings, queues, semaphores, k registers and LOOPN. -/
theorem test_wf_ring_queue_loop_words_2 : [
    Instr.vpm ⟨⟨false, 7⟩, 8, 0, 0, 0, 0, 0, 0, false, 0, 0, 0, 0⟩].all (fun i => !i.wf) = true := by decide +kernel

/-- R45, R46, R48: FMT, FN, NEG and mask numbers of the lane words. -/
theorem test_wf_lane_words_1 : [
    Instr.vadd ⟨⟨false, 7⟩, 0, 0, 0, 0, 0, 1, 0, false, 0, 0, 0, 0⟩,
    Instr.vsub ⟨⟨false, 7⟩, 0, 0, 0, 0, 0, 1, 0, false, 0, 0, 0, 0⟩,
    Instr.vmul ⟨⟨false, 7⟩, 0, 0, 0, 0, 0, 1, 0, false, 0, 0, 0, 0⟩,
    Instr.vfma ⟨⟨false, 7⟩, 0, 0, 0, 0, 0, 1, 0, false, 0, 0, 0, 0⟩,
    Instr.vminmax ⟨⟨false, 7⟩, 0, 0, 0, 0, 0, 1, 0, false, 0, 0, 0, 0⟩,
    Instr.vsgn ⟨⟨false, 7⟩, 0, 0, 0, 0, 0, 1, 0, false, 0, 0, 0, 0⟩,
    Instr.vminmax ⟨⟨false, 7⟩, 0, 0, 0, 0, 2, 0, 0, false, 0, 0, 0, 0⟩,
    Instr.vsgn ⟨⟨false, 7⟩, 0, 0, 0, 0, 3, 0, 0, false, 0, 0, 0, 0⟩,
    Instr.vsgn ⟨⟨false, 7⟩, 0, 0, 1, 0, 0, 0, 0, false, 0, 0, 0, 0⟩,
    Instr.vsgn ⟨⟨false, 7⟩, 0, 0, 0, 0, 1, 0, 0, false, 0, 1, 0, 0⟩,
    Instr.vclamp ⟨⟨false, 7⟩, 0, 0, 0, 0, 0, 4, 0, false, 0, 0, 0, 0⟩,
    Instr.viadd ⟨⟨false, 7⟩, 0, 0, 0, 0, 2, 1, 0, false, 0, 0, 0, 0⟩,
    Instr.viadd ⟨⟨false, 7⟩, 0, 0, 0, 0, 0, 0, 0, false, 0, 0, 0, 0⟩,
    Instr.visub ⟨⟨false, 7⟩, 0, 0, 0, 0, 2, 1, 0, false, 0, 0, 0, 0⟩,
    Instr.visub ⟨⟨false, 7⟩, 0, 0, 0, 0, 0, 0, 0, false, 0, 0, 0, 0⟩,
    Instr.vimul ⟨⟨false, 7⟩, 0, 0, 0, 0, 3, 1, 0, false, 0, 0, 0, 0⟩,
    Instr.vimul ⟨⟨false, 7⟩, 0, 0, 0, 0, 0, 0, 0, false, 0, 0, 0, 0⟩,
    Instr.vlogic ⟨⟨false, 7⟩, 0, 0, 0, 0, 5, 1, 0, false, 0, 0, 0, 0⟩,
    Instr.vlogic ⟨⟨false, 7⟩, 0, 0, 0, 0, 0, 0, 0, false, 0, 0, 0, 0⟩,
    Instr.vshift ⟨⟨false, 7⟩, 0, 0, 0, 0, 3, 1, 0, false, 0, 0, 0, 0⟩,
    Instr.vshift ⟨⟨false, 7⟩, 0, 0, 0, 0, 0, 0, 0, false, 0, 0, 0, 0⟩,
    Instr.viminmax ⟨⟨false, 7⟩, 0, 0, 0, 0, 4, 1, 0, false, 0, 0, 0, 0⟩,
    Instr.viminmax ⟨⟨false, 7⟩, 0, 0, 0, 0, 0, 0, 0, false, 0, 0, 0, 0⟩,
    Instr.vlogic ⟨⟨false, 7⟩, 0, 0, 0, 0, 0, 1, 0, false, 0x80, 0, 0, 0⟩].all (fun i => !i.wf) = true := by decide +kernel

/-- R45, R46, R48: FMT, FN, NEG and mask numbers of the lane words. -/
theorem test_wf_lane_words_2 : [
    Instr.vlogic ⟨⟨false, 7⟩, 0, 0, 0, 0, 0, 1, 0, false, 0, 0x80, 0, 0⟩,
    Instr.vlogic ⟨⟨false, 7⟩, 0, 0, 1, 0, 4, 1, 0, false, 0, 0, 0, 0⟩,
    Instr.vlogic ⟨⟨false, 7⟩, 0, 0, 0, 0, 4, 1, 0, false, 0, 1, 0, 0⟩,
    Instr.vshift ⟨⟨false, 7⟩, 0, 0, 0, 0, 0, 1, 0, false, 0x80, 0, 0, 0⟩,
    Instr.vshift ⟨⟨false, 7⟩, 0, 0, 0, 0, 0, 1, 0, false, 0, 0x80, 0, 0⟩,
    Instr.vcmp ⟨⟨false, 7⟩, 1, 0, 0, 0, 4, 0, 0, false, 0, 0, 0, 0⟩,
    Instr.vcmp ⟨⟨false, 7⟩, 1, 0, 0, 0, 5, 1, 0, false, 0, 0, 0, 0⟩,
    Instr.vcmp ⟨⟨false, 7⟩, 1, 0, 0, 0, 0, 4, 0, false, 0, 0, 0, 0⟩,
    Instr.vcmp ⟨⟨false, 7⟩, 8, 0, 0, 0, 0, 0, 0, false, 0, 0, 0, 0⟩,
    Instr.vcmp ⟨⟨false, 7⟩, 1, 0, 0, 8, 0, 0, 0, false, 0, 0, 0, 0⟩,
    Instr.vcmp ⟨⟨false, 7⟩, 3, 0, 0, 3, 0, 0, 0, false, 0, 0, 0, 0⟩,
    Instr.vsel ⟨⟨false, 7⟩, 0, 0, 0, 0, 0, 4, 0, false, 0, 0, 0, 0⟩,
    Instr.vsel ⟨⟨false, 7⟩, 0, 0, 0, 8, 0, 0, 0, false, 0, 0, 0, 0⟩,
    Instr.vsel ⟨⟨false, 7⟩, 0, 0, 0, 0, 0, 1, 0, false, 0x80, 0, 0, 0⟩,
    Instr.vsel ⟨⟨false, 7⟩, 0, 0, 0, 0, 0, 1, 0, false, 0, 0x80, 0, 0⟩].all (fun i => !i.wf) = true := by decide +kernel

/-- R44-R48: the same for conversion, movement, reduction, random and update words. -/
theorem test_wf_movement_words_1 : [
    Instr.vcvt ⟨⟨false, 7⟩, 0, 0, 0, 0, 0, 4, 0, false, 0, 0, 0, 0⟩,
    Instr.vcvt ⟨⟨false, 7⟩, 0, 0, 0, 0, 12, 0, 0, false, 0, 0, 0, 0⟩,
    Instr.vcvt ⟨⟨false, 7⟩, 0, 0, 0, 0, 11, 1, 0, false, 0, 0, 0, 0⟩,
    Instr.vcvt ⟨⟨false, 7⟩, 0, 0, 0, 0, 0, 2, 0, false, 0, 0, 0, 0⟩,
    Instr.vcvt ⟨⟨false, 7⟩, 0, 0, 0, 0, 11, 3, 0, false, 0, 0, 0, 0⟩,
    Instr.vcvt ⟨⟨false, 7⟩, 0, 0, 0, 1, 11, 0, 0, false, 0, 0, 0, 0⟩,
    Instr.vcvt ⟨⟨false, 7⟩, 0, 0, 0, 1, 0, 0, 0, false, 0, 0, 0, 0⟩,
    Instr.vcvt ⟨⟨false, 7⟩, 0, 0, 0, 2, 2, 0, 0, false, 0, 0, 0, 0⟩,
    Instr.vcvt ⟨⟨false, 7⟩, 0, 0, 0, 0, 2, 0, 0, false, 0, 0, 0, 1⟩,
    Instr.vcvt ⟨⟨false, 7⟩, 0, 0, 0, 0, 0, 1, 0, false, 0x80, 0, 0, 0⟩,
    Instr.vqnt ⟨⟨false, 7⟩, 0, 0, 0, 0, 10, 0, 0, false, 0, 0, 0, 0⟩,
    Instr.vqnt ⟨⟨false, 7⟩, 0, 0, 0, 0, 11, 1, 0, false, 0, 0, 0, 0⟩,
    Instr.vqnt ⟨⟨false, 7⟩, 15, 0, 0, 0, 11, 0, 0, false, 0, 0, 0, 0⟩,
    Instr.vqnt ⟨⟨false, 7⟩, 0, 0, 0, 2, 11, 0, 0, false, 0, 0, 0, 0⟩,
    Instr.vqnt ⟨⟨false, 7⟩, 0, 0, 0, 0, 11, 0, 0, false, 0, 0, 0, 1⟩,
    Instr.vsf ⟨⟨false, 7⟩, 0, 0, 0, 0, 11, 0, 0, false, 0, 0, 0, 0⟩,
    Instr.vsf ⟨⟨false, 7⟩, 0, 0, 0, 0, 0, 1, 0, false, 0, 0, 0, 0⟩,
    Instr.vbcr ⟨⟨false, 7⟩, 0, 0, 0, 0, 0, 0, 0, false, 0, 0, 0, 0x10⟩,
    Instr.vbcr ⟨⟨false, 7⟩, 0, 0, 0, 0, 0, 0, 0, false, 0x80, 0, 0, 0⟩,
    Instr.vbcc ⟨⟨false, 7⟩, 0, 0, 0, 0, 0, 0, 0, false, 0, 0, 0, 0x40⟩,
    Instr.vbcc ⟨⟨false, 7⟩, 0, 0, 0, 0, 0, 0, 0, false, 0x80, 0, 0, 0⟩,
    Instr.vrotr ⟨⟨false, 7⟩, 0, 0, 0, 0, 0, 0, 0, false, 0, 0, 0, 0x10⟩,
    Instr.vrotr ⟨⟨false, 7⟩, 0, 0, 0, 0, 0, 0, 0, false, 0x80, 0, 0, 0⟩,
    Instr.vrotc ⟨⟨false, 7⟩, 0, 0, 0, 0, 0, 0, 0, false, 0, 0, 0, 0x40⟩].all (fun i => !i.wf) = true := by decide +kernel

/-- R44-R48: the same for conversion, movement, reduction, random and update words. -/
theorem test_wf_movement_words_2 : [
    Instr.vrotc ⟨⟨false, 7⟩, 0, 0, 0, 0, 0, 0, 0, false, 0x80, 0, 0, 0⟩,
    Instr.vperm ⟨⟨false, 7⟩, 0, 0, 0, 0, 2, 0, 0, false, 0, 0, 0, 0⟩,
    Instr.vperm ⟨⟨false, 7⟩, 0, 0, 0, 0, 0, 0, 0, false, 0x80, 0, 0, 0⟩,
    Instr.vperm ⟨⟨false, 7⟩, 0, 0, 0, 0, 0, 0, 0, false, 0, 0x80, 0, 0⟩,
    Instr.vmov ⟨⟨false, 7⟩, 0, 0, 0, 0, 4, 0, 0, false, 0, 0, 0, 0⟩,
    Instr.vmov ⟨⟨false, 7⟩, 0, 0, 0, 0, 0, 0, 0, false, 0x80, 0, 0, 0⟩,
    Instr.vmov ⟨⟨false, 7⟩, 8, 0, 0, 0, 1, 0, 0, false, 0, 0, 0, 0⟩,
    Instr.vmov ⟨⟨false, 7⟩, 8, 0, 0, 0, 2, 0, 0, false, 0, 0, 0, 0⟩,
    Instr.vmov ⟨⟨false, 7⟩, 0, 8, 0, 0, 1, 0, 0, false, 0, 0, 0, 0⟩,
    Instr.vmov ⟨⟨false, 7⟩, 0, 8, 0, 0, 3, 0, 0, false, 0, 0, 0, 0⟩,
    Instr.vmov ⟨⟨false, 7⟩, 0, 0, 0, 0, 3, 0, 0, false, 1, 0, 0, 0⟩,
    Instr.vli ⟨⟨false, 7⟩, 0, 0, 0, 0, 2, 0, 0, false, 0, 0, 0, 0⟩,
    Instr.vredr ⟨⟨false, 7⟩, 0, 0, 0, 0, 6, 1, 0, false, 0, 0, 0, 0⟩,
    Instr.vredr ⟨⟨false, 7⟩, 0, 0, 0, 0, 0, 4, 0, false, 0, 0, 0, 0⟩,
    Instr.vredr ⟨⟨false, 7⟩, 0, 0, 0, 0, 3, 0, 0, false, 0, 0, 0, 0⟩,
    Instr.vredr ⟨⟨false, 7⟩, 0, 0, 0, 0, 0, 1, 0, false, 0x80, 0, 0, 0⟩,
    Instr.vredc ⟨⟨false, 7⟩, 0, 0, 0, 0, 6, 1, 0, false, 0, 0, 0, 0⟩,
    Instr.vredc ⟨⟨false, 7⟩, 0, 0, 0, 0, 0, 4, 0, false, 0, 0, 0, 0⟩,
    Instr.vredc ⟨⟨false, 7⟩, 0, 0, 0, 0, 3, 0, 0, false, 0, 0, 0, 0⟩,
    Instr.vredc ⟨⟨false, 7⟩, 0, 0, 0, 0, 0, 1, 0, false, 0x80, 0, 0, 0⟩,
    Instr.vsegr ⟨⟨false, 7⟩, 0, 0, 0, 0, 3, 0, 0, false, 0, 0, 0, 0⟩,
    Instr.vsegr ⟨⟨false, 7⟩, 0, 0, 0, 0, 0, 2, 0, false, 0, 0, 0, 0⟩,
    Instr.vsegr ⟨⟨false, 7⟩, 0, 0, 0, 8, 0, 0, 0, false, 0, 0, 0, 0⟩,
    Instr.vsegr ⟨⟨false, 7⟩, 0, 0, 0, 0, 0, 1, 0, false, 0x80, 0, 0, 0⟩].all (fun i => !i.wf) = true := by decide +kernel

/-- R44-R48: the same for conversion, movement, reduction, random and update words. -/
theorem test_wf_movement_words_3 : [
    Instr.vscanr ⟨⟨false, 7⟩, 0, 0, 0, 0, 4, 0, 0, false, 0, 0, 0, 0⟩,
    Instr.vscanr ⟨⟨false, 7⟩, 0, 0, 0, 0, 0, 3, 0, false, 0, 0, 0, 0⟩,
    Instr.vscanr ⟨⟨false, 7⟩, 0, 0, 0, 0, 0, 1, 0, false, 0x80, 0, 0, 0⟩,
    Instr.vrng ⟨⟨false, 7⟩, 0, 0, 0, 0, 3, 0, 0, false, 0, 0, 0, 0⟩,
    Instr.vrng ⟨⟨false, 7⟩, 0, 8, 0, 0, 0, 0, 0, false, 0, 0, 0, 0⟩,
    Instr.vrng ⟨⟨false, 7⟩, 0, 0, 0, 8, 0, 0, 0, false, 0, 0, 0, 0⟩,
    Instr.vrng ⟨⟨false, 7⟩, 0, 0, 0, 0, 0, 0, 0, false, 0, 0x80, 0, 0⟩,
    Instr.upd ⟨⟨false, 7⟩, 4, 0, 0, 0, 0, 0, 0, false, 0, 0, 0, 0⟩,
    Instr.upd ⟨⟨false, 7⟩, 0, 0, 0, 0, 0, 2, 0, false, 0, 0, 0, 0⟩,
    Instr.upd ⟨⟨false, 7⟩, 0, 0, 15, 0, 0, 4, 0, false, 0, 0, 0, 0⟩,
    Instr.upd ⟨⟨false, 7⟩, 0, 0, 0, 0, 0, 0, 0, false, 0x80, 0, 0, 0⟩,
    Instr.upd ⟨⟨false, 7⟩, 0, 0, 0, 0, 0, 0, 0, false, 0, 0x80, 0, 0⟩,
    Instr.upd ⟨⟨false, 7⟩, 0, 0, 0, 0, 0, 0, 0, false, 0, 0, 0x80, 0⟩,
    Instr.upd ⟨⟨false, 7⟩, 0, 0, 0, 0, 0, 0, 0, false, 0, 0, 0, 0x20⟩,
    Instr.updf ⟨⟨false, 7⟩, 4, 0, 0, 0, 1, 0, 0, false, 0, 0, 0, 0⟩,
    Instr.updf ⟨⟨false, 7⟩, 0, 0, 0, 0, 0, 0, 0, false, 0, 0, 0, 0⟩].all (fun i => !i.wf) = true := by decide +kernel

/-- R50-R54, R330: matrix words the engine does not accept. -/
theorem test_wf_matrix_words_1 : [
    Instr.mma ⟨⟨false, 7⟩, 3, 1, 0, 0, 0, 0, 0x0⟩,
    Instr.mmas ⟨⟨false, 7⟩, 3, 1, 0, 0, 0, 0, 0x0⟩,
    Instr.mzero ⟨⟨false, 7⟩, 3, 1, 0, 0, 0, 0, 0x0⟩,
    Instr.mscale ⟨⟨false, 7⟩, 3, 1, 0, 0, 0, 0, 0x0⟩,
    Instr.mwait ⟨⟨false, 7⟩, 3, 1, 0, 0, 0, 0, 0x0⟩,
    Instr.mma ⟨⟨false, 7⟩, 0, 0, 1, 0, 0, 0, 0x0⟩,
    Instr.mmas ⟨⟨false, 7⟩, 0, 0, 1, 0, 0, 0, 0x0⟩,
    Instr.mzero ⟨⟨false, 7⟩, 0, 0, 1, 0, 0, 0, 0x0⟩,
    Instr.maccr ⟨⟨false, 7⟩, 0, 0, 1, 0, 0, 0, 0x0⟩,
    Instr.maccw ⟨⟨false, 7⟩, 0, 0, 1, 0, 0, 0, 0x0⟩,
    Instr.mscale ⟨⟨false, 7⟩, 0, 0, 1, 0, 0, 0, 0x0⟩,
    Instr.mwait ⟨⟨false, 7⟩, 0, 0, 1, 0, 0, 0, 0x0⟩,
    Instr.mma ⟨⟨false, 7⟩, 0, 0, 0, 1, 0, 0, 0x0⟩,
    Instr.mma ⟨⟨false, 7⟩, 0, 0, 0, 0, 1, 0, 0x0⟩,
    Instr.mma ⟨⟨false, 7⟩, 0, 0, 0, 0, 0, 0, 0x10⟩,
    Instr.mmas ⟨⟨false, 7⟩, 0, 0, 0, 0, 0, 0, 0x10⟩,
    Instr.mzero ⟨⟨false, 7⟩, 0, 0, 0, 0, 0, 1, 0x0⟩,
    Instr.mzero ⟨⟨false, 7⟩, 0, 0, 0, 0, 0, 0, 0x1⟩,
    Instr.maccr ⟨⟨false, 7⟩, 0, 1, 0, 0, 0, 0, 0x0⟩,
    Instr.maccr ⟨⟨false, 7⟩, 0, 0, 0, 0, 0, 1, 0x0⟩,
    Instr.maccr ⟨⟨false, 7⟩, 0, 0, 0, 0, 0, 0, 0xd⟩,
    Instr.maccw ⟨⟨false, 7⟩, 0, 1, 0, 0, 0, 0, 0x0⟩,
    Instr.maccw ⟨⟨false, 7⟩, 0, 0, 0, 0, 0, 1, 0x0⟩,
    Instr.maccw ⟨⟨false, 7⟩, 0, 0, 0, 0, 0, 0, 0xd⟩].all (fun i => !i.wf) = true := by decide +kernel

/-- R50-R54, R330: matrix words the engine does not accept. -/
theorem test_wf_matrix_words_2 : [
    Instr.mscale ⟨⟨false, 7⟩, 0, 0, 0, 0, 0, 1, 0x0⟩,
    Instr.mscale ⟨⟨false, 7⟩, 0, 0, 0, 0, 0, 0, 0x10⟩,
    Instr.mwait ⟨⟨false, 7⟩, 0, 0, 0, 0, 0, 1, 0x0⟩,
    Instr.mwait ⟨⟨false, 7⟩, 0, 0, 0, 0, 0, 0, 0x800000000⟩,
    Instr.mmaD ⟨⟨false, 7⟩, 0, 0, 0, 0, 0, 0, 0x0⟩,
    Instr.mmaD ⟨⟨false, 7⟩, 0, 0, 2, 0, 0, 0, 0x0⟩,
    Instr.mmaD ⟨⟨false, 7⟩, 3, 1, 1, 0, 0, 0, 0x0⟩,
    Instr.mmaD ⟨⟨false, 7⟩, 0, 0, 1, 2, 9, 0, 0x0⟩,
    Instr.mmaD ⟨⟨false, 7⟩, 0, 0, 1, 0, 0, 0, 0x10000000000000000⟩,
    Instr.mmaD ⟨⟨false, 7⟩, 0, 0, 1, 0, 0, 0, 0x10000⟩,
    Instr.mmaD ⟨⟨false, 7⟩, 0, 0, 1, 0, 0, 0, 0xf800⟩,
    Instr.mmaD ⟨⟨false, 7⟩, 0, 0, 1, 0, 0, 0, 0x1000000000000⟩,
    Instr.mmaD ⟨⟨false, 7⟩, 0, 0, 1, 11, 11, 0, 0xf8000000⟩].all (fun i => !i.wf) = true := by decide +kernel

/-- The operand fields with one of them made 1 more than it was. -/
def pokeT (w : TArgs) : TField → TArgs
  | .d => { w with d := w.d + 1 }
  | .s => { w with s := w.s + 1 }
  | .h => { w with h := w.h + 1 }
  | .x => { w with x := w.x + 1 }
  | .sfmt => { w with sfmt := w.sfmt + 1 }
  | .dfmt => { w with dfmt := w.dfmt + 1 }
  | .fn => { w with fn := w.fn + 1 }
  | .imm16 => { w with imm16 := w.imm16 + 1 }
  | .imm64 => { w with imm64 := w.imm64 + 1 }

/-- The word is well formed, and no longer so when any of the listed fields is set; it admits TE with a tag as `tags` says, a tag
without TE never, and ORD as `ords` says (R57). -/
def barredT (i : TArgs → Instr) (tags ords : Bool) (w : TArgs) (fs : List TField) : Bool :=
  (i w).wf && (fs.all fun f => !(i (pokeT w f)).wf) && (i { w with te := true, tag := 63 }).wf == tags &&
    !(i { w with te := false, tag := 1 }).wf && (i { w with ord := 3, scope := 1 }).wf == ords

/-- R57, R58: fields that a row does not list, and TAG, ORD and SCOPE. -/
theorem test_wf_transfer_fields_1 : [
    barredT .copy true true ⟨0, 0, 0, 0, 0, false, 0, 0, 0, 0, 0, 0, 0⟩ [.x, .sfmt, .dfmt, .fn, .imm16, .imm64],
    barredT .xpose true true ⟨0, 0, 0, 0, 0, false, 0, 0, 0, 0, 0, 0, 0⟩ [.fn, .imm16, .imm64],
    barredT .conv true true ⟨0, 0, 0, 0, 0, false, 0, 0, 0, 0, 0, 0, 0⟩ [.x, .imm16, .imm64],
    barredT .decomp true true ⟨0, 0, 0, 0, 0, false, 0, 0, 0, 0, 0, 0, 0⟩ [.x, .fn, .imm16, .imm64],
    barredT .req true true ⟨0, 0, 0, 0, 0, false, 0, 11, 11, 0, 0, 0, 0⟩ [.x, .fn, .imm16, .imm64],
    barredT .gather true true ⟨0, 0, 0, 0, 0, false, 0, 0, 0, 0, 0, 0, 0⟩ [.sfmt, .dfmt, .fn, .imm16, .imm64],
    barredT .scatter true true ⟨0, 0, 0, 0, 0, false, 0, 0, 0, 0, 0, 0, 0⟩ [.sfmt, .dfmt, .fn, .imm16, .imm64],
    barredT .iread true true ⟨0, 0, 0, 0, 0, false, 0, 0, 0, 0, 0, 0, 0⟩ [.sfmt, .dfmt, .fn, .imm16, .imm64],
    barredT .mcast true true ⟨0, 0, 0, 0, 0, false, 0, 0, 0, 0, 0, 1, 0⟩ [.d, .sfmt, .dfmt, .fn, .imm64],
    barredT .reduce true true ⟨0, 0, 0, 0, 0, false, 0, 0, 0, 0, 0, 1, 0⟩ [.s, .sfmt, .dfmt, .imm64],
    barredT .accw true true ⟨0, 0, 0, 0, 0, false, 0, 0, 0, 0, 0, 0, 0⟩ [.x, .sfmt, .dfmt, .imm16, .imm64],
    barredT .atom true true ⟨0, 0, 0, 0, 0, false, 0, 0, 0, 0, 0, 0, 0⟩ [.sfmt, .dfmt, .imm16, .imm64],
    barredT .signal true true ⟨0, 0, 0, 0, 0, false, 0, 0, 0, 0, 0, 0, 0⟩ [.s, .h, .x, .sfmt, .dfmt, .fn, .imm64],
    barredT .semwt true true ⟨0, 0, 0, 0, 0, false, 0, 0, 0, 0, 0, 0, 0⟩ [.s, .h, .x, .sfmt, .dfmt, .imm16],
    barredT .rfill true true ⟨0, 0, 0, 0, 0, false, 0, 0, 0, 0, 0, 0, 0⟩ [.d, .sfmt, .dfmt, .fn, .imm16],
    barredT .rdrain true true ⟨0, 0, 0, 0, 0, false, 0, 0, 0, 0, 0, 0, 0⟩ [.s, .sfmt, .dfmt, .fn, .imm16],
    barredT .tagset true true ⟨0, 0, 0, 0, 0, true, 0, 0, 0, 0, 0, 0, 0⟩ [.d, .s, .h, .x, .sfmt, .dfmt, .fn, .imm16, .imm64],
    barredT .trel false false ⟨0, 0, 0, 0, 0, false, 0, 0, 0, 0, 0, 0, 0⟩ [.d, .s, .h, .x, .sfmt, .dfmt, .fn, .imm16, .imm64],
    barredT .tacq false false ⟨0, 0, 0, 0, 0, false, 0, 0, 0, 0, 0, 0, 0⟩ [.d, .s, .h, .x, .sfmt, .dfmt, .fn, .imm16, .imm64],
    barredT .tfence false false ⟨0, 0, 0, 0, 0, false, 0, 0, 0, 0, 0, 0, 0⟩ [.d, .s, .h, .x, .sfmt, .dfmt, .fn, .imm16, .imm64],
    barredT .follow true false ⟨0, 0, 0, 0, 0, false, 0, 0, 0, 0, 0, 0, 0⟩ [.d, .h, .x, .sfmt, .dfmt, .fn, .imm16, .imm64],
    barredT .pref true false ⟨0, 0, 0, 0, 0, false, 0, 0, 0, 0, 0, 0, 0⟩ [.d, .x, .sfmt, .dfmt, .imm16, .imm64],
    barredT .migh true false ⟨0, 0, 0, 0, 0, false, 0, 0, 0, 0, 0, 0, 0⟩ [.d, .x, .sfmt, .dfmt, .imm16, .imm64],
    barredT .udrain true true ⟨0, 0, 0, 0, 0, false, 0, 0, 0, 0, 0, 0, 0⟩ [.s, .h, .x, .sfmt, .dfmt, .fn, .imm16, .imm64],
    barredT .urgn true false ⟨0, 0, 0, 0, 0, false, 0, 0, 0, 0, 0, 0, 0⟩ [.h, .x, .sfmt, .dfmt, .fn, .imm16, .imm64]].all id = true := by decide +kernel

/-- R57, R58: fields that a row does not list, and TAG, ORD and SCOPE. -/
theorem test_wf_transfer_fields_2 : [
    barredT .coll true true ⟨0, 0, 0, 0, 0, false, 0, 0, 0, 0, 0, 0, 0⟩ [.sfmt, .dfmt, .imm16, .imm64],
    barredT .tbr64 false false ⟨0, 0, 0, 0, 0, false, 0, 0, 0, 0, 0, 0, 0⟩ [.d, .s, .h, .x, .sfmt, .dfmt, .imm64],
    barredT .tbr128 false false ⟨0, 0, 0, 0, 0, false, 0, 0, 0, 0, 0, 0, 0⟩ [.d, .s, .h, .x, .sfmt, .dfmt, .imm16],
    barredT .tloop64 false false ⟨0, 0, 0, 0, 0, false, 0, 0, 0, 0, 0, 0, 0⟩ [.s, .h, .x, .sfmt, .dfmt, .fn, .imm64],
    barredT .tloop128 false false ⟨0, 0, 0, 0, 0, false, 0, 0, 0, 0, 0, 0, 0⟩ [.s, .h, .x, .sfmt, .dfmt, .fn, .imm16],
    barredT .tli64 false false ⟨0, 0, 0, 0, 0, false, 0, 0, 0, 0, 0, 0, 0⟩ [.s, .h, .x, .sfmt, .dfmt, .fn, .imm64],
    barredT .tli128 false false ⟨0, 0, 0, 0, 0, false, 0, 0, 0, 0, 0, 0, 0⟩ [.s, .h, .x, .sfmt, .dfmt, .fn, .imm16],
    barredT .tcmp false false ⟨0, 0, 0, 0, 0, false, 0, 0, 0, 0, 0, 0, 0⟩ [.d, .h, .sfmt, .dfmt, .imm16, .imm64],
    barredT .tldr false false ⟨0, 0, 0, 0, 0, false, 0, 0, 0, 0, 0, 0, 0⟩ [.h, .x, .sfmt, .dfmt, .fn, .imm64],
    barredT .tstr false false ⟨0, 0, 0, 0, 0, false, 0, 0, 0, 0, 0, 0, 0⟩ [.h, .x, .sfmt, .dfmt, .fn, .imm64],
    barredT .tadd64 false false ⟨0, 0, 0, 0, 0, false, 0, 0, 0, 0, 0, 0, 0⟩ [.h, .sfmt, .dfmt, .imm64],
    barredT .tadd128 false false ⟨0, 0, 0, 0, 0, false, 0, 0, 0, 0, 0, 0, 0⟩ [.h, .sfmt, .dfmt, .imm16],
    barredT .tsub64 false false ⟨0, 0, 0, 0, 0, false, 0, 0, 0, 0, 0, 0, 0⟩ [.h, .sfmt, .dfmt, .imm64],
    barredT .tsub128 false false ⟨0, 0, 0, 0, 0, false, 0, 0, 0, 0, 0, 0, 0⟩ [.h, .sfmt, .dfmt, .imm16],
    barredT .tmul64 false false ⟨0, 0, 0, 0, 0, false, 0, 0, 0, 0, 0, 0, 0⟩ [.h, .sfmt, .dfmt, .imm64],
    barredT .tmul128 false false ⟨0, 0, 0, 0, 0, false, 0, 0, 0, 0, 0, 0, 0⟩ [.h, .sfmt, .dfmt, .imm16],
    barredT .tand64 false false ⟨0, 0, 0, 0, 0, false, 0, 0, 0, 0, 0, 0, 0⟩ [.h, .sfmt, .dfmt, .imm64],
    barredT .tand128 false false ⟨0, 0, 0, 0, 0, false, 0, 0, 0, 0, 0, 0, 0⟩ [.h, .sfmt, .dfmt, .imm16],
    barredT .tor64 false false ⟨0, 0, 0, 0, 0, false, 0, 0, 0, 0, 0, 0, 0⟩ [.h, .sfmt, .dfmt, .imm64],
    barredT .tor128 false false ⟨0, 0, 0, 0, 0, false, 0, 0, 0, 0, 0, 0, 0⟩ [.h, .sfmt, .dfmt, .imm16],
    barredT .tshl64 false false ⟨0, 0, 0, 0, 0, false, 0, 0, 0, 0, 0, 0, 0⟩ [.h, .sfmt, .dfmt, .imm64],
    barredT .tshl128 false false ⟨0, 0, 0, 0, 0, false, 0, 0, 0, 0, 0, 0, 0⟩ [.h, .sfmt, .dfmt, .imm16],
    barredT .tshr64 false false ⟨0, 0, 0, 0, 0, false, 0, 0, 0, 0, 0, 0, 0⟩ [.h, .sfmt, .dfmt, .imm64],
    barredT .tshr128 false false ⟨0, 0, 0, 0, 0, false, 0, 0, 0, 0, 0, 0, 0⟩ [.h, .sfmt, .dfmt, .imm16],
    barredT .convZp true true ⟨0, 0, 0, 0, 0, false, 0, 0, 0, 2, 0, 0, 0⟩ [.x, .imm16, .imm64]].all id = true := by decide +kernel

/-- R57, R58: fields that a row does not list, and TAG, ORD and SCOPE. -/
theorem test_wf_transfer_fields_3 : [
    barredT .convFib true true ⟨0, 0, 0, 0, 0, false, 0, 0, 0, 4, 0, 0, 0⟩ [.x, .imm16, .imm64]].all id = true := by decide +kernel

/-- R57, R58: operand values a row does not admit. -/
theorem test_wf_transfer_words_1 : [
    Instr.copy ⟨0, 0, 0, 0, 0, false, 0, 0, 0, 0, 1, 0, 0⟩,
    Instr.follow ⟨0, 0, 0, 0, 0, false, 0, 0, 0, 0, 1, 0, 0⟩,
    Instr.tbr64 ⟨0, 0, 0, 0, 0, false, 0, 0, 0, 0, 1, 0, 0⟩,
    Instr.xpose ⟨0, 0, 0, 0, 0, false, 0, 1, 2, 0, 0, 0, 0⟩,
    Instr.xpose ⟨0, 0, 0, 0, 0, false, 0, 11, 11, 0, 0, 0, 0⟩,
    Instr.conv ⟨0, 0, 0, 0, 0, false, 0, 0, 0, 2, 0, 0, 0⟩,
    Instr.conv ⟨0, 0, 0, 0, 0, false, 0, 11, 0, 0, 0, 0, 0⟩,
    Instr.convZp ⟨0, 0, 0, 0, 0, false, 0, 0, 0, 3, 0, 0, 0⟩,
    Instr.convZp ⟨0, 0, 0, 0, 0, false, 0, 1, 0, 2, 0, 0, 0⟩,
    Instr.convZp ⟨0, 0, 0, 0, 0, false, 0, 11, 11, 2, 0, 0, 0⟩,
    Instr.convFib ⟨0, 0, 0, 0, 0, false, 0, 0, 0, 5, 0, 0, 0⟩,
    Instr.convFib ⟨0, 0, 0, 0, 0, false, 0, 1, 0, 4, 0, 0, 0⟩,
    Instr.convFib ⟨0, 0, 0, 0, 0, false, 0, 6, 6, 4, 0, 0, 0⟩,
    Instr.decomp ⟨0, 0, 0, 0, 0, false, 0, 1, 0, 0, 0, 0, 0⟩,
    Instr.decomp ⟨0, 0, 0, 0, 0, false, 0, 11, 11, 0, 0, 0, 0⟩,
    Instr.req ⟨0, 0, 0, 0, 0, false, 0, 10, 11, 0, 0, 0, 0⟩,
    Instr.req ⟨0, 0, 0, 0, 0, false, 0, 11, 10, 0, 0, 0, 0⟩,
    Instr.mcast ⟨0, 0, 0, 0, 0, false, 0, 0, 0, 0, 0, 0, 0⟩,
    Instr.mcast ⟨0, 0, 0, 0, 0, false, 0, 0, 0, 0, 0, 0x41, 0⟩,
    Instr.reduce ⟨0, 0, 0, 0, 0, false, 0, 0, 0, 0, 0, 0, 0⟩,
    Instr.reduce ⟨0, 0, 0, 0, 0, false, 0, 0, 0, 0, 0, 0x11, 0⟩,
    Instr.reduce ⟨0, 0, 0, 0, 0, false, 0, 0, 0, 8, 0, 1, 0⟩,
    Instr.accw ⟨0, 0, 0, 0, 0, false, 0, 0, 0, 8, 0, 0, 0⟩,
    Instr.atom ⟨0, 0, 0, 0, 0, false, 0, 0, 0, 3, 0, 0, 0⟩].all (fun i => !i.wf) = true := by decide +kernel

/-- R57, R58: operand values a row does not admit. -/
theorem test_wf_transfer_words_2 : [
    Instr.atom ⟨0, 0, 0, 0, 0, false, 0, 0, 0, 12, 0, 0, 0⟩,
    Instr.atom ⟨0, 0, 0, 0, 0, false, 0, 0, 0, 9, 0, 0, 0⟩,
    Instr.atom ⟨0, 0, 0, 0, 0, false, 0, 0, 0, 0x10, 0, 0, 0⟩,
    Instr.atom ⟨0, 0, 0, 1, 0, false, 0, 0, 0, 0, 0, 0, 0⟩,
    Instr.semwt ⟨0, 0, 0, 0, 0, false, 0, 0, 0, 2, 0, 0, 0⟩,
    Instr.semwt ⟨0, 0, 0, 0, 0, false, 0, 0, 0, 0, 0, 0, 0x10000⟩,
    Instr.rfill ⟨0, 0, 0, 0, 0, false, 0, 0, 0, 0, 0, 0, 1⟩,
    Instr.rdrain ⟨0, 0, 0, 0, 0, false, 0, 0, 0, 0, 0, 0, 1⟩,
    Instr.tagset ⟨0, 0, 0, 0, 0, false, 0, 0, 0, 0, 0, 0, 0⟩,
    Instr.pref ⟨0, 0, 0, 0, 0, false, 0, 0, 0, 2, 0, 0, 0⟩,
    Instr.migh ⟨0, 0, 0, 0, 0, false, 0, 0, 0, 3, 0, 0, 0⟩,
    Instr.coll ⟨0, 0, 0, 0, 0, false, 0, 0, 0, 5, 0, 0, 0⟩,
    Instr.coll ⟨0, 0, 0, 0, 0, false, 0, 0, 0, 0x28, 0, 0, 0⟩,
    Instr.coll ⟨0, 0, 0, 0, 0, false, 0, 0, 0, 10, 0, 0, 0⟩,
    Instr.tbr64 ⟨0, 0, 0, 0, 0, false, 0, 0, 0, 3, 0, 0, 0⟩,
    Instr.tbr128 ⟨0, 0, 0, 0, 0, false, 0, 0, 0, 3, 0, 0, 0⟩,
    Instr.tloop64 ⟨8, 0, 0, 0, 0, false, 0, 0, 0, 0, 0, 0, 0⟩,
    Instr.tloop128 ⟨8, 0, 0, 0, 0, false, 0, 0, 0, 0, 0, 0, 0⟩,
    Instr.tcmp ⟨0, 0, 0, 0, 0, false, 0, 0, 0, 6, 0, 0, 0⟩,
    Instr.tadd64 ⟨0, 0, 0, 0, 0, false, 0, 0, 0, 2, 0, 0, 0⟩,
    Instr.tadd64 ⟨0, 0, 0, 1, 0, false, 0, 0, 0, 1, 0, 0, 0⟩,
    Instr.tadd64 ⟨0, 0, 0, 0, 0, false, 0, 0, 0, 0, 0, 1, 0⟩,
    Instr.tadd128 ⟨0, 0, 0, 0, 0, false, 0, 0, 0, 2, 0, 0, 0⟩,
    Instr.tadd128 ⟨0, 0, 0, 1, 0, false, 0, 0, 0, 1, 0, 0, 0⟩].all (fun i => !i.wf) = true := by decide +kernel

/-- R57, R58: operand values a row does not admit. -/
theorem test_wf_transfer_words_3 : [
    Instr.tadd128 ⟨0, 0, 0, 0, 0, false, 0, 0, 0, 0, 0, 0, 1⟩,
    Instr.tshr64 ⟨0, 0, 0, 0, 0, false, 0, 0, 0, 2, 0, 0, 0⟩,
    Instr.tshr64 ⟨0, 0, 0, 1, 0, false, 0, 0, 0, 1, 0, 0, 0⟩,
    Instr.tshr64 ⟨0, 0, 0, 0, 0, false, 0, 0, 0, 0, 0, 1, 0⟩,
    Instr.tshr128 ⟨0, 0, 0, 0, 0, false, 0, 0, 0, 2, 0, 0, 0⟩,
    Instr.tshr128 ⟨0, 0, 0, 1, 0, false, 0, 0, 0, 1, 0, 0, 0⟩,
    Instr.tshr128 ⟨0, 0, 0, 0, 0, false, 0, 0, 0, 0, 0, 0, 1⟩].all (fun i => !i.wf) = true := by decide +kernel

/-! ## Small states and one step on them -/

/-- The state after reset with core 0, which the steps below act for, changed. -/
def core0 (f : Core → Core) : State := State.reset.putCore (f State.reset.core)

/-- The state at a core clock, with the tick that goes with it. -/
def atClock (n : Nat) (s : State) : State := { s with ctl := { s.ctl with cyc := n, tick := n / 96 } }

/-- What a step leaves, looked at; nothing where it answers no next state. -/
def look {α : Type} (i : Instr) (s : State) (f : State → α) : Option α :=
  match exec i s with
  | .next t => some (f t)
  | .fault _ => none
  | .refused _ => none

/-- A task bound to core 0 whose sequencers run, with a handler at parcel 100. -/
def task0 : Bound := { placedTask with desc := { placedTask.desc with handler := 100, moveOff := 4096 } }

/-- A task the lock-keeper knows, with the descriptor of `task0`. -/
def tk (tid prio : Nat) (st : TState) : Task :=
  ⟨tid, 0, task0.desc, default, prio, st, 0, 0, false, [], [], none, [], [], false, 0, [], 0, none, 0⟩

/-- The state with the tasks that the lock-keeper knows. -/
def known (ts : List Task) (s : State) : State := s.put { s.mc with tasks := ts }

/-- X of core 0 at pc 64 with s1 = -16, s2 = 5, predicates p1 and p7 true, and s9 awaiting a load that was just posted. -/
def sX : State := core0 fun c => { c with
  task := some task0
  x := { ({ c.x with pc := 64, p := 0x82 } : XState).setS 1 0xFFFFFFFFFFFFFFF0 |>.setS 2 5 with
    pend := [.load 9 16 8 false none] } }

/-- s3 after a step on `sX`. -/
def s3 (i : Instr) : Option W64 := look i sX fun t => t.core.x.getS 3

/-- R153: the register forms on -16 and 5, worked out by hand. -/
theorem test_alu_registers :
    ([.add .always 3 1 2, .sub .always 3 1 2, .andR .always 3 1 2, .orR .always 3 1 2, .xorR .always 3 1 2, .andn .always 3 1 2,
      .sll .always 3 1 2, .srl .always 3 1 2, .sra .always 3 1 2, .minS .always 3 1 2, .maxS .always 3 1 2, .minU .always 3 1 2,
      .maxU .always 3 1 2, .clz .always 3 1, .ctz .always 3 1, .popc .always 3 1].map s3 : List (Option W64)) =
    [some 0xFFFFFFFFFFFFFFF5, some 0xFFFFFFFFFFFFFFEB, some 0, some 0xFFFFFFFFFFFFFFF5, some 0xFFFFFFFFFFFFFFF5,
      some 0xFFFFFFFFFFFFFFF0, some 0xFFFFFFFFFFFFFE00, some 0x07FFFFFFFFFFFFFF, some 0xFFFFFFFFFFFFFFFF,
      some 0xFFFFFFFFFFFFFFF0, some 5, some 5, some 0xFFFFFFFFFFFFFFF0, some 0, some 4, some 60] := by decide +kernel

/-- R153: the immediate forms, the literal 5 or -3 sign-extended. -/
theorem test_alu_immediates :
    ([.addImm64 .always 3 2 0xFFFD, .addImm96 .always 3 2 0xFFFFFFFD, .subImm64 .always 3 2 0xFFFD, .subImm96 .always 3 2 0xFFFFFFFD,
      .andImm64 .always 3 2 0xFFFD, .andImm96 .always 3 2 0xFFFFFFFD, .orImm64 .always 3 2 0xFFFD, .orImm96 .always 3 2 0xFFFFFFFD,
      .xorImm64 .always 3 2 0xFFFD, .xorImm96 .always 3 2 0xFFFFFFFD, .andnImm64 .always 3 2 0xFFFD, .andnImm96 .always 3 2 0xFFFFFFFD,
      .sllImm64 .always 3 2 62, .sllImm96 .always 3 2 62, .srlImm64 .always 3 1 60, .srlImm96 .always 3 1 60,
      .sraImm64 .always 3 1 63, .sraImm96 .always 3 1 63, .minImm64 .always 3 2 0xFFFD, .minImm96 .always 3 2 0xFFFFFFFD,
      .maxImm64 .always 3 2 0xFFFD, .maxImm96 .always 3 2 0xFFFFFFFD, .minuImm64 .always 3 2 0xFFFD, .minuImm96 .always 3 2 0xFFFFFFFD,
      .maxuImm64 .always 3 2 0xFFFD, .maxuImm96 .always 3 2 0xFFFFFFFD].map s3 : List (Option W64)) =
    ([2, 2, 8, 8, 5, 5, 0xFFFFFFFFFFFFFFFD, 0xFFFFFFFFFFFFFFFD, 0xFFFFFFFFFFFFFFF8, 0xFFFFFFFFFFFFFFF8, 0, 0,
      0x4000000000000000, 0x4000000000000000, 15, 15, 0xFFFFFFFFFFFFFFFF, 0xFFFFFFFFFFFFFFFF, 0xFFFFFFFFFFFFFFFD,
      0xFFFFFFFFFFFFFFFD, 5, 5, 5, 5, 0xFFFFFFFFFFFFFFFD, 0xFFFFFFFFFFFFFFFD] : List W64).map some := by decide +kernel

/-- R154-R156: products and quotients of -16 and 5, division by zero, bit fields, immediate loads. s0 is the zero divisor. -/
theorem test_multiply_divide_fields :
    ([.mul .always 3 1 2, .mulh .always 3 1 2, .mulhu .always 3 1 2, .div .always 3 1 2, .divu .always 3 1 2, .rem .always 3 1 2,
      .remu .always 3 1 2, .div .always 3 1 0, .divu .always 3 1 0, .rem .always 3 1 0, .remu .always 3 1 0,
      .bfx .always 3 1 4 8, .bfxs .always 3 1 4 8, .bfi .always 3 2 60 4, .li64 .always 3 0x8000, .li96 .always 3 0x80000000,
      .lih .always 3 0x12345678].map s3 : List (Option W64)) =
    ([0xFFFFFFFFFFFFFFB0, 0xFFFFFFFFFFFFFFFF, 4, 0xFFFFFFFFFFFFFFFD, 0x3333333333333330, 0xFFFFFFFFFFFFFFFF, 0,
      0xFFFFFFFFFFFFFFFF, 0xFFFFFFFFFFFFFFFF, 0xFFFFFFFFFFFFFFF0, 0xFFFFFFFFFFFFFFF0,
      0xFF, 0xFFFFFFFFFFFFFFFF, 0x5000000000000000, 0xFFFFFFFFFFFF8000, 0xFFFFFFFF80000000, 0x1234567800000000] : List W64).map
      some := by decide +kernel

/-- R38, R144, R151, R168: a word goes on by its own length; one whose guard fails too; a write of s0 is discarded; one whose operand is
awaited changes nothing. -/
theorem test_passing :
    look (.li96 .always 3 7) sX (fun t => (t.core.x.pc, t.core.x.getS 3)) = some (76, 7) ∧
    look (.li96 ⟨true, 7⟩ 3 7) sX (fun t => (t.core.x.pc, t.core.x.getS 3)) = some (76, 0) ∧
    look (.li96 .always 0 7) sX (fun t => (t.core.x.pc, t.core.x.getS 0)) = some (76, 0) ∧
    look (.add .always 3 9 2) sX (fun t => (t.core.x.pc, t.core.x.getS 3)) = some (64, 0) := by decide +kernel

/-- R158, R160: -16 < 5 as signed and not as unsigned numbers; the pair takes both old values first. -/
theorem test_predicates :
    look (.cmp .always 2 0 3 4 1 2 false 0) sX (fun t => t.core.x.p) = some 0x8A ∧
    look (.cmp .always 4 0 3 4 1 2 false 0) sX (fun t => t.core.x.p) = some 0x92 ∧
    look (.cmp .always 0 2 1 2 2 0 true 5) sX (fun t => t.core.x.p) = some 0x82 ∧
    look (.plogAndn .always 2 1 3) sX (fun t => t.core.x.p) = some 0x86 ∧
    look (.plogXnor .always 7 1 3) sX (fun t => t.core.x.p) = some 0x82 := by decide +kernel

/-- X with s1 = 1.0, s2 = 2.0 and s4 = 2^-60 in F64, and every flag enabled when `on`. -/
def sF (on : Bool) : State := core0 fun c => { c with
  task := some task0
  x := { ({ c.x with pc := 64 } : XState).setS 1 0x3FF0000000000000 |>.setS 2 0x4000000000000000 |>.setS 4 0x3C30000000000000 with
    fcr := if on then 0x3E0 else 0 } }

/-- R161-R167: exact results and formats worked out by hand: 3, -1, 4, 5, 2 - 2, the smaller, the larger, 1.0 in F32, 2, 2, 0 and the
pattern of 1.0 as a number in F32. -/
theorem test_float_results :
    ([.fadd .always 3 3 1 2, .fsub .always 3 3 1 2, .fmul .always 3 3 2 2, .ffma .always false false 3 3 2 2 1,
      .ffma .always true false 3 3 1 2 2, .fmin .always 3 3 1 2, .fmax .always 3 3 1 2, .fcvtFpFp .always 2 3 3 1,
      .fcvtFpI64 .always 3 3 2, .fcvtFpU64 .always 3 3 2, .fcvtI64Fp .always 3 3 0, .fcvtU64Fp .always 2 3 1].map
        fun i => look i (sF true) fun t => t.core.x.getS 3) =
    ([0x4008000000000000, 0xBFF0000000000000, 0x4010000000000000, 0x4014000000000000, 0, 0x3FF0000000000000, 0x4000000000000000,
      0x3F800000, 2, 2, 0, 0x5E7FC000] : List W64).map some := by decide +kernel

/-- R162: 1 + 2^-60 is inexact: NX is set and 1.0 written, or with the flag enabled the word traps and writes nothing. -/
theorem test_float_trap :
    look (.fadd .always 3 3 1 4) (sF false) (fun t => (t.core.x.getS 3, t.core.x.fsr, t.core.x.pc)) = some (0x3FF0000000000000, 1, 68) ∧
    look (.fadd .always 3 3 1 4) (sF true) (fun t => (t.core.x.getS 3, t.core.x.fsr, t.core.x.pc)) = some (0, 0, 400) ∧
    look (.fadd .always 3 3 1 4) (sF true) (fun t => (t.core.trap.tcause, t.core.trap.tepc, t.core.trap.tinfo0, t.core.trap.tinfo1)) =
      some (0x20, 64, 1, 64) ∧
    look (.fcmp .always 1 0 3 3 4 1 2) (sF true) (fun t => t.core.x.p) = some 0x88 := by decide +kernel

/-- R169-R172: two parcels back, the return address, a register target with its low bits dropped, 3 clocks to the next word. -/
theorem test_flow :
    ([.br32 .always 0x3FE, .br64 .always 0xFFFE, .br96 .always 0xFFFFFFFE, .call32 .always 3, .call64 .always 3, .call96 .always 3,
      .jmpr .always 2, .ret .always, .nop32 .always, .nop64 .always, .nop96 .always, .br32 ⟨true, 7⟩ 3].map
        fun i => look i (atClock 10 sX) fun t => (t.core.x.pc, t.core.x.getS 30, t.core.x.ready)) =
    ([(56, 0, 13), (56, 0, 13), (56, 0, 13), (76, 68, 13), (76, 72, 13), (76, 76, 13), (4, 0, 13), (0, 0, 13), (68, 0, 11),
      (72, 0, 11), (76, 0, 11), (68, 0, 11)] : List (W32 × W64 × Nat)).map some := by decide +kernel

/-- R174-R176, R180: what a scalar access posts: s2 + 3 = 8 aligned to 4 and to 2, and a semaphore index. -/
theorem test_scalar_accesses :
    ([.lds .always 3 2 2 true 3, .lds ⟨true, 7⟩ 3 2 2 true 3, .sts .always 2 1 1 4, .semadd .always 2 1 0xFFFB].map
        fun i => look i (atClock 10 sX) fun t => (t.core.x.pend.drop 1, t.core.x.pc)) =
    ([([.load 3 8 4 true none], 72), ([.skip 3 10], 72), ([.store 8 2 0xFFFFFFFFFFFFFFF0], 72), ([.semadd 0 0xFFFFFFFFFFFFFFF0], 72)] :
      List (List Posted × W32)).map some ∧
    look (.semadd .always 2 1 4091) (core0 fun c => { c with task := some task0, x := c.x.setS 2 5 })
      (fun t => (t.core.trap.tcause, t.core.trap.tinfo0)) = some (0x42, 4096) ∧
    look (.semadd .always 2 1 4091) sX (fun t => (t.core.trap.tcause, (t.core.task.bind (·.stop)).isSome)) = some (0, true) := by
  decide +kernel

/-- R24, R174: in X's position of clock 6 the oldest access is served from bytes 16-23, and completes 4 clocks later. -/
theorem test_load_served :
    let c := { sX.core with sp := [(16, 0x34), (17, 0x12)] }
    (c.clocked 6).x.pend = [.load 9 16 8 false (some (0x1234, 10))] ∧ (c.clocked 14).x.pend = c.x.pend ∧
    look .ldsComplete (atClock 10 (core0 fun _ => c.clocked 6)) (fun t => (t.core.x.getS 9, t.core.x.lc)) = some (0x1234, 0) := by
  decide +kernel

/-- X with tags 3 and 5 ready, s1 = 0x28, an entry of queue 5 written at clock 3, and semaphore 7 at 2. -/
def sW : State := atClock 6 (core0 fun c => { c with
  task := some task0
  x := { ({ c.x with pc := 64 } : XState).setS 1 0x28 |>.setS 2 2 |>.setS 4 3 with wait := none }
  tagr := 0x28
  q := vset c.q 5 [.entry 99 3 0]
  sp := [(0x3E0038, 2)] })

/-- R177-R184, R196: each blocking word of X whose condition holds acts, reports true in p3 and goes on; the tag it answers, the value it
removes, the count it takes, the entry and the invocation it appends. -/
theorem test_waits_of_X :
    (([.waitlc64 .always 0 3 0, .waitlc96 .always 0 3 0, .tagwait64 .always 3 1 true true 3 0, .tagwait96 .always 3 1 false false 3 0,
      .qput64 .always 1 1 3 0, .qput96 .always 1 1 3 0, .qget64 .always 5 3 3 0, .qget96 .always 5 3 3 0,
      .semwait64 .always 0 2 7 true 3 0, .semwait96 .always 0 2 7 false 3 0, .txgo64 .always 1 9 3 0, .txgo96 .always 1 9 3 0] :
      List Instr).map fun i => look i sW fun t => (t.core.x.pc, t.core.x.p, t.core.x.getS 3)) =
    ([(72, 0x88, 0), (76, 0x88, 0), (72, 0x88, 0x28), (76, 0x88, 0x28), (72, 0x88, 0), (76, 0x88, 0), (72, 0x88, 99), (76, 0x88, 99),
      (72, 0x88, 0), (76, 0x88, 0), (72, 0x88, 0), (76, 0x88, 0)] : List (W32 × BitVec 8 × W64)).map some := by decide +kernel

theorem test_waits_of_X_effects :
    look (.tagwait64 .always 3 1 true true 3 0) sW (fun t => t.core.tagr) = some 0 ∧
    look (.tagff .always 3 1 true) sW (fun t => (t.core.x.getS 3, t.core.tagr)) = some (3, 0x20) ∧
    look (.qput64 .always 1 1 3 0) sW (fun t => vget t.core.q 1 []) = some [.entry 0x28 6 0] ∧
    look (.qget64 .always 5 3 3 0) sW (fun t => vget t.core.q 5 []) = some [] ∧
    look (.semwait64 .always 0 2 7 true 3 0) sW (fun t => t.core.sem 7) = some 0 ∧
    look (.txgo64 .always 1 9 3 0) sW (fun t => t.coreEngine.invq) = some [(9, 0x28)] := by decide +kernel

/-- R43, R178: with a condition that does not hold, code 0 reports false and goes on, code 1 waits from this clock. -/
theorem test_waits_of_X_unmet :
    look (.semwait64 .always 0 4 7 true 7 0) sW (fun t => (t.core.x.pc, t.core.sem 7)) = some (72, 2) ∧
    look (.semwait64 .always 0 4 7 true 3 1) sW (fun t => (t.core.x.pc, t.core.x.wait)) =
      some (64, some ⟨.semwait64 .always 0 4 7 true 3 1, 6, some 1⟩) ∧
    look (.qget64 .always 6 3 3 0) sW (fun t => (t.core.x.pc, t.core.x.p)) = some (72, 0x80) := by decide +kernel

/-- R100, R195: core 0 of die 0 of package 0: its own window in global form and back; the classes of four addresses. -/
theorem test_addresses :
    let s (v : W64) : State := core0 fun c => { c with x := c.x.setS 1 v }
    look (.apcvtGlob .always 3 1) (s 0xFF00000000001234) (fun t => t.core.x.getS 3) = some 0xFE00000000001234 ∧
    look (.apcvtOwn .always 3 1) (s 0xFE0000FF00001234) (fun t => t.core.x.getS 3) = some 0xFF00000000001234 ∧
    look (.apcvtGlob .always 3 1) (s 0x1234) (fun t => t.core.x.getS 3) = some 0xFFFFFFFFFFFFFFFF := by decide +kernel

/-- R146-R150, R192: `cyc`, a write of `fsr` that keeps six bits, set and clear, and the old value answered. -/
theorem test_csr :
    look (.csrr .always 3 0x102) (atClock 10 sX) (fun t => t.core.x.getS 3) = some 10 ∧
    look (.csrw .always 3 1 0x002) sX (fun t => (t.core.x.fsr, t.core.x.getS 3)) = some (0x30, 0) ∧
    look (.csrwSet .always 3 2 0x105) sX (fun t => (t.core.tagr, t.core.x.getS 3)) = some (5, 0) ∧
    look (.csrwSet .always 3 2 0x002) sX (fun t => t.core.x.fsr) = some 5 ∧
    look (.csrwClr .always 3 2 0x006) sX (fun t => (t.core.x.p, t.core.x.getS 3)) = some (0x82, 0x82) := by decide +kernel

/-- R185, R186, R193, R194: fences of a core with nothing outstanding; TRAP enters the handler; TRET there goes back to its word. -/
theorem test_fence_trap_return :
    ([.fenceFull .always 3, .fenceRelease .always 2, .fenceAcquire .always 0].map fun i => look i sW fun t => t.core.x.pc) =
      [some 68, some 68, some 68] ∧
    look (.fencesc .always) sW (fun t => (t.core.x.pc, t.core.x.wait.isSome, t.core.x.fsc)) = some (64, true, none) ∧
    look (.fencesc .always) sW (fun t => ((t.mc.noteFence 6 0).core 0).x.fsc) = some (some 6) ∧
    look (.trap .always 77) sW (fun t => (t.core.x.pc, t.core.trap.tcause, t.core.trap.tinfo0, t.core.trap.hm)) =
      some (400, 3, 77, true) ∧
    look (.tret .always) (sW.put (sW.mc.takeTrap sW.ctl 0 ⟨3, 0, 64, 77, 0⟩)) (fun t => (t.core.x.pc, t.core.trap.hm)) =
      some (64, false) := by decide +kernel

/-- R134, R139: DONE with nothing outstanding, then TASK_RETIREMENT: the core is free. -/
theorem test_task_ends :
    look (.done .always) sW (fun t => (t.core.inDone, t.core.task.map (·.vstop))) = some (true, some true) ∧
    ((look (.done .always) sW id).bind fun t => look .taskRetirement t fun u => u.core.task) = some none ∧
    look (.yield .always) sW (fun t => t.core.x.pc) = some 68 := by decide +kernel

/-- Page tables of ASID 0 whose addresses below 2 MiB lie on one 2 MiB page at 0x200000 of home 0, partition 0 with every core. -/
def sPg : State := State.reset.put { State.reset.mc with
  roots := vset State.reset.mc.roots 0 0x1001
  mem := Cells.wr (Cells.wr (Cells.wr [] 0x1000 8 0x2001) 0x2000 8 0x3001) 0x3000 8 0x200003
  parts := vset State.reset.mc.parts 0 { Partition.init with conf := some { (default : PartConf) with cores := 2 ^ 320 - 1, moorQ := 64 }, asids := [0] } }

/-- The fields of a vector word under the guard "always" with the lanes of m1 active. -/
def vw (d a b c : Reg4) (fn fmt : BitVec 4) (sa sb sc : Byte) (imm : W32) : VArgs :=
  ⟨.always, d, a, b, c, fn, fmt, 1, false, sa, sb, sc, imm⟩

/-- The step acts for a vector sequencer of core 0. -/
def forV (q : VSeq) (s : State) : State := { s with ctl := { s.ctl with curV := q } }

/-- C of core 0: v1's lane n holds n, v2's holds 3 in every lane, v4's -2.0 and v5's 1.5 in F32; m1 is 1 in lanes 5 and 70. -/
def sC : State := forV .c (core0 fun c => { c with
  task := some task0
  c := ({ c.c with pc := 64 } : VState).setK 1 0x100000003
  v := vset (vset (vset (vset c.v 1 (tab 1024 fun n => BitVec.ofNat 32 n)) 2 (tab 1024 fun _ => 3)) 4 (tab 1024 fun _ => 0xC0000000)) 5
    (tab 1024 fun _ => 0x3FC00000)
  m := vset c.m 1 (BitVec.ofNat 1024 (2 ^ 5 + 2 ^ 70)) })

/-- Lanes (0, 5) and (1, 6) of v3 after a step. -/
def v3 (i : Instr) : Option (W32 × W32) := look i sC fun t => (lane (t.core.tile 3) 5, lane (t.core.tile 3) 70)

/-- R238, R240, R241, R248, R249: lane words worked out by hand: n + 3; n - row 0's 3s negated; -2.0 × 1.5; a rotation by one
column; the sum of the active lanes of a column. -/
theorem test_lane_words :
    v3 (.viadd (vw 3 1 2 0 0 1 0x10 0x10 0 0)) = some (8, 73) ∧
    v3 (.visub (vw 3 1 2 0 0 1 0x10 0x90 0 0)) = some (8, 73) ∧
    v3 (.vmul (vw 3 4 5 0 0 0 0x10 0x10 0 0)) = some (0xC0400000, 0xC0400000) ∧
    v3 (.vrotc (vw 3 1 0 0 0 0 0x10 0 0 1)) = some (6, 71) ∧
    v3 (.vredr (vw 3 1 0 0 0 1 0x10 0 0 0)) = some (5, 70) ∧
    look (.vcmp (vw 2 1 2 7 1 1 0x10 0x10 0 0)) sC (fun t => ((t.core.getM 2).getLsbD 5, (t.core.getM 2).getLsbD 70)) =
      some (false, false) := by decide +kernel

/-- R228: KLI, KADD and VPM. -/
theorem test_scalar_words_of_LCS :
    look (.kli (vw 2 0 0 0 0 0 0 0 0 0xFFFFFFFF)) sC (fun t => (t.core.c.getK 2, t.core.c.pc)) = some (0xFFFFFFFFFFFFFFFF, 76) ∧
    look (.kadd (vw 2 1 0 0 0 0 0 0 0 0xFFFFFFFF)) sC (fun t => t.core.c.getK 2) = some 0x100000002 ∧
    look (.kli (vw 0 0 0 0 0 0 0 0 0 9)) sC (fun t => t.core.c.getK 0) = some 0 ∧
    look (.vpm (vw 3 0 0 0 0 0 0 0 0 0)) sC (fun t => t.core.c.p) = some 0x88 ∧
    look (.vpm (vw 3 0 0 0 1 0 0 0 0 0)) sC (fun t => t.core.c.p) = some 0x80 := by decide +kernel

/-- The fields of a transfer word. -/
def tw (d s h x : Reg4) (fn : BitVec 6) (imm16 : BitVec 16) (imm64 : W64) : TArgs :=
  ⟨d, s, h, x, 0, false, 0, 0, 0, fn, 0, imm16, imm64⟩

/-- Core 0's engine with context 0 changed, which the step acts for. -/
def ctx0 (f : Ctx → Ctx) : State :=
  let s := core0 fun c => { c with task := some task0 }
  s.put (s.mc.setCtx (.core 0) 0 (f { Ctx.init with st := .running }))

/-- A context with a1 and a2 own-window addresses, a3 = 5, a4 = -3, c2 = 2. -/
def ctxRegs (x : Ctx) : Ctx := ((((x.setReg 1 0xFF00000000002000).setReg 2 0xFF00000000001000).setReg 3 5).setReg 4
  0xFFFFFFFFFFFFFFFD) |> fun x => { x with tpc := 64, c := vset x.c 2 2 }

/-- a5 and `tpc` after a step of the context. -/
def a5 (i : Instr) : Option (W64 × W32) := look i (ctx0 ctxRegs) fun t => (t.ctx.reg 5, t.ctx.tpc)

/-- R309-R313: the arithmetic of a context on 5 and -3 by hand, a literal, a branch back, a loop. -/
theorem test_context_words :
    ([.tadd64 (tw 5 3 0 4 0 0 0), .tsub64 (tw 5 3 0 4 0 0 0), .tmul64 (tw 5 3 0 4 0 0 0), .tand64 (tw 5 3 0 4 0 0 0),
      .tor64 (tw 5 3 0 4 0 0 0), .tshl64 (tw 5 3 0 0 1 66 0), .tshr64 (tw 5 4 0 0 1 60 0), .tadd128 (tw 5 3 0 0 1 0 0x100000000),
      .tli64 (tw 5 0 0 0 0 0x8000 0), .tli128 (tw 5 0 0 0 0 0 0x8000), .tbr64 (tw 0 0 0 0 0 0xFFFF 0), .tbr64 (tw 0 0 0 0 1 0xFFFF 0),
      .tbr128 (tw 0 0 0 0 2 0 2)].map a5 : List (Option (W64 × W32))) =
    ([(2, 72), (8, 72), (0xFFFFFFFFFFFFFFF1, 72), (5, 72), (0xFFFFFFFFFFFFFFFD, 72), (20, 72), (15, 72), (0x100000005, 80),
      (0xFFFFFFFFFFFF8000, 72), (0x8000, 80), (0, 56), (0, 72), (0, 80)] : List (W64 × W32)).map some ∧
    look (.tloop64 (tw 2 0 0 0 0 0xFFFE 0)) (ctx0 ctxRegs) (fun t => (vget t.ctx.c 2 0, t.ctx.tpc)) = some (1, 48) ∧
    look (.tcmp (tw 0 4 0 3 2 0 0)) (ctx0 ctxRegs) (fun t => t.ctx.flag) = some true ∧
    look (.tcmp (tw 0 4 0 3 4 0 0)) (ctx0 ctxRegs) (fun t => t.ctx.flag) = some false ∧
    look .tend (ctx0 ctxRegs) (fun t => t.ctx.st) = some .free := by decide +kernel

/-! ## Witnesses: states and operands that meet the statements' hypotheses -/

/-- The three cases of a word of X that only changes X: a true guard with its registers free, a false guard, an awaited register. -/
theorem witness_RegisterArithmetic :
    sX.xGo .always [3, 1, 2] ∧ guardHolds ⟨true, 7⟩ sX.core.x.p = false ∧
      (guardHolds .always sX.core.x.p = true ∧ [3, 9, 2].any sX.core.x.busy = true) := by
  unfold State.xGo
  decide +kernel

/-- The same for the immediate forms; a field of one bit at the top and the whole register are the limits of a bit field. -/
theorem witness_ImmediateArithmetic :
    sX.xGo .always [3, 1] ∧ guardHolds ⟨true, 7⟩ sX.core.x.p = false ∧ [9, 1].any sX.core.x.busy = true ∧
      bitFieldOk 63 1 = true ∧ bitFieldOk 0 64 = true := by
  unfold State.xGo
  decide +kernel

theorem witness_PredicateWords :
    sX.xGo ⟨false, 1⟩ [1, 2] ∧ guardHolds ⟨false, 0⟩ sX.core.x.p = false ∧ [9].any sX.core.x.busy = true := by
  unfold State.xGo
  decide +kernel

/-- 1 + 2^-60 raises NX alone: no enabled flag with `fcr` 0, an enabled one with every trap on. -/
theorem witness_FloatingPointOfX :
    let fl (s : State) : Flags := (rounds s.core.x 3 3 ((s.core.x.fpOp 3 1).add (fcrRm s.core.x.fcr) (s.core.x.fpOp 3 4))).1
    (sF false).xGo .always [3, 1, 4] ∧ (fl (sF false)).setWidth 5 &&& (sF false).core.x.fcr.extractLsb' 5 5 = 0 ∧
      (sF true).xGo .always [3, 1, 4] ∧ (fl (sF true)).setWidth 5 &&& (sF true).core.x.fcr.extractLsb' 5 5 ≠ 0 ∧
      guardHolds ⟨true, 7⟩ (sF true).core.x.p = false := by
  unfold State.xGo
  decide +kernel

theorem witness_Branches : sX.xGo .always [] ∧ sX.xGo .always [30] ∧ sX.xGo .always [1] ∧ guardHolds ⟨true, 7⟩ sX.core.x.p = false := by
  unfold State.xGo
  decide +kernel

/-- 63 loads outstanding may be joined by one more, 64 may not; semaphore 4095 is the last. -/
theorem witness_ScalarAccesses :
    let more (n : Nat) : State := core0 fun c => { c with
      x := { (c.x.setS 2 5) with pend := List.replicate n (.load 9 16 8 false none) } }
    ((more 63).core.x.lc < 64 ∧ (more 63).xGo .always [3, 2]) ∧ 64 ≤ (more 64).core.x.lc ∧
      guardHolds ⟨true, 7⟩ (more 63).core.x.p = false ∧ (more 63).xGo .always [2, 0] ∧
      ((more 63).core.x.getS 2 + (4090 : BitVec 16).signExtend 64).toNat < 4096 ∧
      4096 ≤ ((more 63).core.x.getS 2 + (4091 : BitVec 16).signExtend 64).toNat := by
  unfold State.xGo
  decide +kernel

/-- Clock 6 is X's; a lone access of each kind; a load served in clock 6 completes in clock 10, a guarded-off one 5 clocks on. -/
theorem witness_ScalarAccessPerformed :
    let one (p : Posted) : State := atClock 10 (core0 fun c => { c with x := { c.x with pend := [p] } })
    6 % 8 = 6 ∧ 6 / 8 % 2 = 0 ∧ (one (.load 9 16 8 false none)).core.x.pend = [.load 9 16 8 false none] ∧
      (one (.store 0x3E7FFF 1 7)).core.x.pend = [.store 0x3E7FFF 1 7] ∧ (one (.semadd 4095 7)).core.x.pend = [.semadd 4095 7] ∧
      (one (.load 9 16 8 false (some (7, 10)))).core.x.pend = [.load 9 16 8 false (some (7, 10))] ∧ 10 ≤ (one (.skip 9 5)).ctl.cyc ∧
      (one (.skip 9 5)).core.x.pend = [.skip 9 5] ∧ 5 + 4 < (one (.skip 9 5)).ctl.cyc ∧
      (one (.skip 9 5)).core.x.lastDone < (one (.skip 9 5)).ctl.cyc ∧ (one (.skip 9 6)).ctl.cyc ≤ 6 + 4 := by decide +kernel

/-- WAITLC and TAGWAIT that hold and do not; QPUT to a queue with 15 entries and with 16; QGET of an entry from an earlier clock and
from this one; a false guard. -/
theorem witness_WaitsOfX :
    let full (n : Nat) : State := core0 fun c => { c with q := vset c.q 1 (List.replicate n (.entry 0 0 0)) }
    let c := sW.core
    guardHolds .always c.x.p = true ∧ c.x.wait = none ∧ c.x.lc ≤ 0 ∧ ¬sX.core.x.lc ≤ 0 ∧ sX.core.x.wait = none ∧
      [3, 1].any c.x.busy = false ∧ c.tagr &&& c.x.getS 1 = c.x.getS 1 ∧ c.tagr &&& c.x.getS 2 = 0 ∧
      c.x.pend.any Posted.unserved = false ∧ ((vget (full 15).core.q 1 []).filter QItem.isEntry).length < 16 ∧
      ¬((vget (full 16).core.q 1 []).filter QItem.isEntry).length < 16 ∧ vget c.q 5 [] = [.entry 99 3 0] ∧ 3 < sW.ctl.cyc ∧
      ¬3 < (atClock 3 sW).ctl.cyc ∧ guardHolds ⟨true, 7⟩ c.x.p = false ∧ (vget c.q 1 []).any QItem.isEntry = false ∧
      ([.fcr 1, .srkey 2] : List QItem).any QItem.isEntry = false := by decide +kernel

/-- SEMWAIT for 2 of semaphore 7, which holds 2, and for 3; at index 4095 and beyond it; TXGO with 15 and with 16 queued. -/
theorem witness_SemwaitAndTxgoOfX :
    let c := sW.core
    let inv (n : Nat) : State := State.reset.put (State.reset.mc.setEngine (.core 0) { Engine.init with invq := List.replicate n (0, 0) })
    guardHolds .always c.x.p = true ∧ c.x.wait = none ∧ [0, 2].any c.x.busy = false ∧ (c.x.getS 0 + (7 : BitVec 16).signExtend 64).toNat < 4096 ∧
      (sW.ctl.cyc % 8 = 6 ∧ sW.ctl.cyc / 8 % 2 = 0 ∧ c.x.pend.any Posted.unserved = false) ∧ c.sem 7 = 2 ∧
      (c.x.getS 2).toNat % 2 ^ 32 = 2 ∧ (c.x.getS 4).toNat % 2 ^ 32 = 3 ∧ (c.x.getS 0).toNat % 2 ^ 32 = 0 ∧
      (c.x.getS 0 + (4095 : BitVec 16).signExtend 64).toNat < 4096 ∧ 4096 ≤ (c.x.getS 0 + (4096 : BitVec 16).signExtend 64).toNat ∧
      (inv 15).coreEngine.invq.length < 16 ∧ ¬(inv 16).coreEngine.invq.length < 16 ∧
      (c.task.map fun t => t.desc.codeLen - t.desc.moveOff) = some (2 ^ 18 - 4096) := by decide +kernel

/-- Every input of the conversions: an own-window address, a global one of this core with package 0xFF, one of another window. -/
theorem witness_TagsAndAddresses :
    sX.xGo .always [3, 1] ∧ (0xFF000000003FFFFF : W64).toNat / 2 ^ 22 = 0xFF00 * 2 ^ 26 ∧
      (0xFE0000FF003FFFFF : W64) = BitVec.ofNat 64 (0xFE * 2 ^ 56 + 0xFF * 2 ^ 32 + 0 / 40 * 2 ^ 28 + 0 % 40 * 2 ^ 22 + 0x3FFFFF) ∧
      (0x3FFFFF : Nat) < 2 ^ 22 ∧ (0x1234 : W64).toNat / 2 ^ 40 ≠ 0xFE0000 ∧ guardHolds ⟨true, 7⟩ sX.core.x.p = false ∧
      sW.core.tagr &&& sW.core.x.getS 4 = 0 ∧ sW.core.tagr &&& sW.core.x.getS 1 ≠ 0 := by
  unfold State.xGo
  decide +kernel

/-- A write of completed command 7 of context 1 of core 0's engine, on its way to the core's scratchpad. -/
def post0 : Post where
  ctx := 1
  id := 7
  vc := 0
  addr := 0xFF00000000002000
  parts := [(spKey 0 0x2000, 4)]
  sh := 0
  width := 32
  val := 9
  upd := 0
  ep := 0
  done := some 0
  told := false
  born := 0

/-- The state with the posted writes of core 0's engine. -/
def posted (l : List Post) (s : State) : State := s.put (s.mc.setEngine (.core 0) { s.mc.engine (.core 0) with posts := l })

/-- A fence that passes and one that waits for a posted access, a load or a command's write; FENCESC with nothing left to perform and
with a posted access; its end at clock 96 and not at clock 95. -/
theorem witness_FencesOfX :
    let held : State := atClock 96 (core0 fun c => { c with x := { c.x with wait := some ⟨.fencesc .always, 6, none⟩, fsc := some 6 } })
    (guardHolds .always sW.core.x.p = true ∧ sW.core.x.pend.any Posted.unserved = false ∧ sW.core.x.lc = 0 ∧
      sW.coreEngine.posts = [] ∧ sW.core.lastQ6 ≤ sW.core.emit.freed) ∧
    (sX.core.x.pend.any Posted.unserved = true ∧ sX.core.x.lc ≠ 0 ∧ (posted [post0] sW).coreEngine.posts = [post0] ∧
      post0.done.isSome = true ∧ post0.awaited (.core 0) 0 = true ∧ ({ post0 with told := true } : Post).told = true) ∧
    sW.core.x.wait = none ∧
    (let f (s : State) : State := s.putCore { s.core with x := { s.core.x with wait := some ⟨.fencesc .always, 6, none⟩ } }
     (f sW).core.x.wait = some ⟨.fencesc .always, 6, none⟩ ∧ (f sW).core.x.fsc = none ∧ (f sW).mc.scDrained sW.ctl.cur = true ∧
       (f sX).core.x.wait = some ⟨.fencesc .always, 6, none⟩ ∧ (f sX).mc.scDrained sX.ctl.cur = false) ∧
    (held.core.x.wait = some ⟨.fencesc .always, 6, none⟩ ∧ held.core.x.fsc = some 6 ∧ held.ctl.cyc % 96 = 0 ∧ 6 < held.ctl.cyc) ∧
    (atClock 95 held).ctl.cyc % 96 ≠ 0 ∧ guardHolds ⟨true, 7⟩ sW.core.x.p = false := by decide +kernel

theorem witness_ControlRegisters : sX.xGo .always [3, 1] ∧ guardHolds ⟨true, 7⟩ sX.core.x.p = false ∧ csrAssigned 0x102 = true := by
  unfold State.xGo
  decide +kernel

/-- A handler's state: HM set by a trap of L, source 1. -/
def sH : State := sW.put (sW.mc.takeTrap sW.ctl 0 ⟨3, 1, 64, 77, 0⟩)

theorem witness_TrapAndReturn :
    (guardHolds .always sH.core.x.p = true ∧ sH.core.trap.hm = true ∧ sH.core.trap.tsrc.toNat < 4 ∧ sH.coreEngine.pendFault = none) ∧
    (guardHolds .always sW.core.x.p = true ∧ sW.core.trap.hm = false) ∧ guardHolds ⟨true, 7⟩ sW.core.x.p = false := by decide +kernel

/-- Core 0 with a transfer fault of context 2 pending. -/
def sPF : State := sW.put (sW.mc.setCtx (.core 0) 2 { Ctx.init with st := .stopped, fault := some ⟨0x12, 5, 6⟩ })

/-- The trap that L raises, one that X raises; a state in which the former waits for X's load, or for the end of the task. -/
def trapL : Trap := ⟨3, 1, 64, 77, 0⟩
def trapX : Trap := ⟨3, 0, 64, 77, 0⟩
def sStop (s : State) (ends : Bool) : State := s.putCore { s.core with task := some { task0 with stop := some ⟨trapL, ends⟩ } }

theorem witness_TakingTraps :
    (sW.core.task = some task0 ∧ task0.desc.handler ≠ 0xFFFF ∧ sW.core.trap.hm = false ∧ trapL.src.toNat < 4 ∧ task0.stop = none) ∧
    (sX.core.task = some task0 ∧ sX.core.x.pend ≠ [] ∧ sX.core.trap.hm = false ∧ sW.core.x.pend = []) ∧
    (∀ ends ∈ [false, true], (sStop sW ends).core.task = some { task0 with stop := some ⟨trapL, ends⟩ } ∧ (sStop sW ends).core.x.pend = [] ∧
      (sStop sX ends).core.x.pend ≠ []) ∧
    sH.core.trap.hm = true ∧ trapX.src = 0 ∧ State.reset.core.task = none ∧ sW.coreEngine.pendFault = none ∧
    ((sStop sW true).core.wordsDone = true ∧ (sStop sW true).mc.mayEnd 6 0 { task0 with stop := some ⟨trapL, true⟩ } = true ∧
      (sStop sX true).core.wordsDone = false) ∧
    (sPF.core.trap.hm = false ∧ sPF.core.task = some task0 ∧ sPF.core.x.launch = none ∧ sPF.core.x.pend = [] ∧
      sPF.coreEngine.pendFault = some ((2 : Fin 4).val, ⟨0x12, 5, 6⟩)) := by
  decide +kernel

/-- LAUNCH at depth 24, below it with and without an access to perform, and with a result that has come; YIELD with nobody to yield to,
and with a task of the same priority that no other core is free for. -/
theorem witness_TaskWordsOfX :
    let deep : State := core0 fun c => { c with task := some { task0 with depth := 24 } }
    let back : State := core0 fun c => { c with x := { c.x with launch := some ⟨3, 4, 0⟩ } }
    (deep.xGo .always [3, 1] ∧ deep.core.x.launch = none ∧ deep.core.task = some { task0 with depth := 24 }) ∧
    (sW.xGo .always [3, 1] ∧ sW.core.x.launch = none ∧ sW.core.task = some task0 ∧ task0.depth ≠ 24 ∧
      sW.core.x.pend.any Posted.unserved = false ∧ sW.coreEngine.posts = [] ∧
      sW.core.lastQ6 ≤ sW.core.emit.freed ∧ sW.core.lastSem ≤ sW.core.emit.freed ∧ sW.mc.mayEnqueue sW.ctl.cyc (launchRank 0) = true ∧
      (let child := (sW.mc.setEngine (.core 0) sW.toldEngine).launchChild sW.ctl.cyc 0 task0
       (child (sW.core.x.getS 1)).2.toOption = some 3 ∧ (child 0xFF00000000002000).2.toOption = none)) ∧
    (sX.xGo .always [3, 1] ∧ sX.core.x.launch = none ∧ sX.core.x.pend.any Posted.unserved = true) ∧
    back.core.x.launch = some ⟨3, 4, 0⟩ ∧
    (let y := known [tk 1 4 .bound] sW
     let peer : Task := { tk 2 4 .ready with desc := { task0.desc with affinity := 1 } }
     let e : State := known [tk 1 4 .bound, peer] (sPg.put { sPg.mc.setCore 0 sW.core with
       parts := vset sPg.mc.parts 0 { Partition.init with conf := some { (default : PartConf) with cores := 1 } } })
     guardHolds ⟨true, 7⟩ y.core.x.p = false ∧ guardHolds .always y.core.x.p = true ∧ y.core.task = some task0 ∧
      y.core.inYield = false ∧ y.mc.taskOf task0.tid = some (tk 1 4 .bound) ∧
      0 ∉ (y.mc.preemptFor (some 1) (y.mc.passedOver 0)).preReqs ∧ e.core.task = some task0 ∧
      e.mc.taskOf task0.tid = some (tk 1 4 .bound) ∧ 0 ∉ e.mc.preReqs ∧ 0 ∈ (e.mc.preemptFor (some 1) (e.mc.passedOver 0)).preReqs) := by
  unfold State.xGo
  decide +kernel

/-- Core 0 after DONE, with nothing outstanding. -/
def sD : State :=
  match exec (.done .always) sW with
  | .next t => t
  | .fault _ => sW
  | .refused _ => sW

/-- Everything a retirement waits for is over; a task that has not executed DONE; a status record at an address the system cannot
reach, and at one on a page. -/
theorem witness_EndOfTask :
    let c := sD.core
    let g := sD.coreEngine
    (c.task.isSome = true ∧ (c.task.map (·.doneIssued)) = some true ∧ c.inDone = true ∧ g.invq = [] ∧
      ((List.range 4).all fun i => (g.ctx (Fin.ofNat 4 i)).st == .free && (g.ctx (Fin.ofNat 4 i)).fault.isNone) = true ∧
      c.emit.count = 0 ∧ c.mat.queue = [] ∧ c.mat.port = [] ∧ c.mat.run = none ∧ c.x.pend = [] ∧ c.s.store = none ∧ c.emit.todo = [] ∧
      g.posts = [] ∧ (c.task.all fun b => b.stop.isNone && !sD.mc.recordHeld sD.ctl.cyc b &&
        sD.mc.mayIncrement sD.ctl.cyc b.desc.doneSem (sD.mc.incTag b.tid)) = true) ∧
    sW.core.inDone = false ∧ sX.core.x.pend ≠ [] ∧
    (State.reset.mc.accessPlaces (Access.system 0 0) .write (0x1000 + 0x10) 48 = []) ∧
    (State.reset.mc.writeAt (Access.system 0 0) (0 + 0x10) 48 1).2.isSome = true ∧
    (sPg.mc.writeAt (Access.system 0 0) (0x1000 + 0x10) 48 1).2 = none := by decide +kernel

/-- A ring block of 4 slots of 64 bytes at 0x1000 with the state and counts given; EXT as `ext` says. -/
def ringBlk (st head tail claim : Nat) (ext : Bool) : Nat :=
  0x1000 + 64 * 2 ^ 32 + 2 * 2 ^ 64 + st * 2 ^ 72 + cond ext 1 0 * 2 ^ 80 + head * 2 ^ 96 + tail * 2 ^ 128 + claim * 2 ^ 160

/-- L with ring 3 holding a block, k1 = 3, k2 = 1024. -/
def sR (cyc b : Nat) : State := atClock cyc (forV .l (core0 fun c => { c with
  task := some task0, l := (c.l.setK 1 3).setK 2 1024, sp := c.sp.wr (ringOff 3) 32 b }))

/-- A wait of X that may time out at clock 262 and not at clock 261, and a wait of L that is looked at again. -/
def sWait (cyc : Nat) (w : Instr) : State :=
  let s := atClock cyc (core0 fun c => { c with task := some task0, x := { c.x with wait := some ⟨w, 6, some 1⟩ } })
  { s with ctl := { s.ctl with occ := { s.ctl.occ with waiter := .seq 0 .x } } }

theorem witness_WaitsEnd :
    (∀ w ∈ [Instr.waitlc64 .always 3 7 1, .semwait64 .always 1 2 0 false 7 1, .tagwait64 .always 3 1 false false 7 1,
        .qput64 .always 1 1 7 1, .qget64 .always 5 3 7 1],
      (sWait 262 w).core.x.wait = some ⟨w, 6, some 1⟩ ∧ (sWait 262 w).ctl.occ.waiter = .seq 0 .x ∧
      (sWait 262 w).core.task = some task0 ∧ task0.running = true ∧ 6 + 256 * 1 ≤ (sWait 262 w).ctl.cyc ∧
      (sWait 261 w).ctl.cyc < 6 + 256 * 1) ∧
    sW.core.waiting .x = none ∧ task0.vstop = false ∧ task0.stop = none ∧ ({ task0 with running := false } : Bound).running = false ∧
    (let s := core0 fun c => { c with task := some task0, l := { c.l with wait := some ⟨.qgetVw default, 6, some 1⟩ } }
     s.core.waiting .l = some (.qgetVw default)) ∧
    (let s := sR 5 (ringBlk 0 1 5 0 false)
     vPosition .l 5 = true ∧ s.ctl.cyc < 1 + 256 * (vw 3 1 0 0 0 0 0 0 0 1).imm.toNat ∧ (s.core.k .l 1).toNat < 1024 ∧
       ringCheck (s.core.ring 3) = none ∧ 1 ≤ ringFilled (s.core.ring 3)) := by decide +kernel

/-- L with a LOOPN of one body word, of 12 bytes, before it and one of two, the second of which is a LOOPN. -/
def sLoop : State := forV .l (core0 fun c => { c with
  task := some task0
  l := (({ c.l with pc := 0 } : VState).setK 1 0x801).setK 2 0x400
  istore := c.istore.wr 12 24 (0x106A + 2 ^ 96 * 0x00FE) })

/-- At the body's end of a nest of three levels: the innermost has a pass left; the innermost is done and the next is not; all are done. -/
def nest (count : List Nat) : VState := { VState.init with pc := 12, loop := some ⟨0, 24, [2, 3, 4], count⟩ }

theorem witness_LoopPasses :
    (∀ c ∈ [[0, 2, 3], [1, 1, 3], [1, 2, 3]], (nest c).pc + BitVec.ofNat 32 12 = 24 ∧ c.length = [2, 3, 4].length) ∧
    ((nest [1, 1, 3]).next 5 12).loop.map (·.count) = some [0, 2, 3] ∧ ((nest [1, 2, 3]).next 5 12).loop = none ∧
    ((nest [0, 2, 3]).next 5 12).loop.map (·.count) = some [1, 2, 3] := by decide +kernel

theorem witness_ScalarsAndLoopsOfLCS :
    let stop := sLoop.core.vEnd .l
    let body (n : Nat) := bodyEnd sLoop.core.istore stop n 12
    let bounds (v : W64) := (List.range 2).map fun j => v.toNat / 2 ^ (10 * j) % 1024
    sLoop.vGo .always ∧ body 1 = some (24, false) ∧ body 2 = some (36, true) ∧ bodyEnd sLoop.core.istore 20 2 12 = none ∧
      (∀ x ∈ bounds 0x801, x ≠ 0) ∧ (∃ x ∈ bounds 0x400, x = 0) ∧ guardHolds ⟨true, 7⟩ sLoop.vs.p = false ∧
      (let v : VState := { VState.init with loop := some ⟨0, 12, [2], [0]⟩ }; v.pc + 12 = 12) := by
  unfold State.vGo
  decide +kernel

/-- C with an entry in queue 4, semaphore 7 at 2, k1 = 7, k2 = 2, k3 = 4095 and k4 = 4096; clock 14 is C's, clock 6 is not. -/
def sQ (cyc : Nat) : State := atClock cyc (forV .c (core0 fun c => { c with
  task := some task0
  c := (((c.c.setK 1 7).setK 2 2).setK 3 4095).setK 4 4096
  q := vset (vset c.q 3 (List.replicate 16 (.entry 0 0 0))) 4 [.entry 99 3 0]
  sp := [(0x3E0038, 2)] }))

theorem witness_QueuesAndSemaphoresOfLCS :
    let s := sQ 14
    let c := s.core
    s.vGo .always ∧ c.ownMatrixDone .c = true ∧ s.vs.wait = none ∧ ((vget c.q 2 []).filter QItem.isEntry).length < 16 ∧
      ¬((vget c.q 3 []).filter QItem.isEntry).length < 16 ∧ vget c.q 4 [] = [.entry 99 3 0] ∧ 3 < s.ctl.cyc ∧ ¬3 < (sQ 3).ctl.cyc ∧
      c.emitting .c = false ∧
      inPosition .c 14 ∧ ¬inPosition .c 6 ∧ inPosition .l 1 ∧ inPosition .l 5 ∧ inPosition .s 2 ∧
      (s.k 1).toNat < 4096 ∧ (s.k 2).toNat % 2 ^ 32 = 2 ∧ c.sem 7 = 2 ∧ (s.k 3 + (0 : W32).signExtend 64).toNat < 4096 ∧
      4096 ≤ (s.k 4 + (0 : W32).signExtend 64).toNat ∧ guardHolds ⟨true, 7⟩ s.vs.p = false ∧
      (vget c.q 2 []).any QItem.isEntry = false ∧ ([.fcr 1] : List QItem).any QItem.isEntry = false := by
  unfold State.vGo inPosition
  decide +kernel

/-- Empty, full, part filled with a claimed slot, ended: each in good order, in a position of L and between them; a full one whose
extension may be linked, before and at the limit of the wait, and once it is kept for the extension. -/
theorem witness_Rings :
    let b (s : State) := s.core.ring (s.k 1).toNat
    let w := vw 3 1 0 0 0 0 0 0 0 1
    let x : Wait := ⟨.rwaite w, 6, some 1⟩
    let full : State := { sR 262 (ringBlk 0 1 5 0 true) with
      mc := (sR 262 (ringBlk 0 1 5 0 true)).mc.setCore 0 { (sR 262 (ringBlk 0 1 5 0 true)).core with
          l := { (sR 262 (ringBlk 0 1 5 0 true)).core.l with wait := some x } } }
    let kept : Core := { full.core with l := { full.core.l with ext := some 262 } }
    (sR 5 (ringBlk 0 0 0 0 false)).vGo .always ∧
    (ringCheck (b (sR 5 (ringBlk 0 0 0 0 false))) = none ∧ ringFilled (b (sR 5 (ringBlk 0 0 0 0 false))) = 0 ∧
      1 ≤ ringFree (b (sR 5 (ringBlk 0 0 0 0 false))) ∧ ringClaim (b (sR 5 (ringBlk 0 0 0 0 false))) = 0) ∧
    (ringCheck (b (sR 5 (ringBlk 0 1 5 0 false))) = none ∧ ringFree (b (sR 5 (ringBlk 0 1 5 0 false))) = 0 ∧
      1 ≤ ringFilled (b (sR 5 (ringBlk 0 1 5 0 false)))) ∧
    (ringCheck (b (sR 5 (ringBlk 0 1 4 1 false))) = none ∧ ringClaim (b (sR 5 (ringBlk 0 1 4 1 false))) ≠ 0) ∧
    (ringCheck (b (sR 5 (ringBlk 1 2 2 0 false))) = none ∧ ringState (b (sR 5 (ringBlk 1 2 2 0 false))) = 1) ∧
    ((sR 5 0).k 1).toNat < 1024 ∧ 1024 ≤ ((sR 5 0).k 2).toNat ∧
    (vPosition .l 5 = true ∧ vPosition .l 6 = false ∧ inPosition .l 5) ∧
    (ringState (b (sR 5 (ringBlk 2 1 5 0 false))) = 2 ∧ ringLayoutOk (b (sR 5 (ringBlk 0 1 5 0 false + 1))) = false ∧
      ringLayoutOk (b (sR 5 (ringBlk 0 1 6 0 false))) = true ∧ ringCountOk (b (sR 5 (ringBlk 0 1 6 0 false))) = false) ∧
    (full.ctl.cyc % 4 = 2 ∧ (264 % 4 = 0 ∧ full.core.pos.1 ≤ 264)) ∧ task0.stop = none ∧
    (full.core.task = some task0 ∧ task0.running = true ∧ task0.vstop = false ∧ full.core.l.ext = none ∧ (full.core.k .l w.a).toNat = 3) ∧
    ringLinkable (full.core.ring 3) = true ∧ full.core.l.wait = some x ∧ 6 + 256 * 1 ≤ full.ctl.cyc ∧ 261 < 6 + 256 * 1 ∧
    kept.l.wait = some x ∧ kept.l.ext = some 262 := by
  unfold State.vGo inPosition
  decide +kernel

/-- C with a MACCR of tiles 0-3 queued. -/
def sMaccr : State := forV .c (sC.putCore { sC.core with
  mat := { sC.core.mat with queue := [plainEntry 3 ⟨.always, 0, 0, 0, 0, 0, 0, 0⟩ 0 []] } })

/-- A lane word: free to issue; naming a tile a MACCR is to write; under a false guard; with all lanes of m7, and lane 5 of m1 alone. -/
theorem witness_LaneIntegers :
    sC.vGo .always ∧ sC.core.maccrPending [3, 1, 2] = false ∧ sMaccr.core.maccrPending [3, 1, 2] = true ∧ guardHolds ⟨true, 7⟩ sC.vs.p = false ∧
      (0 : Flags).setWidth 5 &&& sC.vs.fcr.extractLsb' 5 5 = 0 ∧ sC.core.active (vw 3 1 2 0 0 1 0x10 0x10 0 0) 5 = true ∧
      sC.core.active (vw 3 1 2 0 0 1 0x10 0x10 0 0) 6 = false := by
  unfold State.vGo
  decide +kernel

/-- C with every floating-point trap enabled. -/
def sCe : State := sC.putCore { sC.core with c := { sC.core.c with fcr := 0x3E0 } }

theorem witness_LaneFloatArithmetic :
    sC.vGo .always ∧ sC.core.maccrPending [5, 4, 5] = false ∧
      (1 : Flags).setWidth 5 &&& sC.vs.fcr.extractLsb' 5 5 = 0 ∧ (1 : Flags).setWidth 5 &&& sCe.vs.fcr.extractLsb' 5 5 ≠ 0 ∧
      guardHolds ⟨true, 7⟩ sC.vs.p = false := by
  unfold State.vGo
  decide +kernel

/-- FMT 0 and 1 for the words that differ by it, the last row and column of a broadcast, both functions of VPERM. -/
theorem witness_LaneSelectionAndMovement :
    sC.vGo .always ∧ sC.core.maccrPending [5, 4, 5] = false ∧
      (vw 3 1 2 0 0 1 0x10 0x10 0 0).fmt.toNat = 1 ∧ (vw 3 1 2 0 0 0 0x10 0x10 0 0).fmt.toNat ≠ 1 ∧
      (vw 3 1 0 0 0 0 0x10 0 0 15).imm.toNat < 16 ∧ (vw 3 1 0 0 0 0 0x10 0 0 63).imm.toNat < 64 ∧
      (vw 3 1 2 0 0 0 0x10 0x10 0 0).fn = 0 ∧ (vw 3 1 2 0 1 0 0x10 0x10 0 0).fn ≠ 0 := by
  unfold State.vGo
  decide +kernel

theorem witness_MasksOfC :
    sC.vGo .always ∧ sC.core.maccrPending [5, 4, 5] = false ∧
      (∀ n ∈ List.range 4, (vw 3 1 0 0 (BitVec.ofNat 4 n) 0 0x10 0 0 0).fn.toNat = n) ∧
      (vw 3 1 2 0 0 1 0x10 0x10 0 0).fmt.toNat = 1 ∧ guardHolds ⟨true, 7⟩ sC.vs.p = false := by
  unfold State.vGo
  decide +kernel

/-- A source of one element a lane and of two; VQNT to the last pair of tiles. -/
theorem witness_LaneConversion :
    sC.vGo .always ∧ (vw 3 1 0 0 2 0 0x10 0 0 0).fmt.toNat ≠ 2 ∧ (vw 3 1 0 0 0 3 0x10 0 0 0).fmt.toNat = 3 ∧
      (vw 14 1 0 0 11 0 0x10 0 0 0).d.toNat < 15 ∧ sC.core.maccrPending [14, 15, 1] = false := by
  unfold State.vGo
  decide +kernel

theorem witness_LaneReductions :
    sC.vGo .always ∧ ((vw 3 1 0 0 5 1 0x10 0 0 0).fn.toNat ≤ 5 ∧ (vw 3 1 0 0 5 1 0x10 0 0 0).fmt.toNat = 1) ∧
      ((vw 3 1 0 0 2 0 0x10 0 0 0).fn.toNat ≤ 2 ∧ (vw 3 1 0 0 2 0 0x10 0 0 0).fmt.toNat ≠ 1) ∧
      (vw 3 1 0 0 3 0 0x10 0 0 0).fn.toNat ≤ 3 ∧ sC.core.maccrPending [3, 1] = false := by
  unfold State.vGo
  decide +kernel

/-- C with one U segment of operator 1 at 0x100000, k1 = 0x100000, and room for all but `n` of the pool's entries taken. -/
def sU (n : Nat) : State := sC.putCore { sC.core with
  c := sC.core.c.setK 1 0x100000
  emitTab := [(0x100000, 0x1000, 1)]
  emit := { sC.core.emit with count := 2048 - n, ports := vset sC.core.emit.ports 3 1 } }

/-- UPD of lanes 5 and 70 of v2 with room for exactly its two entries and for one; a target outside the segment; UPDF of a port with
nothing unaccepted and of one with an entry. -/
theorem witness_UpdateWords :
    let w : VArgs := vw 0 0 2 1 0 1 0x10 0x10 0x10 1
    let lanes := (List.range 1024).filter (sC.core.active w)
    (sU 2).vGo .always ∧ (sU 2).core.maccrPending [0, 0, 2, 1] = false ∧ (sU 2).core.updTrap .c w = none ∧
      (sU 2).core.emit.count + lanes.length * 1 ≤ 2048 ∧ 2048 < (sU 1).core.emit.count + lanes.length * 1 ∧
      ((sU 2).core.updTrap .c { w with imm := 2 }).isSome = true ∧ (sU 2).core.emit.ports[0] = 0 ∧ (sU 2).core.emit.ports[3] ≠ 0 ∧
      guardHolds ⟨true, 7⟩ (sU 2).vs.p = false ∧ (sU 2).core.emit.todo = [] ∧
      ((sU 2).core.emitLane .c w 5).emit.todo ≠ [] ∧ (sU 2).core.maccrPending [0, 2, 3, 1] = false := by
  unfold State.vGo
  decide +kernel

/-- A two-dimensional strided record at 0x1000 of the core's own scratchpad. -/
def recAt (fmt : Byte) (flags : BitVec 16) (b0 b1 : Nat) : Shape := { (default : Shape) with
  base := 0xFF00000000001000, fmtByte := fmt, flags := flags, rank := 2, bounds := [b0, b1, 0, 0, 0, 0]
  strides := [1, b0, 0, 0, 0, 0], rsv := true }

/-- A stream just opened from a record. -/
def strm (r : Shape) : Stream := opened r 0x800 none

/-- L with k1 = 0x800 and k2 = 0x3DFF48, g1 open, and S with g1 open, on a record that is also first in the cache. -/
def sG (q : VSeq) (r : Shape) : State := forV q (core0 fun c => { c with
  task := some task0
  l := (c.l.setK 1 0x800).setK 2 0x3DFF48
  s := (c.s.setK 1 0x800).setK 2 0x3DFF48
  cache := [⟨0x800, r⟩]
  otbase := 0x2000
  otlen := 1
  sp := Cells.wr (Cells.wr (Cells.wr [] 0x2000 16 (0xFF00000000001000 + 1 * 2 ^ 72)) 0x2010 4 1) 0x20D0 1 0x81
  gl := vset c.gl 1 (some (strm r))
  gs := vset c.gs 1 (some (strm r)) })

/-- The units that a load still has to read, having read `l`. -/
def leftOf (c : Core) (need : Core → List Nat) (l : List (Nat × List Byte)) : List Nat :=
  (need { c with sp := l.foldl (fun sp u => sp.put (64 * u.1) u.2) c.sp }).filter fun u => !l.any fun x => x.1 == u

/-- What its first position gives it. -/
def firstGo (c : Core) (need : Core → List Nat) : List (Nat × List Byte) :=
  (wheelServes (leftOf c need [])).map fun u => (u, c.sp.bytes (64 * u) 64)

/-- A load of which one position, its first, reads all there is. -/
def oneGo (c : Core) (need : Core → List Nat) : Bool := !(leftOf c need []).isEmpty && (leftOf c need (firstGo c need)).isEmpty

/-- Two lines 4 KiB apart lie in one bank: a load needs two positions, of which L's clock 5 is one and its clock 6 is none; a position
that has served another access of the core is taken. -/
theorem witness_Loads :
    let s := sG .l { recAt 0 2 1 2 with strides := [1, 1024, 0, 0, 0, 0] }
    let t := strm { recAt 0 2 1 2 with strides := [1, 1024, 0, 0, 0, 0] }
    let need (_ : Core) : List Nat := t.accessUnits 64 16
    leftOf s.core need [] = [64, 128] ∧ leftOf s.core need (firstGo s.core need) = [128] ∧
      leftOf s.core need ((firstGo s.core need) ++ [(128, [])]) = [] ∧ (vPosition .l 5 = true ∧ s.core.pos.1 ≤ 5) ∧
      vPosition .l 6 = false ∧ ¬({ s.core with pos := (6, 0) } : Core).pos.1 ≤ 5 ∧ s.core.stream .l 1 = some t ∧
      t.fault 1 64 16 true false = none := by decide +kernel

/-- The cached record opens; a zero record at the last aligned offset does not; an offset that is not aligned; entry 0 of the object
table is valid and entry 1 is past its end. -/
theorem witness_StreamsOpenAndClose :
    let s := sG .l (recAt 0 2 1 1)
    let c := s.core
    let o (r : Reg4) (i : W32) : W64 := s.k r + i.signExtend 64
    s.vGo .always ∧ ((o 1 0).toNat % 8 = 0 ∧ (o 1 0).toNat + 192 ≤ 0x3E0000) ∧ (recAt 0 2 1 1).openFault (o 1 0) = none ∧
      c.cache.find? (fun e => e.offset = (o 1 0).toNat) = some ⟨0x800, recAt 0 2 1 1⟩ ∧
      oneGo c (fun _ => unitsOf 0x800 192) = true ∧ oneGo c (fun _ => unitsOf c.otbase.toNat 209) = true ∧
      ((o 2 0xFFFFFFF8).toNat % 8 = 0 ∧ (o 2 0xFFFFFFF8).toNat + 192 ≤ 0x3E0000) ∧
      ((c.record (o 2 0xFFFFFFF8).toNat).openFault (o 2 0xFFFFFFF8)).isSome = true ∧
      ¬((o 1 4).toNat % 8 = 0 ∧ (o 1 4).toNat + 192 ≤ 0x3E0000) ∧ 0 < c.otlen.toNat ∧
      (c.sp.get (c.otbase.toNat + 208)).getLsbD 7 = true ∧ (c.record c.otbase.toNat).openFault 0 = none ∧ c.otlen.toNat ≤ 1 ∧
      guardHolds ⟨true, 7⟩ s.vs.p = false := by
  unfold State.vGo
  decide +kernel

/-- GLD of a padded 1 by 1 record passes its checks, of one without PAD it does not; a load to an operand buffer, empty or FULL. -/
theorem witness_StreamLoads :
    let s := sG .l (recAt 0 2 1 1)
    let blocked : Shape := { recAt 0 2 1 1 with bgeo := 1, strides := [0, 0, 0, 0, 0, 0] }
    let kind (t : Stream) : Bool := t.recd.layout == 0 && !t.recd.isRagged && !t.recd.zplane
    let t := strm (recAt 0 2 1 1)
    let u := strm (recAt 0 0 1 1)
    let b := strm blocked
    s.vGo .always ∧ s.core.stream .l 1 = some t ∧ t.fault 1 64 16 (kind t) false = none ∧ (u.fault 1 64 16 (kind u) false).isSome = true ∧
      b.fault 1 96 64 (b.recd.layout == 1) false = none ∧ (vget s.core.oa 0 OpBuf.init).full = false ∧ s.vs.wait = none ∧
      (OpBuf.init.fill [] [] 0).full = true ∧ s.core.stream .l 2 = none ∧ oneGo s.core (fun _ => t.accessUnits 64 16) = true ∧
      oneGo s.core (fun _ => b.accessUnits 96 64) = true := by
  unfold State.vGo
  decide +kernel

/-- A zero-plane record of one element, absent, and a ragged record of one line of one element. -/
theorem witness_PackedAndRaggedLoads :
    let z := strm (recAt 0 6 1 1)
    let r := strm { recAt 0 1 1 1 with ragged := 0x3040 }
    let s := sG .l (recAt 0 6 1 1)
    let rag := r.ragLanes (Cells.wr [] 0x3040 4 1) 1 0 0
    s.core.stream .l 1 = some z ∧ z.ended = false ∧ z.rightsBad false = none ∧ z.recd.zplane = true ∧
      z.readZp s.core.sp 16 0 0 = .ok (List.replicate 64 0) 8 ∧ (z.recd.count < z.elt + 1024 ∧ z.recd.pad = true) ∧
      (r.ended = false ∧ r.rightsBad false = none ∧ r.recd.isRagged = true) ∧
      rag.1 = [.elem 0 0] ∧ r.elemOk (r.recd.indices 0) = true ∧
      oneGo s.core (fun v => (z.zpUnits v.sp 16 0 0).eraseDups) = true ∧
      oneGo { s.core with sp := Cells.wr [] 0x3040 4 1 } (fun v => r.ragUnits v.sp) = true := by decide +kernel

/-- A padded store of one element by GST, of a zero-plane record by GSTZ, and a cursor at each of its four moves. -/
theorem witness_StreamStoresAndCursors :
    let s := sG .s (recAt 0 2 1 1)
    let t := strm (recAt 0 2 1 1)
    let z := strm (recAt 0 6 1 1)
    let kind (t : Stream) : Bool := t.recd.layout == 0 && !t.recd.isRagged && !t.recd.zplane && decide (t.recd.fmt ≤ 10)
    let r := recAt 0 0 8 2
    s.vGo .always ∧ s.core.stream .s 1 = some t ∧ t.fault 1 64 16 (kind t) true = none ∧ s.core.stream .s 2 = none ∧
      (z.recd.zplane = true ∧ z.recd.fmt ≤ 10 ∧ z.ended = false ∧ (z.recd.count < z.elt + 16 * z.recd.tileW → z.recd.pad = true) ∧
        z.rightsBad true = none ∧ (z.layZp [[7]] 0 0).2.2 = none) ∧
      (t.recd.zplane = false ∧ t.recd.isRagged = false) ∧ (1 : Flags).setWidth 5 &&& s.vs.fcr.extractLsb' 5 5 = 0 ∧
      (0 + 7 < r.bound 0 ∧ r.bound 0 ≤ 0 + 8 ∧ 0 + 1 < r.bound 1 ∧ r.bound 1 ≤ 1 + 1 ∧ 0 + 1 = r.bound 2 ∧ 0 + 1 = r.bound 3 ∧
        0 + 1 = r.bound 4 ∧ 0 + 1 = r.bound 5) := by
  unfold State.vGo
  decide +kernel

/-- L with a fibre descriptor at 0x400: one row, of positions 0 and 1, coordinates 3 and 7 below 8, in F32; f0 its row, f1 a row whose
order is broken, f2 the intersection of f0 with itself. -/
def sFib : State := forV .l (core0 fun c =>
  let d : FibDesc := ⟨0x500, 0x600, 0x700, 0, 8, 0, true⟩
  { c with
    task := some task0
    l := c.l.setK 1 0x400
    sp := Cells.wr (Cells.wr (Cells.wr (Cells.wr [] 0x400 16 (0x500 + 0x600 * 2 ^ 32 + 0x700 * 2 ^ 64)) 0x410 4 8) 0x500 8 (2 * 2 ^ 32))
      0x600 8 (3 + 7 * 2 ^ 32)
    f := vset (vset (vset c.f 0 (some (.row d 0 2 0 2 none))) 1 (some (.row d 0 2 0 1 (some 2)))) 2
      (some (.meet (.row d 0 2 0 2 none) (.row d 0 2 0 2 none) 0)) })

theorem witness_FibreWords :
    let s := sFib
    let c := s.core
    let o := s.k 1 + (0 : W32).signExtend 64
    let f := FibDesc.parse (c.sp.rd o.toNat 32)
    s.vGo .always ∧ (o.toNat % 4 = 0 ∧ o.toNat + 32 ≤ 0x3E0000 ∧ f.valid = true ∧ f.offs + 4 * f.row + 8 ≤ 0x3E0000 ∧
      c.sp.rd 0x500 4 = 0 ∧ c.sp.rd 0x504 4 = 2 ∧ (match f.scan c.sp 2 none 0 with
        | .good => true
        | _ => false) = true) ∧
      (s.k 1 + (2 : W32).signExtend 64).toNat % 4 ≠ 0 ∧ c.fibre 0 = some (.row f 0 2 0 2 none) ∧
      c.fibre 1 = some (.row f 0 2 0 1 (some 2)) ∧
      (c.fibre 2 = some (.meet (.row f 0 2 0 2 none) (.row f 0 2 0 2 none) 0) ∧
        (Fibre.meet (.row f 0 2 0 2 none) (.row f 0 2 0 2 none) 0).orderInfo = none) ∧ c.fibre 3 = none ∧
      oneGo c (fun v => (fibUnits v.sp o.toNat).eraseDups) = true ∧ oneGo c (fun v => v.valueUnits 0) = true ∧
      oneGo c (fun _ => (Fibre.row f 0 2 0 2 none).crdUnits.eraseDups) = true ∧
      oneGo c (fun _ => ((Fibre.row f 0 2 0 2 none).crdUnits ++ (Fibre.row f 0 2 0 2 none).crdUnits).eraseDups) = true ∧
      (((Fibre.row f 0 2 0 2 none).entries c.sp).take 1024).all (fun n =>
        decide (n.desc.vals + (n.pos + 1) * (fmtBits n.desc.fmt / 8) ≤ 0x3E0000)) = true := by
  unfold State.vGo
  decide +kernel

/-- The fields of a matrix word under the guard "always". -/
def mw (acc acn : BitVec 2) (ops : BitVec 160) : MArgs := ⟨.always, acc, acn, 0, 0, 0, 0, ops⟩

/-- Core 0 with accumulator 3 owned by the port and a word in it; f0 a fibre whose rows are all empty. -/
def sMat : State := forV .c (sFib.putCore { sFib.core with
  f := vset sFib.core.f 0 (some (.row ⟨0x900, 0x600, 0x700, 0, 8, 0, true⟩ 0 0 0 0 none))
  mat := { sFib.core.mat with owned := 8, port := [{ plainEntry 0 (mw 3 0 0) 0 [] with port := true }] } })

/-- A free accumulator and one the port owns; buffers of equal and of unequal kinds; two fibres that pass; the guard; MWAIT of a finished
and of a pending word. -/
theorem witness_MatrixWordsOfC :
    let c := sMat.core
    let free : Bool := guardHolds .always c.c.p && ((argAccs (mw 0 2 0)).all fun a => !c.mat.owned.getLsbD a) && c.c.wait.isNone &&
      !c.accBusy (mw 0 2 0) && decide (c.mat.queue.length < 2) && [0, 1, 2, 3].all fun t => !c.tileBusy t
    free = true ∧ pairOk (vget c.oa 0 OpBuf.init).fmt.toNat (vget c.ob 0 OpBuf.init).fmt.toNat = true ∧ pairOk 2 9 = false ∧
      (c.fibre 0).isSome = true ∧ (c.fibre 1).isSome = true ∧ c.mmasFault (mw 0 0 0) = none ∧ (mw 0 0 0).opsAt 2 2 = 0 ∧
      (3 ∈ argAccs (mw 3 0 0) ∧ c.mat.owned.getLsbD 3 = true) ∧ guardHolds ⟨true, 7⟩ c.c.p = false ∧ c.c.wait = none ∧
      oneGo c (fun v => v.mmasUnits (mw 0 0 0)) = true ∧ 7 % 4 = 3 ∧ c.portBusy (mw 0 0 0) = false ∧ c.portBusy (mw 3 0 0) = true ∧
      (mw 3 0 0).opsAt 0 32 = 0 ∧ (mw 3 0 1).opsAt 0 32 ≠ 0 := by
  decide +kernel

/-- A queued and a port's word at an idle and at a working engine, in the clock of its arrival and after it, the window with 7 and with 8
starts; a running word of each kind at its last step and past it; a direct-mode word that has read its blocks and one that has not; a
buffer-mode word whose buffers are full and one that waits for them. -/
theorem witness_MatrixEngine :
    let e (op : BitVec 6) : MEntry := plainEntry op (mw 0 0 0) 5 []
    let run (op : BitVec 6) (step : Nat) : MRun := ⟨e op, step, [(0, [])], 0, 0, none, [], [], []⟩
    let eng (idle : Bool) : MatEng := { MatEng.init with queue := [e 2], idle := idle, lastBusy := 100 }
    let viaPort : MatEng := { MatEng.init with port := [{ e 2 with port := true }] }
    let d : MEntry := { plainEntry 0 { mw 0 0 0 with mode := 1 } 5 [] with fmtBs := [0] }
    let dr (units : List (List Byte)) : MRun := ⟨d, 0, [], 0, 0, none, [], units, []⟩
    let br : MRun := ⟨{ e 0 with fmtBs := [0] }, 0, [], 0, 0, none, [], [], []⟩
    let full : OpBuf := { OpBuf.init with full := true }
    takenNext (eng false) (e 2) { eng false with queue := [] } ∧
      takenNext viaPort { e 2 with port := true } { viaPort with port := [] } ∧
      ((eng false).run = none ∧ (e 2).arrived < 6 ∧ 5 ≤ (e 2).arrived ∧ (eng true).idle = true) ∧
      (¬(100 + 1024 < (e 2).arrived) ∧ (100 / 96 = 1 ∧ 7 < 8 ∧ 8 ≤ 8)) ∧
      (d.word.op = 0 ∧ d.word.args.mode ≠ 0 ∧ 0 < d.steps ∧ (dr []).fetched = false ∧
        (dr (List.replicate (d.unitsBefore 1).length [])).fetched = true) ∧
      ((sMat.core.missing br).isSome = true ∧ ({ sMat.core with task := none } : Core).task = none ∧ 0 < br.entry.steps ∧
        ({ sMat.core with oa := vset sMat.core.oa 0 full, ob := vset sMat.core.ob 0 full } : Core).missing br = none) ∧
      MatEng.init.lastBusy + 1024 < 1025 ∧ ((mw 0 0 0).acc.toNat + (mw 0 0 0).acn.toNat < 4) ∧
      (∀ op ∈ ([2, 3, 4, 5] : List (BitVec 6)), (run op 0).entry.word.op = op ∧ (run op 0).entry.steps ≤ (e op).steps) ∧
      (run 0 0).step < (run 0 0).entry.steps ∧ (run 0 1).entry.steps ≤ (run 0 1).step ∧ (mw 0 0 12).opsAt 0 4 ≤ 12 := by
  intro e run eng viaPort d dr br full
  exact ⟨.inl ⟨[], rfl, (fun _ _ h => nomatch h), rfl⟩, .inr ⟨[], rfl, (fun _ _ h => nomatch h), rfl⟩, by decide +kernel⟩

/-- The throttle at its reset level opens every lock cycle for tile steps; at level 1 it leaves one of them closed. An idle engine with a
running word, in a window with 7 and with 8 starts. -/
theorem witness_MatrixEngine_throttle :
    (∀ tick, (tick + Config.throttlePhase) % 8 < State.reset.mc.mgmt.level) ∧
      (∃ tick, ¬(tick + Config.throttlePhase) % 8 < ({ State.reset.mc.mgmt with level := 1 } : Mgmt).level) ∧
      MatEng.init.idle = true ∧ ((0, 7) : Nat × Nat).2 < 8 ∧ ¬((0, 8) : Nat × Nat).2 < 8 := by
  refine ⟨fun tick => ?_, ⟨7 * Config.throttlePhase + 1, ?_⟩, by decide +kernel⟩
  · have h : State.reset.mc.mgmt.level = 8 := by decide +kernel
    omega
  · show ¬_ < 1
    omega

/-- A word of two accumulators whose first ended at clock 10 and whose second still runs: at clock 16 the first is written, at 15
neither. -/
theorem witness_AccumulatorsWritten :
    let r : MRun := ⟨plainEntry 0 (mw 0 1 0) 5 [], 1, [(0, [7, 8]), (1, [9])], 0, 0, none, [], [], [(0, 10)]⟩
    let c : Core := { sMat.core with mat := { sMat.core.mat with run := some r } }
    let two (cyc : Nat) := (vget (vget (c.matResults cyc).z 0 default) 1 0, vget (vget (c.matResults cyc).z 1 default) 0 0)
    c.mat.run = some r ∧ (∀ x ∈ r.work, ∀ y ∈ r.work, x.1 = y.1 → x = y) ∧ r.ends ≠ [] ∧ 10 + 6 ≤ 16 ∧ 15 < 10 + 6 ∧
      two 16 = (8, 0) ∧ two 15 = (0, 0) := by decide +kernel

/-! ### Transfer contexts -/

/-- A command in progress with the registers of `ctxRegs`. -/
def cmdOf (i : Instr) (r : Shape) (total : Nat) (vals : List Nat) : Cmd :=
  ⟨i, 7, 0, 64, (ctxRegs Ctx.init).a, true, r, r, total, 0, vals⟩

/-- Context 0 of core 0 at element `ep` of a command; the scratchpad has 0x5A at 0x1004, a semaphore of value 3 at 0x3E0038 and the
ring block number 3 with the bytes of `blk`. -/
def sCmd (c : Cmd) (ep : Nat) (blk : Nat := 0) : State :=
  let s := ctx0 fun x => { ctxRegs x with cmd := some c, ep := BitVec.ofNat 64 ep }
  s.putCore { s.core with sp := Cells.wr (Cells.wr (Cells.wr [] 0x1004 1 0x5A) 0x3E0038 8 3) 0x3E8060 32 blk }

/-- It answered. -/
def fine {α β : Type} (r : Except α β) : Bool :=
  match r with
  | .ok _ => true
  | .error _ => false

/-- It waits for a position, or for a write before it. -/
def later {α : Type} (r : Except TStop α) : Bool :=
  match r with
  | .error (.later _ .none) => true
  | _ => false

/-- It has the same element made again. -/
def again {α β : Type} (r : Except α (β × Cmd × After)) : Bool :=
  match r with
  | .ok (_, _, .again) => true
  | _ => false

/-- It is a fault. -/
def faults {α : Type} (r : Except TStop α) : Bool :=
  match r with
  | .error (.fault _ _ _) => true
  | _ => false

/-- The context's element has read some values in earlier positions. -/
def heard (l : List Nat) (s : State) : State := s.put (s.mc.setCtx (.core 0) 0 { s.mc.ctx (.core 0) 0 with again := l })

/-- It misses a translation. -/
def missed {α : Type} (r : Except TStop α) : Bool :=
  match r with
  | .error (.miss _ _) => true
  | _ => false

/-- The command is at an element: the premise of the statements about data commands. -/
def atIt (s : State) (c : Cmd) (e : Nat) : Bool := decide (s.ctx.cmd = some c ∧ c.started = true ∧ s.ctx.ep.toNat = e ∧ e < c.total)

/-- Context 0 of core 0 at its next word, with a posted write of its own to the first word of the parameter area. -/
def sHeld : State := posted [{ post0 with ctx := 0, parts := [(spKey 0 0x3F8000, 4)] }] (ctx0 ctxRegs)

/-- A context that waits for nothing, at each branch; a counter at 1; an engine with a core in a position that is free, off it, and
behind a write of its own; an engine without a core. -/
theorem witness_ContextWords :
    let s := ctx0 ctxRegs
    let x := s.ctx
    let behind (s : State) : Bool := (s.mc.engine (.core 0)).behind 0 0 8 [(spKey 0 (0x3F8000 + 0), 8)]
    x.awaits [5, 3, 4] = false ∧ ({ x with flight := [⟨1, 0, none, 0, some (5, 0)⟩] } : Ctx).awaits [5] = true ∧
      vget x.c 2 0 - 1 ≠ 0 ∧ vget (vset x.c 2 1) 2 0 - 1 = 0 ∧ s.ctl.eng = .core 0 ∧ s.ctl.cyc % 4 = 0 ∧ (atClock 3 s).ctl.cyc % 4 ≠ 0 ∧
      s.core.pos.1 ≤ s.ctl.cyc ∧ s.coreEngine.posAt ≤ s.ctl.cyc ∧ behind s = false ∧ behind sHeld = true ∧
      (∀ k, EngineId.die 0 0 ≠ .core k) ∧ x.flight = [] := by decide +kernel

/-- COPY at element 1 of 4: the second element of the source, in F32, is posted to the destination, and the next element is due; at the
last, the context goes on with the command in flight. The posted write is performed in the next position. -/
theorem test_copy_elements :
    let w := tw 1 2 0 0 0 0 0
    let c : Cmd := cmdOf (.copy w) (recAt 0 0 4 1) 4 []
    let got (ep : Nat) := look (.copy w) (sCmd c ep) fun t =>
      ((t.mc.engine (.core 0)).posts.map fun p => (firstKey p.parts, p.val), t.ctx.ep, t.ctx.tpc, t.ctx.flight.length)
    got 1 = some ([(spKey 0 0x2004, 0x5A)], 2, 64, 0) ∧ got 3 = some ([(spKey 0 0x200C, 0)], 4, 72, 1) ∧
      look (.copy w) (sCmd c 1) (fun t => ((t.mc.land 4 (.core 0) 0).core 0).sp.get 0x2004) = some 0x5A := by decide +kernel

/-- The context with a segment whose page no TLB holds: the first 64 KiB of window 0 from 0x10000 on. -/
def sSeg : State :=
  let s := ctx0 fun x => { ctxRegs x with a := vset (ctxRegs x).a 7 0x10000 }
  s.put (s.mc.setEngine (.core 0) { s.mc.engine (.core 0) with segs := [⟨0, 0x200000, 0, 7, 0x18, 0, true⟩] })

/-- A data command at an element, which is reached, or lies in no window, or on a page that no TLB holds; a context with eight commands in
flight, one whose result is awaited; a release behind a write of its context, and behind a triple; a start that goes through, one
whose record's page is missed and one that is off its position; an element off its position; a ring command that goes on with its
element; a fault that does nothing besides, one that faults a ring, and one that cannot yet. -/
theorem witness_DataCommandTurns :
    let w := tw 1 2 7 0 0 0 0
    let c := cmdOf (.copy w) (recAt 0 0 4 1) 4 []
    let bad : Cmd := { c with a := vset c.a 2 0x0300000000000000 }
    let far : Cmd := { c with a := vset c.a 2 0x10000 }
    let s₁ (c : Cmd) := (sCmd c 1).mc.access (sCmd c 1).ctl c
    let el (s : State) (c : Cmd) := (copySpec w).elem s.ctl (s.mc.access s.ctl c) s.mc c 1
    let start (s : State) (sp : CmdSpec) (i : Instr) := sp.start ((s.begunCmd w).access s.ctl (s.newTransfer i w)) (s.begunCmd w) (s.newTransfer i w)
    let off := atClock 3 (ctx0 fun x => { ctxRegs x with a := vset (ctxRegs x).a 7 0xFF00000000001000 })
    let rw := tw 1 2 0 7 0 0 0
    let rc (vals : List Nat) : Cmd := { cmdOf (.rfill rw) (recAt 0 0 16 1) 1 vals with a := vset (ctxRegs Ctx.init).a 7 0xFF000000003E8060 }
    let blk := putFld (putFld (putFld (putFld (putFld 0 0 4 0x8000) 4 4 64) 8 1 2) 12 4 0) 16 4 1
    let rel (s : State) (vals : List Nat) := (ringSpec true rw).elem s.ctl (s.mc.access s.ctl (rc vals)) s.mc (rc vals) 0
    let hurt (s : State) (vals : List Nat) := (ringSpec true rw).onFault (s.mc.access s.ctl (rc vals)) s.mc (rc vals) 0x12
    let at0 := sCmd (rc [0]) 0 blk
    let kept := sCmd (rc [4, 0x12, 5, 6]) 0 blk
    atIt (sCmd c 1) c 1 = true ∧ fine (el (sCmd c 1) c) = true ∧ atIt (sCmd bad 1) bad 1 = true ∧ fine (el (sCmd bad 1) bad) = false ∧
      (ctx0 ctxRegs).ctx.cmd = none ∧ (ctx0 ctxRegs).ctx.flight = [] ∧ 8 ≤ (List.replicate 8 (⟨1, 0, none, 0, none⟩ : Flight)).length ∧
      ({ (ctx0 ctxRegs).ctx with flight := [⟨1, 0, none, 0, some (2, 0)⟩] } : Ctx).awaits (copySpec w).regs = true ∧
      (sHeld.mc.engine (.core 0)).ctxOut (.core 0) 0 0 = true ∧
      ¬(({ (ctx0 ctxRegs).ctx with upd := 1 } : Ctx).upd ≤ (ctx0 ctxRegs).core.emit.freed) ∧
      fine (start sSeg tagsetSpec (.tagset w)) = true ∧ later (start off (copySpec w) (.copy w)) = true ∧
      later (el (atClock 3 (sCmd c 1)) c) = true ∧ (atIt at0 (rc [0]) 0 = true ∧ again (rel at0 [0]) = true) ∧
      (faults (el (sCmd bad 1) bad) = true ∧ ((copySpec w).onFault (s₁ bad) (sCmd bad 1).mc bad 0x12).isSome = true) ∧
      (atIt kept (rc [4, 0x12, 5, 6]) 0 = true ∧ faults (rel kept [4, 0x12, 5, 6]) = true ∧ (hurt kept [4, 0x12, 5, 6]).isSome = true ∧
        faults (rel (atClock 3 kept) [4, 0x12, 5, 6]) = true ∧ (hurt (atClock 3 kept) [4, 0x12, 5, 6]).isNone = true) ∧ missed (start sSeg (copySpec w) (.copy w)) = true ∧
      missed ((copySpec w).elem sSeg.ctl (sSeg.mc.access sSeg.ctl far) sSeg.mc far 1) = true := by decide +kernel

/-- Source and destination in the core's own window are reached, for elements, items and lines; the fields of the packed, fibre and
blocked forms stand at their values; an E8M10 element whose ignored bits alone are set counts as 0. -/
theorem witness_MovingCommands :
    let w := tw 1 2 0 2 0 0 0
    let c (vals : List Nat) := cmdOf (.copy w) (recAt 0 0 2 2) 4 vals
    let s := sCmd (c []) 1
    let m := s.mc
    let A := m.access s.ctl (c [])
    let r := (c []).recd
    let rd (vals : List Nat) (base bit : Int) (n : Nat) : Bool := fine (m.reachBits A .read (c vals) 1 base bit n)
    let wr (vals : List Nat) (base bit : Int) (n : Nat) : Bool := fine (m.reachBits A .write (c vals) 1 base bit n)
    atIt s (c []) 1 = true ∧ 1 < r.count ∧ r.fmt < 11 ∧ 1 % r.count ≠ 0 ∧
      rd [] ((c []).base 2) (r.bitOff (r.indices 1)) r.width = true ∧ wr [] ((c []).base 1) (r.bitOff (r.indices 1)) r.width = true ∧
      rd [] ((c []).base 2) ((c []).rec2.bitOff (swap01 (r.indices 1))) r.width = true ∧
      rd [8] ((c []).base 2 + 8) (r.bitOff (r.indices (1 % r.count))) r.width = true ∧
      fine ([0xFF00000000002000, 0xFF00000000003000].mapM fun (b : Nat) =>
        m.reachBits A .write (c []) 1 (b : Int) (r.bitOff (r.indices 1)) r.width) = true ∧
      (0b110 : Nat).testBit (1 % 64) = true ∧
      rd [0, 0b110] ((c []).base 2) ((8 * 0 + 64 + popBelow 0b110 (1 % 64) * r.width : Nat) : Int) r.width = true ∧
      ((heard [0, 0, 0] s).mc.readDense ((heard [0, 0, 0] s).mc.access s.ctl (c [])) (c [0]) 0 ((c []).base 2) r.width 0 (min 64 4)).toOption.isSome = true ∧
      fine (m.reach A .write 1 (c []) 0 ((c []).base 1) (zpBlock r.width [0, 7]).1) = true ∧
      (1 ≠ 0 ∧ 1 % (recAt 0 0 4 1).bound 0 + 1 < (recAt 0 0 4 1).bound 0) ∧ 0x1FFF / 2 ^ 13 * 2 ^ 13 = 0 ∧
      (A.eng = some (.core 0) ∧ (recAt 0x0B 0 1 1).fmt = 11 ∧ 11 ≤ (recAt 0x0B 0 64 1).fmt) := by decide +kernel

/-- The first element of an item, with its list entry read in an earlier position: 8, which leads GATHER and IREAD to their source and
SCATTER to its destination. The package's own core lies in the global window. -/
theorem witness_MovingCommands_first :
    let w := tw 1 2 0 3 0 0 0
    let v := tw 1 3 0 5 0 0 0
    let regs := vset (vset (ctxRegs Ctx.init).a 3 0xFF00000000003000) 5 0xFE0000FF00001000
    let c (i : Instr) : Cmd := { cmdOf i (recAt 0 0 2 2) 4 [] with a := regs }
    let c₂ (i : Instr) : Cmd := { c i with vals := [8] }
    let s (i : Instr) : State := (heard [8] (sCmd (c i) 0)).put { (heard [8] (sCmd (c i) 0)).mc with parts := sPg.mc.parts }
    let moves (i : Instr) (list : Reg4) (src dst : Int) (ok : Mach → Bool) : Bool :=
      let A := (s i).mc.access (s i).ctl (c i)
      fine (do
        let (m, off) ← (s i).mc.readPlain A (c i) 0 ((c i).base list + 16) 8
        let r ← m.reachBits A .read (c₂ i) 0 src 0 32
        let (m, _) ← m.readBits A r
        let _ ← m.reachBits A .write (c₂ i) 0 dst 0 32
        if off = 8 ∧ ok m = true ∧ m.window (BitVec.ofInt 64 src) ≠ 3 then .ok 0 else .error (TStop.hold .none))
    atIt (s (.gather w)) (c (.gather w)) 0 = true ∧ (recAt 0 0 2 2).bitOff ((recAt 0 0 2 2).indices 0) = 0 ∧ (recAt 0 0 2 2).width = 32 ∧
      moves (.gather w) 3 (0xFF00000000001000 + 8) 0xFF00000000002000 (fun _ => true) = true ∧
      moves (.scatter w) 3 0xFF00000000001000 (0xFF00000000002000 + 8) (fun _ => true) = true ∧
      moves (.iread v) 3 (0xFE0000FF00001000 + 8) 0xFF00000000002000
        (fun m => ireadOk m (recAt 0 0 2 2) (0xFE0000FF00001000 + 8)) = true := by decide +kernel

/-- The first element of a group of CONV, the entry of a nonzero element of CONV to fibre arrays at a row's end, and a padded position of
REQ that begins no group. -/
theorem witness_MovingCommands_blocks :
    let w := tw 1 2 0 0 0 0 0
    let r : Shape := { recAt 0x0B 2 1 1 with scBase := 0xFF00000000003000 }
    let c : Cmd := cmdOf (.conv w) r 1 []
    let s := sCmd c 0
    let A := s.mc.access s.ctl c
    let f : Cmd := cmdOf (.convFib w) (recAt 0 0 2 2) 4 [0xFF00000000003000, 0xFF00000000003100, 0xFF00000000003200, 0]
    let t := sCmd f 1
    let B := t.mc.access t.ctl f
    let p : Shape := { recAt 0x0B 0 1 1 with bgeo := 1, flags := 2 }
    let q : Cmd := cmdOf (.req w) p 96 []
    let u := sCmd q 1
    atIt s c 0 = true ∧ 0 < r.count ∧ 11 ≤ r.fmt ∧ fine (s.mc.reachScales A c 0 r (r.lineOf (r.indices 0)) 0) = true ∧
      fine (s.mc.readDense A c 0 (c.base 2) 32 0 (min r.group (r.bound 0 - 0))) = true ∧
      fine (s.mc.reachBits A .write c 0 (c.base 1) (r.bitOff (r.indices 0)) r.width) = true ∧
      atIt t f 1 = true ∧ fine (t.mc.reachBits B .read f 1 (f.base 2) 32 32) = true ∧
      (fibreWrites f.recd 0xFF00000000003000 0xFF00000000003100 0xFF00000000003200 0 1 0x5A).length = 3 ∧
      fine ((fibreWrites f.recd 0xFF00000000003000 0xFF00000000003100 0xFF00000000003200 0 1 0x5A).mapM fun x => t.mc.reach B .write 1 f 1 x.1 x.2.1) = true ∧
      atIt u q 1 = true ∧ p.lines ≤ 1 ∧ (p.padAt (1 - p.lines)).2 % p.group ≠ 0 ∧
      fine (u.mc.writePad (u.mc.access u.ctl q) q 1 (q.base 1) p (1 - p.lines)) = true := by decide +kernel

/-- REQ of a line of one element at 0x1000 to a block record whose scales lie at 0x3000: the line is read, its code and scale are made,
and both places are reached; one padded line follows. -/
theorem witness_MovingCommands_req :
    let w := tw 1 2 0 0 0 0 0
    let r : Shape := { recAt 0x09 2 1 1 with scBase := 0xFF00000000003000 }
    let c : Cmd := cmdOf (.req w) r 2 []
    let s := heard [0] (sCmd c 0)
    let A := s.mc.access s.ctl c
    atIt s c 0 = true ∧ r.bound 0 = 1 ∧ r.fmt ≠ 15 ∧ 0 < r.lines ∧ fine (s.mc.readReqLine A c 0 (c.base w.s) 0 0 1) = true ∧
      (quantLine r.fmt .rne [(true, .fin false 1 0, none)]).1.length = 1 ∧ (quantLine r.fmt .rne [(true, .fin false 1 0, none)]).2.1.length = 1 ∧
      fine (s.mc.reachBits A .write c 0 (c.base w.d) (r.bitOff (r.indices 0)) r.width) = true ∧
      fine (s.mc.reach A .write 1 c 0 ((r.scBase.toNat : Int) + r.scaleOff 0 0) 1) = true := by decide +kernel

/-- A semaphore in its position, and off it; words of 4 and 8 bytes are reached, and elements of ACCW and REDUCE; an address that another
engine holds. -/
theorem witness_ModifyingCommands :
    let w := tw 6 2 0 1 0 1 0
    let c : Cmd := { cmdOf (.signal w) (recAt 7 0 4 1) 1 [] with a := vset (ctxRegs Ctx.init).a 6 0xFF000000003E0038 }
    let s := sCmd c 0
    let m := s.mc
    let A := m.access s.ctl c
    let B := m.access (atClock 3 s).ctl c
    let waits (A : Access) : Bool := match m.reachSem A c 6 with
      | .ok ps => m.mustWait A (c.base 6) ps
      | .error _ => false
    let held : Mach := m.setPart 0 { m.partition 0 with admission := [⟨0, 8 * 2 ^ 48, 2, 0, [(1, 0), (0, 0)]⟩] }
    atIt s c 0 = true ∧ (fine (m.reachSem A c 6) = true ∧ waits A = false) ∧ waits B = true ∧
      fine (m.reach A (.rmw true) 2 c 0 (c.base 1) 8) = true ∧
      fine (m.reach A (.rmw false) 2 c 0 (c.elemAddr (opBitsOf 0) (c.base 1) 0) (opBitsOf 0 / 8)) = true ∧
      fine (m.reach A .read 0 c 0 (c.elemAddr (opBitsOf 0) (c.base 2) 0) (opBitsOf 0 / 8)) = true ∧
      fine (m.readSources A c 0 0 [0xFF00000000001000]) = true ∧
      (match m.reach A (.rmw false) 2 c 0 (c.elemAddr (opBitsOf 0) (c.base 1) 0) (opBitsOf 0 / 8) with
        | .ok ps => fine (m.rmwElem A (c.elemAddr (opBitsOf 0) (c.base 1) 0) ps fun old => combineElem 0 old 1)
        | .error _ => false) = true ∧ held.admHeld (.core 0) (firstKey [(0x40, 8)]) = true := by decide +kernel

/-- Rank 0 of two of an all-gather of one element, the other a peer's: at its receive element, and at the wait for everyone's writes,
with the peer's performed and not. -/
theorem witness_ModifyingCommands_coll :
    let w := tw 1 2 3 4 2 0 0
    let c : Cmd := cmdOf (.coll w) (recAt 0 0 2 1) 3 [7, 0, 2, 0, 2, 1, 2]
    let r (ended : Bool) : CollRun := ⟨7, 0, false, [⟨1, 2, 0, 2, c.recd.bounds, [5, 6]⟩], [], ended⟩
    let s (ep : Nat) (ended : Bool) : State := (sCmd c ep).put { (sCmd c ep).mc with colls := [r ended] }
    let m := (s 1 false).mc
    let A := m.access (s 1 false).ctl c
    atIt (s 1 false) c 1 = true ∧ c.exchanged = true ∧ m.collRun 7 0 = some (r false) ∧ (r false).failed = false ∧ 1 + 1 < c.total ∧
      fine (m.reachBits A .write c 1 (c.base 1) (c.recd.bitAt 32 (c.recd.indices 1)) 32) = true ∧
      fine (m.readSends (s 1 false).ctl c (r false).peers (collSources 2 2 0 2 1)) = true ∧
      (atIt (s 2 true) c 2 = true ∧ 2 + 1 = c.total ∧ ((s 2 true).mc.engine (.core 0)).cmdOut (.core 0) 3 0 c.id = false ∧
        (r true).peersDone = true ∧ 2 ≤ [0].length + (r true).peers.length) ∧
      ¬((r false).peers = [] ∨ (r false).peersDone = true) := by decide +kernel

/-- SEMWT on a semaphore of value 3 with a count of 3 and of 4, with and without a limit; ring number 3 with a free slot and with a filled
one, before and after the move, with the move's writes performed and on their way, in a position and off it; the fences; a page of
64 KiB on the TIERED list. -/
theorem witness_SynchronisingCommands :
    let w (n : W64) := tw 6 2 0 7 0 0 n
    let c (i : Instr) (vals : List Nat) : Cmd := { cmdOf i (recAt 0 0 16 1) 1 vals with
      a := vset (vset (ctxRegs Ctx.init).a 6 0xFF000000003E0038) 7 0xFF000000003E8060 }
    let cs := c (.semwt (w 3)) []
    let blk (head tail : Nat) := putFld (putFld (putFld (putFld (putFld 0 0 4 0x8000) 4 4 64) 8 1 2) 12 4 head) 16 4 tail
    let ring (vals : List Nat) (head tail : Nat) := sCmd (c (.rfill (w 0)) vals) 0 (blk head tail)
    let rung (s : State) (vals : List Nat) := s.mc.reachRing (s.mc.access s.ctl (c (.rfill (w 0)) vals)) (c (.rfill (w 0)) vals) 7
    let free (s : State) : Bool := match rung s [0] with
      | .ok ps => !s.mc.mustWait (s.mc.access s.ctl (c (.rfill (w 0)) [0])) ((c (.rfill (w 0)) [0]).base 7) ps
      | .error _ => false
    let moved (fill : Bool) (s : State) (b : Nat) :=
      let s := heard (List.replicate (if fill then 15 else 0) 0) s
      fine (ringMove fill (tw 1 2 0 7 0 0 0) (s.mc.access s.ctl (c (.rfill (w 0)) [0])) s.mc (c (.rfill (w 0)) [0]) 0 b)
    let s := sCmd cs 0
    let out (s : State) : Bool := (s.mc.engine (.core 0)).cmdOut (.core 0) 3 0 cs.id
    atIt s cs 0 = true ∧ cs.total = 1 ∧ fine (s.mc.reachSem (s.mc.access s.ctl cs) cs 6) = true ∧ s.ctl.cyc % 4 = 0 ∧
      s.core.sp.rd 0x3E0038 8 = 3 ∧ fine (rung (ring [0] 0 1) [0]) = true ∧ ringCheck (blk 0 1) = none ∧ ringClaim (blk 0 1) = 0 ∧
      1 ≤ ringFree (blk 0 1) ∧ 1 ≤ ringFilled (blk 0 1) ∧ 1 ≤ ringFree (blk 0 3) ∧ ringFree (blk 0 4) = 0 ∧ ringFilled (blk 0 0) < 1 ∧
      free (ring [0] 0 1) = true ∧ free (atClock 3 (ring [0] 0 1)) = false ∧ out (ring [1] 0 1) = false ∧
      out (posted [{ post0 with ctx := 0 }] (ring [1] 0 1)) = true ∧
      moved true (ring [0] 0 1) (blk 0 1) = true ∧ moved false (ring [0] 0 1) (blk 0 1) = true ∧
      (ctx0 ctxRegs).ctx.flight = [] ∧ (sHeld.mc.engine (.core 0)).ctxOut (.core 0) 0 0 = true ∧
      ((ctx0 ctxRegs).mc.engine (.core 0)).ctxOut (.core 0) 0 0 = false := by decide +kernel

/-- A page of the TIERED list, reached through its leaf, and an address in no segment. -/
theorem witness_SynchronisingCommands_tiered :
    let m := sPg.mc.setEngine (.core 0) { sPg.mc.engine (.core 0) with segs := [⟨0, 0x400000, 0, 7, 0x12, 0, true⟩] }
    (match m.tieredAt (.core 0) 0x10000 with
      | .ok (some (_, p)) => decide (p.va = 0)
      | _ => false) = true ∧
      (match m.tieredAt (.core 0) 0x400000 with
      | .ok none => true
      | _ => false) = true := by decide +kernel

/-- FOLLOW of an MZERO at 0x1000; a port with three and with four words; a context that another's earlier commands precede, and one
whose writes are on their way; a region of 4 KiB at 2^48 that no task maps, and a descriptor that creates one. -/
theorem witness_FollowAndRegions :
    let w := tw 1 2 0 0 0 0 0
    let mz : Nat := 3 + 0x02 * 2 ^ 2 + 0x7 * 2 ^ 8 + 1 * 2 ^ 12 + 1 * 2 ^ 14
    let s0 := ctx0 ctxRegs
    let s := s0.putCore { s0.core with sp := Cells.wr [] 0x1000 24 mz }
    let x := s.ctx
    let new := s.newTransfer (.follow w) w
    let A := (s.begunCmd w).access s.ctl new
    let B := s.mc.access s.ctl new
    let r : Region := ⟨0, 2 ^ 48, 4096, 1, 0, 2 ^ 48 + 0x100000, 0x20000, 0, 0x40, 0, 0, [], [], [], 0⟩
    let m : Mach := { s.mc with basins := vset s.mc.basins 1 [r] }
    let desc : Nat := 4096 + (2 ^ 48 + 0x100000) * 2 ^ 64 + 0x20000 * 2 ^ 128 + 1 * 2 ^ 256
    let made := regionOfDesc desc (2 ^ 48) 0x40 (s.mc.freeRid 1)
    let g := s.mc.engine (.core 0)
    windowCode (vget x.a w.s.toNat 0) = 1 ∧ (vget x.a w.s.toNat 0).toNat % 8 = 0 ∧
      (match (s.begunCmd w).readPlain A new 0 ((vget x.a w.s.toNat 0).toNat : Int) 24 with
        | .ok (_, v) => decide (v = mz) && followWordOk v
        | .error _ => false) = true ∧
      (s.core.task = some task0 ∧ task0.running = true ∧ s.core.mat.port.length < 4) ∧
      4 ≤ (List.replicate 4 (portEntry mz 0)).length ∧ g.ctxOut (.core 0) 0 0 = false ∧ (sHeld.mc.engine (.core 0)).ctxOut (.core 0) 3 0 = true ∧
      (x.doneNo ≤ ({ x with doneNo := 2 } : Ctx).doneNo ∧ ¬({ x with doneNo := 2 } : Ctx).doneNo ≤ ({ x with doneNo := 1 } : Ctx).doneNo) ∧
      m.regionAt (2 ^ 48) = some (1, r) ∧ m.mapsRegion r = false ∧ fld desc 0x20 1 = 1 ∧ s.mc.createOk (2 ^ 48) desc made = true ∧
      inSemPlace [(0x40, 64)] = false ∧ m.mustWait B (new.base 1) (m.statusPlaces [(2 ^ 48, 8)]) = false ∧
      m.mustWait B (new.base 2) [(r.descAt + 0x22, 2)] = false ∧ s.mc.mustWait B (new.base 2) [(0x40, 64)] = false ∧
      fld 0 0x20 1 = 0 ∧ (vget m.basins 1 []).find? (fun r => r.base == 2 ^ 48) = some r := by decide +kernel

/-- The lowest free context of core 0's engine; a command in flight whose write its scope awaits, and one without; a walk that finds no
leaf, and one that finds one; a suspended context; one that waits for admission, and one in a test. -/
theorem witness_ContextEvents :
    let s0 := sPg.put ((sPg.mc.setCore 0 { sPg.mc.core 0 with task := some task0 }).setEngine (.core 0) { sPg.mc.engine (.core 0) with
      invq := [(8, 5)], segs := [⟨0, 0x400000, 0, 7, 0x10, 0, true⟩]
      posts := [{ post0 with ctx := 0 }]
      ctxs := vset (vset (sPg.mc.engine (.core 0)).ctxs 0 { Ctx.init with
        st := .running, flight := [⟨6, 0, none, 1, some (3, 9)⟩, ⟨7, 0, none, 1, none⟩], hold := .walk 0x10000 0 }) 1 { Ctx.init with
        st := .suspended, cmd := some (cmdOf .nopPacket default 1 []), susp := ⟨0x80, 1, 2, 0, 0, 0, 0x200000, 0⟩ } })
    let g := s0.mc.engine (.core 0)
    let w := tw 1 2 0 0 0 0 0
    let c := cmdOf (.accw w) (recAt 7 0 4 1) 4 []
    let t := cmdOf (.semwt (tw 6 2 0 7 0 0 3)) (recAt 7 0 4 1) 1 []
    (s0.mc.core 0).task = some task0 ∧ task0.running = true ∧
      (g.ctx 0).st ≠ .free ∧ (g.ctx 1).st ≠ .free ∧ (g.ctx 2).st = .free ∧ g.invq = [(8, 5)] ∧
      (g.ctx 0).flight[0]? = some ⟨6, 0, none, 1, some (3, 9)⟩ ∧ g.cmdOut (.core 0) 0 0 6 = false ∧
      (g.ctx 0).flight[1]? = some ⟨7, 0, none, 1, none⟩ ∧ g.cmdOut (.core 0) 0 0 7 = true ∧
      (g.ctx 0).ending = false ∧ (g.ctx 0).rung = false ∧
      (segAt g.segs 0x10000).map Seg.cl = some 0 ∧
      (match s0.mc.walk g.asid 0x10000 (some 0) with
        | .leaf _ _ p => !s0.mc.heldByMove p
        | _ => false) = true ∧
      (match s0.mc.walk g.asid 0x200000 (some 0) with
        | .notPresent _ => true
        | _ => false) = true ∧
      (g.ctx 1).st = .suspended ∧ (g.ctx 1).cmd.isSome = true ∧ (g.ctx 1).susp.cause = 0x80 ∧
      (atIt (sCmd c 0) c 0 = true ∧ c.word = .accw w ∧ ({ (sCmd c 0).ctx with hold := .admission } : Ctx).hold = .admission ∧
        fine ((accwSpec w).elem (sCmd c 0).ctl ((heard [0] (sCmd c 0)).mc.access (sCmd c 0).ctl c) (heard [0] (sCmd c 0)).mc c 0) = true) ∧
      (atIt (sCmd t 0) t 0 = true ∧ ({ (sCmd t 0).ctx with hold := .test 0 } : Ctx).hold = .test 0) := by decide +kernel

/-- INVOCATION_START gives context 0 its argument and its entry. -/
theorem test_invocation_start :
    let s := (core0 fun c => { c with task := some task0 })
    let s := s.put (s.mc.setEngine (.core 0) { s.mc.engine (.core 0) with invq := [(8, 5)] })
    look .invocationStart s (fun t => ((t.mc.engine (.core 0)).invq.length, vget (t.mc.ctx (.core 0) 0).a 0 0, (t.mc.ctx (.core 0) 0).tpc)) =
      some (0, 5, 64) := by decide +kernel

/-- One participant of the package with two ranks: alone it waits; with a peer of its kind and bounds the exchange is made; a peer of
another kind disagrees; a record that is at fault; a collective that has been exchanged. -/
theorem witness_CollectiveExchange :
    let w := tw 1 2 3 4 2 0 0
    let c : Cmd := cmdOf (.coll w) (recAt 0 0 2 1) 1 [7, 0, 2, 0, 0, 1, 2]
    let own : Cmd := { c with vals := [7, 0, 2, 0, 3, 1, 2] }
    let p : Partic := ⟨.core 0, 0, c, w⟩
    let peer (kind : Nat) : CollPeer := ⟨1, kind, collOp w, 2, c.recd.bounds, [5, 6]⟩
    let s := sCmd c 0
    collStartedAll [p] [] = false ∧ collStartedAll [p] [peer (collKind w)] = true ∧ collAgree [p] [peer (collKind w)] = true ∧
      collAgree [p] [peer 5] = false ∧ (collStartedAll [{ p with cmd := own }] [] = true ∧ own.coll.status = 3) ∧
      fine (s.mc.readSend s.ctl p 0) = true ∧ s.mc.collRun 7 0 = none ∧
      ({ s.mc with colls := [⟨7, 0, false, [], [], false⟩] } : Mach).collRun 7 0 = some ⟨7, 0, false, [], [], false⟩ ∧
      fine (collElem w s.ctl (s.mc.access s.ctl c) s.mc c 0) = false := by decide +kernel

/-- The participant of `witness_CollectiveExchange` is the one that waits in the machine. -/
theorem witness_CollectiveExchange_waiting :
    let w := tw 1 2 3 4 2 0 0
    let c : Cmd := cmdOf (.coll w) (recAt 0 0 2 1) 1 [7, 0, 2, 0, 0, 1, 2]
    let s := sCmd c 0
    (s.mc.setCtx (.core 0) 0 { s.ctx with hold := .coll }).waiting 7 0 = [⟨.core 0, 0, c, w⟩] := by decide +kernel

/-! ### The lock-keeper -/

/-- A task of die 0. -/
def tk0 (tid prio : Nat) (st : TState) : Task := { tk tid prio st with desc := { task0.desc with affinity := 1 } }

/-- The state with one task and a bind record of it on core 0. -/
def sBind (t : Task) : State := known [t] (sPg.put { sPg.mc with slots := vset sPg.mc.slots 0 (BindRec.new t.tid 0 0 [] 0) })

/-- A task of no code binds; one whose code lies in no segment does not, and may end; one whose segment table is on an unmapped page
waits, and so does one whose table lies in a page that is being moved. -/
theorem witness_BindsStartTasks :
    let t := tk 5 0 .binding
    let none0 : Task := { t with desc := { t.desc with codeLen := 0, moveOff := 0 } }
    let far : Task := { none0 with desc := { none0.desc with segCnt := 1, segTab := 0x200000 } }
    let near : Task := { none0 with desc := { none0.desc with segCnt := 1, segTab := 0x40000 } }
    let stop (m : Mach) (t : Task) : Option BindStop := match m.bindFresh (sBind t).ctl 0 (t.bound 0) BindRun.init with
      | .ok _ => none
      | .error (_, _, x) => some x
    let bind (t : Task) := stop (sBind t).mc t
    let moving (m : Mach) : Mach := { m with moves := [⟨0, 0, 2 ^ 21, 0x200000, 0x400000, 5, 0⟩] }
    let s := sBind none0
    vget s.mc.slots 0 BindRec.init = ⟨5, 0, 0, [], 0, true, none, none, BindRun.init, none⟩ ∧ s.mc.mayEnd 0 0 (none0.bound 0) = true ∧
      t.frame = none ∧ stop (moving (sBind near).mc) near = some .wait ∧ s.mc.taskOf 5 = some none0 ∧ (s.mc.core 0).task = none ∧
      bind none0 = none ∧
      (match bind t with
        | some (.fault _ _) => true
        | _ => false) = true ∧
      (match bind far with
        | some (.page _ _ _) => true
        | _ => false) = true := by decide +kernel

/-- A warm core that the enqueue of a ready task gave it; the same core taken by a bind record since; a task without such a core; a
declaration in no segment. -/
theorem witness_BindsStartTasks_fast :
    let t := tk0 5 0 .ready
    let u := { t with fast := some (0, 3) }
    let on (t : Task) : Mach := let s := known [t] sPg; s.mc.setCore 0 { s.mc.core 0 with warm := some t.key }
    let m := on u
    let taken : Mach := { m with slots := vset m.slots 0 (BindRec.new 9 0 0 [] 0) }
    let bad : Ext := { u.ext with rds := [⟨0x1000, 64, 1, 64, 0, [], true⟩] }
    m.taskOf 5 = some u ∧ m.coreOpen 0 = true ∧ m.isWarm u 0 = true ∧ badDecl (m.engine (.core 0)).segs u.ext = none ∧
      badDecl (m.engine (.core 0)).segs bad = some 0 ∧ taken.coreOpen 0 = false ∧ (known [t] sPg).mc.isWarm t 0 = false ∧
      t.fast = none ∧ (on t).fastCore t = some 0 ∧ (known [t] sPg).mc.fastCore t = none := by decide +kernel

/-- One ready task of partition 0 finds core 0; a full and an empty overflow ring; a set whose last version can be copied. -/
theorem witness_SelectionAndPools :
    let t := tk0 5 0 .ready
    let s := known [t] sPg
    let o := known [tk0 6 0 .overflow] sPg
    let d : Decl := ⟨0x1000, 64, 1, 64, 1, [0x2000], true⟩
    let x : RenSet := ⟨0, d, 1, 0, [], true, 0, 0, 0⟩
    let m : Mach := { s.mc with sets := [x] }
    let two := known [tk0 6 0 .overflow, tk 7 0 .overflow] sPg
    s.mc.promotable = none ∧ o.mc.promotable = some (tk0 6 0 .overflow) ∧ two.mc.promotable = some (tk0 6 0 .overflow) ∧
      s.mc.promoteAll.selStopped 0 = false ∧ ({ s.mc with ckptRun := some (0, [0]) } : Mach).promoteAll.selStopped 0 = true ∧
      s.mc.promoteAll.candidates 0 = [t] ∧ t.replay = false ∧ (s.mc.forgetYields 0).chooseCore t = some 0 ∧
      (tk0 5 0 .ready).prio < (tk0 6 1 .ready).prio ∧
      o.mc.oldestOverflow 0 = some (tk0 6 0 .overflow) ∧ o.mc.moorFree 0 = true ∧ s.mc.oldestOverflow 0 = none ∧
      m.sets.find? (fun x => x.copying && x.asid == 0 && x.decl.base.toNat == 0x1000) = some x ∧
      ((m.copyRows (m.copyAccess x) 0x2000 0x1000 64 64 0).2).isNone = true := by decide +kernel

/-- Core 0 with a bound task whose triples are settled, a free frame, a request; one with a triple in flight, one without a frame, and
none bound; a swap that has lasted. -/
theorem witness_PreemptionSavesTasks :
    let t : Task := tk 1 0 .bound
    let s0 := known [t] sPg
    let s := s0.put { s0.mc.setCore 0 { s0.mc.core 0 with task := some task0 } with
      preReqs := [0]
      parts := vset s0.mc.parts 0 { s0.mc.partition 0 with
        conf := some { (default : PartConf) with cores := 2 ^ 320 - 1, moorQ := 64, frameBase := 0x100000, frameCnt := 1 } } }
    let hi := { tk 9 3 .ready with desc := { task0.desc with affinity := 1 } }
    let m := s.mc
    let susp : Mach := { m.setEngine (.core 0) { m.engine (.core 0) with drain := ⟨[], some default, [], none⟩ } with
      swapSince := vset m.swapSince 0 (some 0) }
    let idle : Bound := { task0 with vstop := true }
    let waits (m : Mach) : Mach := m.setCore 0 { m.core 0 with
      task := some idle, x := { (m.core 0).x with wait := some ⟨.waitlc64 .always 3 7 1, 6, some 1⟩ } }
    let stopped := m.halted s.ctl 0
    let flying (x : Triple) : Mach := m.setEngine (.core 0) { m.engine (.core 0) with drain := ⟨[x], none, [], none⟩ }
    let hurt : Mach := (m.setCore 0 { m.core 0 with task := some { task0 with running := false } }).setCtx (.core 0) 1 { Ctx.init with st := .stopped, fault := some ⟨0x12, 5, 6⟩ }
    (m.core 0).task = some task0 ∧ (stopped.core 0).task.map (·.running) = some false ∧ (stopped.engine (.core 0)).drain.flight = [] ∧
      (task0.stop = none ∧ (stopped.core 0).wordsDone = true ∧ (stopped.engine (.core 0)).posts = [] ∧ (stopped.core 0).trap.hm = false) ∧
      (((hurt.halted s.ctl 0).engine (.core 0)).ctx 1).fault.isSome = true ∧
      stopped.freeFrame 0 = some 0x100000 ∧ m.preReqs.contains 0 = true ∧
      ((((flying (default : Triple)).halted s.ctl 0).engine (.core 0)).drain.flight.map (·.accepted)) = [false] ∧
      ((flying { (default : Triple) with refused := some (0x800000, 0) }).engine (.core 0)).drain.settled = true ∧
      ((known [t] sPg).mc.halted s.ctl 0).freeFrame 0 = none ∧ (sPg.mc.halted s.ctl 0 |>.core 0).task = none ∧
      ({ m with preReqs := [] } : Mach).victim none hi = some 0 ∧ m.evalAt ≠ 0 + 1 ∧ susp.swapReady 0 = false ∧ (waits susp).swapReady 0 = true ∧
      vget susp.swapSince 0 none = some 0 ∧ (s.ctl.cyc % 96 = 0 ∧ s.ctl.tick % 16 = 0) ∧ 0 + m.swapClocks 0 ≤ m.swapClocks 0 := by decide +kernel

/-- The frame of core 0 is taken and the core is free. -/
theorem test_preemption :
    let t : Task := tk 1 0 .bound
    let s0 := known [t] sPg
    let s := s0.put { s0.mc.setCore 0 { s0.mc.core 0 with task := some task0 } with
      preReqs := [0]
      parts := vset s0.mc.parts 0 { s0.mc.partition 0 with
        conf := some { (default : PartConf) with cores := 2 ^ 320 - 1, moorQ := 64, frameBase := 0x100000, frameCnt := 1 } } }
    look .preemption s (fun t => ((t.mc.core 0).task.isNone, t.mc.frames.map (·.1), t.mc.tasks.map (·.st), t.mc.preReqs)) =
      some (true, [0x100000], [.saved], []) := by decide +kernel

/-- A bound core that can be replayed and one that cannot; dissents inside and past 1 us; corrected errors up to 256. -/
theorem witness_MachineChecks :
    let s := core0 fun c => { c with task := some { task0 with replayable := true } }
    let m := s.mc
    (m.core 0).task = some { task0 with replayable := true } ∧ (m.core 0).phys.isSome = true ∧ (vget m.slots 0 BindRec.init).valid = false ∧
      m.lastCkpt (·.contains 0) = none ∧ (core0 fun c => { c with phys := none }).core.phys = none ∧
      (vget m.spares (0 / 40) []).length = 2 ∧ vget (vset m.spares 0 []) (0 / 40) [] = [] ∧
      (∀ x ∈ [Dissent.mk .wharf 1 0], x.machine = Voted.wharf → x.since + 1500 ≤ 1500) ∧ 1499 < (Dissent.mk .wharf 1 0).since + 1500 ∧
      vget m.ecc 0 [] = [] ∧ ((List.range 256).reverse[0]? = some 255 ∧ (List.range 256).reverse[255]? = some 0 ∧ 255 < 0 + 1500000000) ∧
      ((1500000000 :: List.replicate 255 0)[0]? = some 1500000000 ∧ (1500000000 :: List.replicate 255 0)[255]? = some 0) := by
  decide +kernel

/-! ### Basins, tugs, the wharf, resets, links -/

/-- A region of 4 KiB at address 0x800000 of home 0 for ordered addition, and a triple for its second granule. -/
def reg0 : Region := ⟨3, 0x800000, 4096, 1, 0, 0x900000, 0x20000, 0, 0x40, 0, 0, [], [], [1], 0⟩
def tri0 : Triple := ⟨0, 1, 0, 0x800040, 7, 9, false, false, none⟩

/-- Core 0's drain unit with that triple in flight, the region, and a reserve of 1 MiB in partition 0. -/
def sDrain : State :=
  let s := core0 fun c => { c with task := some task0 }
  let m := s.mc.setEngine (.core 0) { s.mc.engine (.core 0) with drain := ⟨[tri0], none, [], none⟩ }
  s.put { m with
    basins := vset m.basins 0 [reg0]
    parts := vset m.parts 0 { Partition.init with conf := some { (default : PartConf) with rsvBase := 0x1000000, rsvLen := 0x100000 } } }

/-- A drain unit in its wheel position and out of it, a triple in flight, a second one behind it, and its region; a unit whose refused
triple set CAPWAIT; a region of ordered addition without room; a suspended unit whose region's turn for an extension has come, and one
whose turn has not. The share of bin SRAM is free (log entry 14): a triple is accepted where it exceeds what is used. -/
theorem witness_UpdateBasins :
    let m := sDrain.mc
    let g := m.engine (.core 0)
    let waits (asks : List (Nat × Nat)) : Mach := { m.setEngine (.core 0) { g with
      drain := ⟨[], some ⟨0x83, 3, 0, 3, 0, 0, 0x800000, 0⟩, [(0, 0x800000)], none⟩ } with capAsks := asks }
    let m' := waits [(0, 0x800000)]
    let b : Bound := { task0 with running := true }
    let full : Region := { reg0 with op := 3, spLen := 64, pend := [⟨0x40, 7, false, 9⟩] }
    let bad : Core := { m.core 0 with sp := Cells.wr [] 0x3F0000 16 (2 ^ 128 - 1), emit := { (m.core 0).emit with count := 1, oldest := 0 } }
    let failing (l : List Triple) : Bool := match bad.drainRead g 256 ⟨l, none, [], none⟩ with
      | (d, some (0, _)) => decide (d.unaccepted = l.length)
      | _ => false
    ((m.core 0).task = some b ∧ b.running = true ∧ g.drain.susp = none ∧ sDrain.ctl.cyc % 4 = 0 ∧ (m.core 0).pos.1 ≤ sDrain.ctl.cyc) ∧
      (atClock 1 sDrain).ctl.cyc % 4 ≠ 0 ∧ ((m.core 0).drainRead g 256 g.drain).2 = none ∧
      failing [] = true ∧ g.drain.flight[0]? = some tri0 ∧ tri0.accepted = false ∧ (∀ x ∈ g.drain.flight.take 0, x.accepted = true) ∧
      (∃ x ∈ [tri0, tri0].take 1, x.accepted = false ∧ x.pa / 2 ^ 48 = tri0.pa / 2 ^ 48) ∧ m.basinServes 0 0 (tri0.pa / 2 ^ 48) = true ∧
      m.regionAt tri0.pa = some (0, reg0) ∧ m.sramUsed 0 0 = 0 ∧ (∀ x ∈ g.drain.caps, x.1 ≠ tri0.index) ∧ 0x800000 / 2 ^ 48 = tri0.pa / 2 ^ 48 ∧
      (m.tripleWaits tri0 = false ∧ m.tripleHeld 0 tri0 reg0 = false ∧ m.tripleWaits { tri0 with refused := some (0x800000, 0) } = true ∧
        m.tripleWaits { tri0 with refused := some (0x800000, 7) } = false ∧
        (m.setEngine (.core 0) { g with posts := [{ post0 with parts := [(0x800040, 8)], done := some 0 }] }).tripleHeld 0 tri0 reg0 = true) ∧
      (m.setRegion 0 full).largestRegion 0 0 = some full ∧ full.spillFree < 64 + 24 * full.pend.length ∧
      m'.drainWaits sDrain.ctl = some 0x800000 ∧ m'.regionAt 0x800000 = some (0, reg0) ∧ reg0.xlen = 0 ∧ m'.nextAsk reg0.part = some reg0.base ∧
      (waits []).nextAsk reg0.part ≠ some reg0.base ∧ m'.reserveFind 0 reg0.spLen = some 0x1000000 ∧
      m.regionOf 0 3 = some reg0 ∧ reg0.sweep = [1] ∧ reg0.op ≠ 3 ∧
      (1 ∈ ({ reg0 with pend := [⟨0x40, 7, false, 9⟩] } : Region).pendingGranules ∨
        0 ∈ ({ reg0 with pend := [⟨0x40, 7, false, 9⟩] } : Region).pendingGranules) := by decide +kernel

/-- A page of home 0 with a request to home 8, with and without a free frame there; pages that stay: pinned, anchored, moving, kept far,
or in the tier already; a move with its invalidation and without it; an epoch's last tick with and without requests; a promotion that
is due when a frame is supplied, and one that AUTO does not allow. -/
theorem witness_TugActions :
    let p : Page := ⟨0, 0x10000, 0x10000, 0x50000, 0, [(0, 3)], [], 0, none⟩
    let r : PrefReq := ⟨0, 0x10000, 8⟩
    let m : Mach := { State.reset.mc with pages := [p], prefs := vset State.reset.mc.prefs 0 [r] }
    let f : Mach := { m with free := vset m.free 8 [(8 * 2 ^ 48 + 0x10000, false)] }
    let v : TierMove := ⟨0, 0x10000, 0x10000, 0x50000, 8 * 2 ^ 48 + 0x10000, 5, 0⟩
    let clock := atClock (96 * 15625) State.reset
    let far : Page := { p with pa := 8 * 2 ^ 48 + 0x50000, hint := 2 }
    let due : Page := { p with pa := 8 * 2 ^ 48 + 0x50000, due := some 0 }
    let own (auto : W64) (p : Page) : Mach := { m with
      pages := [p], prefs := State.reset.mc.prefs, parts := vset m.parts 0 { Partition.init with asids := [0], policy := auto } }
    let supply (m : Mach) : Mach := { m with free := vset m.free 0 (vget m.free 0 [] ++ [((0x80000, false) : Nat × Bool)]) }
    vget m.prefs 0 [] = [r] ∧ m.pages.find? (fun p => p.asid == r.asid && p.va == r.va) = some p ∧ p.inTierOf r.target = false ∧
      m.pinned p = false ∧ p.anchoredUntil ≤ 0 ∧ m.moving p = false ∧ p.hint ≠ 2 ∧ (m.startMove p 8).isNone = true ∧
      (f.startMove p 8).isSome = true ∧ p.inTierOf 0 = true ∧ ({ m with pins := [(0, 0x10000, 64)] } : Mach).pinned p = true ∧
      0 < ({ p with anchoredUntil := 5 } : Page).anchoredUntil ∧ ({ m with moves := [v] } : Mach).moving p = true ∧
      far.hint = 2 ∧ far.inTierOf 0 = false ∧ ({ m with pages := [] } : Mach).pages.find? (fun p => p.asid == r.asid && p.va == r.va) = none ∧
      vget State.reset.mc.prefs 0 [] = [] ∧
      ((m.servePrefs clock.ctl.tick 0 (vget m.prefs 0 []).length).pages = [p] ∧ ((own 0x540 p).servePrefs clock.ctl.tick 0 0).pages = [p] ∧
        (f.servePrefs clock.ctl.tick 0 1).moves.length = 1) ∧
      (∀ q ∈ m.pages, q.due = none) ∧ (own 0x540 due).pages = [due] ∧ (supply (own 0x540 due)).dueOpen 0 due = true ∧
      ((supply (own 0x540 due)).startMove due 0).isSome = true ∧ (supply (own 0x140 due)).dueOpen 0 due = false ∧
      ({ f with moves := [v] } : Mach).moves[0]? = some v ∧ (∃ i ∈ [Inval.mk 5 0 0x10000 0x10000], i.id = v.inval) ∧
      (∀ i ∈ ([] : List Inval), i.id ≠ v.inval) ∧
      (clock.ctl.cyc % 96 = 0 ∧ clock.ctl.tick % 15625 = 0 ∧ clock.ctl.tick ≠ 0 ∧ vget clock.mc.epochAt 0 0 ≠ clock.ctl.tick + 1) ∧
      p.pa / 2 ^ 48 / 4 = 0 ∧ (vget (own 0x540 p).prefs 0 [] = [] ∧ vget (own 0x540 p).prefs 1 [] = []) ∧
      (vget m.prefs 1 [] = [] ∧ m.prefDrops 0 r p = false ∧
        (({ f with prefs := State.reset.mc.prefs } : Mach).startMove p r.target).isSome = true) := by decide +kernel

/-- The management queue, of 16 slots at 0x100000, with one packet of this type, whose second byte is `b1` and whose rest is `body`. -/
def sPkt (type b1 : Nat) (body : Nat := 0) : State :=
  let s := sPg
  s.put { s.mc.setQueue .mgmt { HostQ.init with base := 0x100000, size := 4, tail := 1 } with
    mem := Cells.wr (Cells.wr (Cells.wr s.mc.mem (hostKey 0x100000) 1 type) (hostKey 0x100001) 1 b1) (hostKey 0x100008) 56 body }

/-- The packet of `sPkt`. -/
def pkt (type b1 : Nat) : Packet := ⟨.mgmt, { HostQ.init with base := 0x100000, size := 4, tail := 1 }, hostKey 0x100000, type, b1⟩

/-- It is the packet that a step of its type acts on. -/
def ready (s : State) (p : Packet) (type : Nat) (mgmt : Bool) : Bool :=
  decide (s.mc.packetAt s.ctl.occ.queue = some p) && decide (p.type = type) && !s.mc.tenantBarred p &&
    (!mgmt || decide (p.q = .mgmt))

/-- A descriptor of a task of 64 bytes of X for partition 0 (R128), with its extension block at 0x50000. -/
def desc0 : Nat :=
  64 * 2 ^ 64 + 64 * 2 ^ 96 + 0x10_0010_0010 * 2 ^ 144 + 0xFFFFFFFF * 2 ^ 192 + 0x10100 * 2 ^ 224 + 0x50000 * 2 ^ 320

/-- An ENQUEUE of the descriptor at virtual 0x40000; its extension block is of zeros. -/
def sEnq : State :=
  let s := sPkt 1 0 0x40000
  s.put { s.mc with mem := Cells.wr s.mc.mem 0x240000 128 desc0 }

/-- What its reading and its checks come to: 0 for a task, else the status of the failing check (R188). -/
def enqStatus (s : State) (a : W64) : Nat :=
  match (s.mc.fetchTask s.ctl.cyc (s.mc.queueAccess (pkt 1 0)) none a none).2 with
  | .task _ _ => 0
  | .bad r => r.status
  | .wait _ => 255

/-- The descriptor of `sEnq` is a task; one at an unaligned address fails with status 3, one on no page with 5; a page that is being moved
waits. -/
theorem witness_Enqueue_read :
    let m := sEnq.mc
    let moved : Mach := { m with moves := [⟨0, 0, 2 ^ 21, 0x200000, 0x400000, 5, 0⟩] }
    ready sEnq (pkt 1 0) 1 false = true ∧ m.rd (hostKey 0x100002) 6 = 0 ∧ m.rd (hostKey 0x100008) 8 = 0x40000 ∧
      enqStatus sEnq 0x40000 = 0 ∧ enqStatus sEnq 0x40020 = 3 ∧ enqStatus sEnq 0x200000 = 5 ∧ enqStatus (sEnq.put moved) 0x40000 = 255 ∧
      ¬(m.enqAt.1 = sEnq.ctl.cyc + 1) ∧ (({ m with enqAt := (1, 5) } : Mach).enqAt.1 = sEnq.ctl.cyc + 1 ∧ 0 < 5) ∧
      ((pkt 1 0).blk.full ≠ some m.unmoored ∧ (m.queue .mgmt).full = none ∧ (m.queue (.vm 0 0)).full = none) := by decide +kernel

/-- A task for an ASID of no partition fails with status 4, one for an absent die with 2; a task has a place, and has none without a
mooring and a ring. -/
theorem witness_Enqueue_place :
    let m := sPg.mc
    let d := Desc.parse desc0
    let x := Ext.parse 0
    let t := Task.fresh 0x40000 d x 0 0 true
    m.checkTask none d x = none ∧ m.checkTask (some 1) d x = some ⟨4, 0⟩ ∧
      (m.setPart 0 { m.partition 0 with asids := [] }).checkTask none d x = some ⟨4, 0⟩ ∧
      ({ m with absent := [0] } : Mach).checkTask none d x = some ⟨2, 0⟩ ∧ m.checkTask none { d with segCnt := 0 } x = some ⟨3, 0⟩ ∧
      (m.place 0 0 t).2 = some m.promoteAll.nextTid ∧
      ((m.setPart 0 { m.partition 0 with conf := some { (default : PartConf) with cores := 2 ^ 320 - 1 } }).place 0 0 t).2 = none := by
  decide +kernel

/-- A queue that holds packets and one that holds none; a stopped queue whose STOPPED was read. -/
theorem witness_QueuesOfTheWharf :
    let s := sPkt 0 0
    let counters := (sPkt 2 1 0x1000000000000).mc.fenceCounters (pkt 2 1)
    let polled (cyc : Nat) (l : List (W64 × Nat × Bool)) : Option (List Bool) := (s.mc.fenceRound cyc (s.mc.queueAccess (pkt 2 1)) l).2.toOption
    let wordHeld (a : W64) : Bool := s.mc.accessHeld 1 (s.mc.queueAccess (pkt 3 0)) .write a 8
    ready s (pkt 0 0) 0 false = true ∧ ready (sPkt 0x3F 0) (pkt 0x3F 0) 0x3F false = true ∧ ready (sPkt 1 0) (pkt 1 0) 1 false = true ∧
      ready (sPkt 3 0) (pkt 3 0) 3 false = true ∧ ready (sPkt 2 1) (pkt 2 1) 2 false = true ∧
      (s.mc.queue .mgmt).head ≠ (s.mc.queue .mgmt).tail ∧ (s.mc.queue (.vm 0 0)).head = (s.mc.queue (.vm 0 0)).tail ∧
      (pkt 0 0).b1 % 128 = 0 ∧ (pkt 0 1).b1 % 128 ≠ 0 ∧ s.mc.rd (hostKey 0x100002) 6 = 0 ∧ (∀ c ∈ counters, c.1.toNat % 8 = 0) ∧ counters.length = 1 ∧
      State.reset.mc.packetAt .mgmt = none ∧ (s.mc.queue .mgmt).fenceOn = false ∧
      (({ HostQ.init with stopped := true, stopSeen := true } : HostQ).stopSeen = true ∧ ({} : Occ).tail = 0) ∧
      ({ fromPf := true } : Occ).fromPf = true ∧
      s.mc.mgmt.on = true ∧ polled 0 [(0x50000, 0, true), (0x50008, 1, false)] = some [true, false] ∧
      polled 0 [(0x400000000000, 0, true)] = none ∧ polled 1 [(0x50000, 0, true), (0xFE0000FF00001000, 0, true)] = some [true] ∧
      (wordHeld 0x50000 = false ∧ wordHeld 0xFE0000FF00001000 = true) ∧
      (s.mc.mgmt.bring = 0 ∧ ¬({ s.mc.mgmt with bring := 1 } : Mgmt).bring = 0 ∧ ¬2 < ({ s.mc.mgmt with bring := 1 } : Mgmt).bring) ∧
      ((0x10 : W64).getLsbD 4 = true ∧ (0 : W64).getLsbD 4 = false ∧ 0x20 ∉ [0x08, 0x10, 0x28]) ∧
      (s.mc.writeAt (s.mc.queueAccess (pkt 3 0)) 0x50000 8 1).2.isNone = true ∧
      (s.mc.writeAt (s.mc.queueAccess (pkt 3 0)) 0x400000000000 8 1).2.isSome = true := by decide +kernel

/-- A NOP retires: HEAD moves on; a FENCE of one counter is parsed, polled at a counter that has reached its value, and retired. -/
theorem test_packets :
    let done (i : Instr) (s : State) := look i s fun t => ((t.mc.queue .mgmt).head, (t.mc.queue .mgmt).stopped, (t.mc.queue .mgmt).fenceOn)
    done .nopPacket (sPkt 0 0) = some (1, false, false) ∧ done .nopPacket (sPkt 0 1) = some (0, true, false) ∧
      done .fencePacket (sPkt 2 1) = some (0, false, true) ∧ done .enqueue (sPkt 1 1) = some (0, true, false) := by decide +kernel

/-- Every management packet on its queue, and one of them on a tenant's; an accepted configuration of no core and a refused one; a leaf;
an invalidation under way; slot tables at a multiple of 16 ticks. -/
theorem witness_ManagementPackets :
    let types := [0x10, 0x11, 0x12, 0x13, 0x14, 0x15, 0x16, 0x17, 0x18, 0x19, 0x1B, 0x1D]
    let s := sPkt 0x10 0
    let m := s.mc
    let extra : PartExtra := ⟨0, [], [], 0, []⟩
    let q := QueueId.vm 0 0
    let tenant : State := s.put { (m.setQueue q { HostQ.init with base := 0x100000, size := 4, tail := 1 }) with
      parts := vset m.parts 0 { m.partition 0 with asids := [] } }
    let tp : Packet := ⟨q, { HostQ.init with base := 0x100000, size := 4, tail := 1 }, hostKey 0x100000, 0x10, 0⟩
    (∀ t ∈ types, ready (sPkt t 0) (pkt t 0) t true = true ∧ (pkt t 0).b1 % 128 = 0) ∧ s.ctl.occ.asid < 512 ∧
      ((pkt 0x10 1).b1 % 128 ≠ 0 ∧ ready (sPkt 0x10 1) (pkt 0x10 1) 0x10 false = true) ∧ (0x10 ∈ asidTypes ∧ 512 ≤ ({ asid := 512 } : Occ).asid) ∧
      (tenant.mc.packetAt q = some tp ∧ tenant.mc.tenantBarred tp = false ∧ tp.q ≠ .mgmt) ∧ (m.queue .mgmt).inval = none ∧
      m.movingIn 0 0x10000 0x10000 = false ∧ m.leafSlot 0 0x10000 = some 0x3000 ∧ m.extraOk 0 extra = true ∧
      m.extraOk 0 { extra with vm := 16 } = false ∧ m.confOk 0 (PartConf.parse (64 * 2 ^ (8 * 0x28) + 2 ^ (8 * 0x40))) = true ∧
      m.confOk 0 (PartConf.parse 0) = false ∧ m.taskOf 5 = none ∧
      (known [tk 5 0 .lost] s).mc.taskOf 5 = some (tk 5 0 .lost) ∧ (∀ u ∈ (known [tk 5 0 .lost] s).mc.tasks, 5 ∉ u.after) ∧
      (∃ u ∈ (known [tk 5 0 .lost, { tk 6 0 .moored with after := [5] }] s).mc.tasks, 5 ∈ u.after) ∧
      (let t : Task := { tk 1 0 .bound with desc := { task0.desc with codeBase := 0x8000, codeLen := 64 } }
       t.codeIn 0 0x8000 64 = true ∧ t.codeIn 0 0x10000 64 = false ∧ t.st = .bound ∧
        ((known [t] s).mc.setCore 0 { sW.core with task := some task0 }).coreOf 1 = some 0) ∧
      ((m.setQueue .mgmt { m.queue .mgmt with inval := some 4 }).packetAt .mgmt).map (·.blk.inval) = some (some 4) ∧
      ({ m with invals := [⟨4, 0, 0, 0x10000⟩] } : Mach).invals.find? (fun i => i.id == 4) = some ⟨4, 0, 0, 0x10000⟩ ∧
      m.asidOut 4 = false ∧ (posted [post0] s).mc.asidOut 0 = false ∧ (posted [{ post0 with parts := [(0x240000, 4)] }] s).mc.asidOut 0 = true ∧
      (s.ctl.cyc % 96 = 0 ∧ s.ctl.tick % 16 = 0) ∧
      leafFits (m.leafIsLevel2 0 0x10000) 0x200003 = true ∧ leafFits (m.leafIsLevel2 0 0x10000) 0x200007 = false := by decide +kernel

/-- Packets of checkpoints and resets; a checkpoint in progress with a bound task and with none; a slot with a complete checkpoint, and with
an abandoned one; a die whose retirement is in progress. -/
theorem witness_CheckpointsAndResets :
    let s := sPkt 0x1A 0
    let m := s.mc
    let c : Ckpt := ⟨1, 0, [0], 0, [], 0, [], [], [], [], [], [], []⟩
    (∀ t ∈ [0x1A, 0x1B, 0x1C, 0x19], ready (sPkt t 0) (pkt t 0) t true = true) ∧ m.ckptRun = none ∧ m.busyIn [0] = false ∧
      ({ m with tasks := [tk 1 0 .bound] } : Mach).busyIn [0] = true ∧ c.status = 1 ∧ m.roomFor c.tasks = true ∧
      m.roomFor [{ tk 1 0 .saved with frame := some 0x100000 }] = false ∧ vget m.dock 0 none = none ∧
      ((vget (vset m.dock 0 (some c)) 0 none).map (·.status)) = some 1 ∧ ({ c with status := 2 } : Ckpt).status ≠ 1 ∧
      (m.core 0).task = none ∧ (vget m.slots 0 BindRec.init).valid = false ∧ (m.partition 0).resetting = false ∧
      (0 ∉ m.retiring ∧ 0 ∉ m.absent) ∧ (0 ∈ [0] ∧ m.dieBusy 0 = false) := by decide +kernel

/-- A dark device and a written COLDRST; a bring-up in progress at each group; images that fail. -/
theorem witness_BringUp :
    let s := sPkt 0x19 0
    let g := s.mc.mgmt
    let up : Mgmt := { g with ready := false, groups := 4, relAt := 7 }
    (g.coldRst = false ∧ g.on = true) ∧ ({ g with on := false } : Mgmt).on = false ∧ ({ g with coldRst := true } : Mgmt).coldRst = true ∧
      s.mc.packetAt .mgmt = some (pkt 0x19 0) ∧ g.ready = true ∧ (up.on = true ∧ up.ready = false ∧ up.recovery = false) ∧
      up.relAt ≠ s.ctl.tick + 1 ∧ up.groups < 5 ∧ up.groups = 4 ∧ g.groups = 5 ∧ s.ctl.cyc % 96 = 0 ∧ (atClock 1 s).ctl.cyc % 96 ≠ 0 ∧
      (∀ i < 9, ({ up with bring := i } : Mgmt).bring = i) ∧ ({ up with recovery := true } : Mgmt).recovery = true ∧ g.bring = 0 := by
  decide +kernel

/-- Firmware in flash: of every image the second slot verifies where the first does not, and where its version is below the counter
neither does. -/
theorem witness_BringUp_images :
    let f (ok : Bool) (v : W32) : FlashSlot := { (default : FlashSlot) with edOk := ok, mlOk := ok, version := v }
    let good (counter : Nat) (x : FlashSlot) : Bool := x.edOk && x.mlOk && decide (counter ≤ x.version.toNat)
    (good 7 (f false 9) || good 7 (f true 7)) = true ∧ (good 7 (f true 6) || good 7 (f false 7)) = false := by decide +kernel

/-- The fifth group's release ends step 7, and step 8 makes the device ready and reports it; a cold reset leaves no core released. -/
theorem test_bring_up :
    let s := State.reset
    let up (n : Nat) : State := s.put { s.mc with mgmt := { s.mc.mgmt with ready := false, groups := n, relAt := 7, bring := if n = 5 then 8 else 7 } }
    let cold : State := (atClock 96 s).put { s.mc with mgmt := { s.mc.mgmt with coldRst := true } }
    look .coreGroupRelease (up 4) (fun t => (t.mc.mgmt.ready, t.mc.mgmt.groups, t.mc.mgmt.bring)) = some (false, 5, 8) ∧
      look .coldReset (up 5) (fun t => (t.mc.mgmt.ready, t.mc.events.map (·.code))) = some (true, [0xF2, 0xF2]) ∧
      look .coldReset cold (fun t => (t.mc.mgmt.ready, t.mc.mgmt.groups, t.mc.mgmt.bring, (t.mc.core 5).released)) =
        some (false, 0, 1, false) := by decide +kernel

/-- The window of 16 ticks, before and after the evaluation in it; a hot and a cool part. -/
theorem witness_ManagementController :
    let s := State.reset
    let g := s.mc.mgmt
    (s.ctl.cyc % 96 = 0 ∧ s.ctl.tick % 16 = 0) ∧ g.throtAt ≠ s.ctl.tick + 1 ∧ g.on = true ∧
      ({ g with throtAt := 1, throt := true } : Mgmt).throtAt = s.ctl.tick + 1 ∧ ({ g with throt := true } : Mgmt).throt = true ∧
      115 ≤ (115 : Byte).toNat ∧ (114 : Byte).toNat < 115 ∧ (atClock 96 s).ctl.tick % 16 ≠ 0 := by decide +kernel

/-- A trip darkens the device; PCAP is held between 1,500 and 4,000 (R430). -/
theorem test_management :
    let s := State.reset
    let occ (o : Occ) : State := { s with ctl := { s.ctl with occ := o } }
    look .thermalTrip (occ { temp := 115 }) (fun t => (t.mc.mgmt.on, t.mc.mgmt.nv.trip)) = some (false, true) ∧
      look .thermalTrip (occ { temp := 114 }) (fun t => (t.mc.mgmt.on, t.mc.mgmt.nv.trip)) = some (true, false) ∧
      [0, 1499, 1501, 5000].map (fun w => look .pcapWrite (occ { word := w }) fun t => t.mc.mgmt.pcap.toNat) =
        [some 1500, some 1500, some 1501, some 4000] := by decide +kernel

/-- A port that is up, with credits and with room, or without; flits for this package and for another, with a route and without
one; a port that retrains at each side of 1 ms, one that is lost; good and bad tables; far-tier ranges that fit and that do not.
-/
theorem witness_LinksAndTables :
    let x := LinkPort.init
    let down : LinkPort := { x with up := false, downAt := 10 }
    let f : Flit := ⟨1, 0, 3, 0, 0, [], true, false, 0⟩
    let r : Route := ⟨254, 1, 4⟩
    let full : LinkPort := { x with replay := List.replicate 512 f, credits := [0, 9, 0, 0] }
    let routed : Mach := { State.reset.mc with routes := [r] }
    (x.up = true ∧ x.lost = false ∧ f.crcOk = true ∧ f.seqno = x.expect ∧ x.waiting = []) ∧ ({ f with crcOk := false } : Flit).crcOk = false ∧
      ({ f with seqno := 1 } : Flit).seqno ≠ x.expect ∧ ({ f with nak := true } : Flit).nak = true ∧
      ({ x with replay := [f] } : LinkPort).replay.filter (fun g => ¬(({ f with ack := 0xFFFF } : Flit).ack - g.seqno).toNat < 2 ^ 15) ≠ [] ∧
      State.reset.mc.pkgIsOwn 0xFF = true ∧ routed.pkgIsOwn 254 = false ∧
      routed.outPort 254 1 = some 0 ∧ State.reset.mc.outPort 254 1 = none ∧
      ({ x with credits := [0, 1, 0, 0] } : LinkPort).credits[1]? = some 1 ∧ ¬full.replay.length < 512 ∧ x.credits[1]? = some 0 ∧
      8 ≤ ({ x with tries := 8 } : LinkPort).tries ∧ x.tries < 8 ∧ (down.up = false ∧ down.lost = false) ∧
      10 + 1500000 ≤ down.downAt + 1500000 ∧ down.downAt + 1500000 < 10 + 1500001 ∧
      ([r].map (·.pkg)).eraseDups.length = [r].length ∧
      (r.pkg ≤ 254 ∧ r.ports.getLsbD 12 = false ∧ ((List.range 12).filter fun i => r.ports.getLsbD i).length = 1 ∧ 1 ≤ r.hops ∧ r.hops ≤ 4) ∧
      ¬(({ r with hops := 5 } : Route).hops ≤ 4) ∧ (254 : Byte).toNat ≤ 254 ∧ (255 : Byte).toNat = 255 ∧
      ((1 ≤ (10 * 2 ^ 48, 4096).2 ∧ (10 * 2 ^ 48, 4096).1 / 2 ^ 48 = 10 + 0) ∧
        ((State.reset.mc.cxlWith 0 0 [(10 * 2 ^ 48, 4096)]).map (·.2.2.2)).sum ≤ 2 ^ 44) ∧
      vget State.reset.mc.roots 5 0 = 0 := by decide +kernel

/-- A flit moves the expected number on and returns credits; a retraining is reported. -/
theorem test_links :
    let s := State.reset
    let occ (o : Occ) : State := { s with ctl := { s.ctl with occ := o } }
    look .flitReceive (occ { port := 2, flit := ⟨1, 0, 3, 0, 0, [], true, false, 0⟩ })
      (fun t => ((vget t.mc.links 2 LinkPort.init).expect, (vget t.mc.links 2 LinkPort.init).credits)) = some (1, [0, 3, 0, 0]) ∧
      look .linkRetrain { occ { port := 2 } with mc := { s.mc with links := vset s.mc.links 2 { LinkPort.init with tries := 8 } } } (fun t => ((vget t.mc.links 2 LinkPort.init).up, t.mc.events.map (·.code))) =
        some (false, [0xF2, 0xF0]) := by decide +kernel

/-! ### The whole machine -/

/-- A step fetches the word placed at the program counter of each kind of stream and runs it, as the first after reset: LI of X (R39), KLI
of L, VLI of C, MZERO (R44, R50), TLI of a context (R56); and a bound core with a word at its program counter. -/
theorem witness_StepRunsDecoded :
    let s := State.reset
    let run {α : Type} (s : State) (f : State → α) : Option α :=
      match step s with
      | .next t => some (f t)
      | .fault _ => none
      | .refused _ => none
    let li := 1 + 0x04 * 2 ^ 2 + 0x7 * 2 ^ 8 + 9 * 2 ^ 12 + 0xFFFE * 2 ^ 32
    let tli := 1 + 0x22 * 2 + 4 * 2 ^ 7 + 0xABCD * 2 ^ 64
    let mz := 3 + 0x02 * 2 ^ 2 + 0x7 * 2 ^ 8 + 1 * 2 ^ 12 + 1 * 2 ^ 14
    run (s.withFetchWord 64 li) (fun t => ((t.mc.core 0).x.getS 9, (t.mc.core 0).x.pc, t.agenda.length, t.turns)) =
        some (0xFFFFFFFFFFFFFFFE, 8, 0, 1) ∧
      run (s.withFetchWord 128 tli) (fun t => (t.mc.ctx (.core 0) 0).reg 4) = some 0xABCD ∧
      run (s.withFetchWord 192 mz) (fun t => ((t.mc.core 0).mat.queue.length, (t.mc.core 0).c.pc)) = some (1, 24) ∧
      (let c := (s.withFetchWord 64 li).mc.core 0
       c.task = some placedTask ∧ c.mayIssue placedTask .x 0 = true ∧ wordLen (c.istore.get 0) = 8 ∧ 0 + 8 ≤ placedTask.endOf .x ∧
         ((s.withFetchWord 64 li).mc.engine (.core 0)).pendFault = none ∧ xPrivileged (.li64 .always 9 0xFFFE) = false) := by
  decide +kernel

/-- A context whose turn it is, with a word and with a command in progress; an engine of a die, which needs no task; X, and a trap of L that
is taken while X's wait times out in the same clock: X's is taken; a clock in which a move is due, and one that ends. -/
theorem witness_StepRunsDecoded_moves :
    let s := State.reset
    let t := s.withFetchWord 128 (1 + 0x22 * 2 + 4 * 2 ^ 7 + 0xABCD * 2 ^ 64)
    let g := t.mc.engine (.core 0)
    let c := cmdOf (.accw (tw 1 2 0 0 0 0 0)) (recAt 7 0 4 1) 4 []
    let late := sWait 262 (.waitlc64 .always 3 7 1)
    let both := late.putCore { late.core with l := { late.core.l with wait := some ⟨.qgetVw default, 6, some 1⟩ } }
    let l : State := both.forOcc { waiter := .seq 0 .l }
    (t.mc.engineLive (.core 0) = true ∧ g.turn = some 0 ∧ (g.ctx 0).cmd = none ∧ 0 + 16 ≤ g.plen) ∧
      (sCmd c 0).mc.engineLive (.core 0) = true ∧ ((sCmd c 0).mc.engine (.core 0)).turn = some 0 ∧ (sCmd c 0).ctx.cmd = some c ∧
      s.mc.engineLive (.die 0 0) = true ∧ s.due.isNone = true ∧
      (late.due.map fun t => (t.mc.core 0).trap.tcause) = some 0x40 ∧
      (match l.firstTrap (Move.occur .waitTimeout { waiter := .seq 0 .l }).trapSource (exec .waitTimeout l) with
        | .next t => (t.mc.core 0).trap.tsrc == 0
        | _ => false) = true ∧
      (match exec .waitTimeout l with
        | .next t => (t.mc.core 0).trap.tsrc == 1
        | _ => false) = true ∧
      ((10 * 2 ^ 48 ≤ 10 * 2 ^ 48 + 64 ∧ 10 * 2 ^ 48 + 64 + [(1 : Byte)].length ≤ 13 * 2 ^ 48) ∧ ¬10 * 2 ^ 48 ≤ 4096) ∧
      Instr.trapDelivery.isEvent = true ∧ Instr.granuleSweep ∉ [Instr.blockingConditionMet, .waitTimeout, .trapDelivery] := by decide +kernel

/-- Well-formed words of each encoder, in a stream that issues them. -/
theorem witness_DecodeEncodeRoundTrip :
    let v : VArgs := { (default : VArgs) with g := Guard.always, d := 5, a := 3 }
    (Instr.li64 Guard.always 9 0xFFFE).wf = true ∧ (encodeS (.li64 Guard.always 9 0xFFFE)).isSome = true ∧ (Instr.gld v).wf = true ∧
      (∃ w, encodeV (.gld v) = some (0x02, w) ∧ vStreamOk .l 0x02 = true ∧ vQueueOk .l 0x02 w.fn.toNat = true) ∧
      (encodeM (.mzero { (default : MArgs) with g := Guard.always, acc := 1 })).isSome = true ∧
      (encodeT (.tli128 { (default : TArgs) with d := 4, imm64 := 7 })).isSome = true ∧
      (Instr.tli128 { (default : TArgs) with d := 4, imm64 := 7 }).wf = true ∧
      (Instr.mzero { (default : MArgs) with g := Guard.always, acc := 1 }).wf = true := by
  and_intros <;> first
    | decide +kernel
    | exact ⟨_, rfl, by and_intros <;> decide +kernel⟩

/-- Reset keeps the ticks right, and so does the step after it. -/
theorem witness_TicksStayRight :
    let s := State.reset.withFetchWord 64 (1 + 0x04 * 2 ^ 2 + 0x7 * 2 ^ 8 + 9 * 2 ^ 12)
    s.ctl.tick = s.ctl.cyc / 96 ∧ (match step s with
      | .next _ => true
      | .fault _ => false
      | .refused _ => false) = true := by decide +kernel

/-- Reset keeps every store of bytes in its canonical form. -/
theorem witness_TicksStayRight_canonical : State.reset.mc.canonical := by
  have h : ∀ n : Fin 320, (State.reset.mc.core n.val).sp.wf = true := by decide +kernel
  have h0 : State.reset.mc.dock.toList = [none, none] := by decide +kernel
  refine ⟨⟨rfl, fun n => ?_⟩, (fun _ hf => nomatch hf), fun c hc => absurd (h0 ▸ hc) (by simp)⟩
  if hn : n < 320 then exact h ⟨n, hn⟩
  else exact (congrArg (fun c : Core => c.sp.wf) (dif_neg hn)).trans rfl

end Sys2Proof.Tests
end

/-! ## What a step leaves of the agenda and of the counts of turns, clocks and ticks (R21, R22) -/

namespace Sys2Proof.Machine

/-- Between the two states nothing was put on or taken off the agenda, and no turn, clock or tick was counted. -/
structure State.SameCounts (s t : State) : Prop where
  agenda : t.agenda = s.agenda
  turns : t.turns = s.turns
  cyc : t.ctl.cyc = s.ctl.cyc
  tick : t.ctl.tick = s.ctl.tick

theorem State.SameCounts.refl (s : State) : s.SameCounts s := ⟨rfl, rfl, rfl, rfl⟩

theorem State.SameCounts.trans {s t u : State} (h : s.SameCounts t) (h' : t.SameCounts u) : s.SameCounts u :=
  ⟨h'.agenda.trans h.agenda, h'.turns.trans h.turns, h'.cyc.trans h.cyc, h'.tick.trans h.tick⟩

theorem State.sameCounts_put (s : State) (m : Mach) : s.SameCounts (s.put m) := ⟨rfl, rfl, rfl, rfl⟩

/-- The outcome is a next state with the counts of `s`. -/
def Out.KeepsCounts (o : Out) (s : State) : Prop := ∃ t, o = .next t ∧ s.SameCounts t

theorem keepsCounts_next_self (s : State) : Out.KeepsCounts (.next s) s := ⟨s, rfl, .refl s⟩

/-- Replacing the machine keeps the counts; every meaning that is written with `onMach` does no more. -/
theorem keepsCounts_next_put (s : State) (m : Mach) : Out.KeepsCounts (.next (s.put m)) s := ⟨s.put m, rfl, s.sameCounts_put m⟩

/-! ## Shared operations that choose before they act on the machine -/

/-- A word of C on tiles waits for an earlier MACCR or acts on the machine (R233). -/
theorem cTry_keepsCounts (s : State) (w : VArgs) (tiles : List Reg4) (f : Ctl → Core → CoreRes) : (cTry s w tiles f).KeepsCounts s := by
  unfold cTry
  dsimp only
  split
  · exact keepsCounts_next_self s
  · exact keepsCounts_next_put s _

/-- A load of an operand buffer waits for the buffer or acts on the machine (R327). -/
theorem gldBuf_keepsCounts (s : State) (i : Instr) (w : VArgs) (isB : Bool) : (gldBuf s i w isB).KeepsCounts s := by
  unfold gldBuf
  split
  · exact keepsCounts_next_put s _
  · exact keepsCounts_next_put s _

/-- Looking again at a waiting word is that word's meaning, or nothing. -/
theorem lookAgain_keepsCounts (i : Instr) (s : State) : (lookAgain i s).KeepsCounts s := by
  cases i
  case gldOa w => exact gldBuf_keepsCounts s _ w false
  case gldOb w => exact gldBuf_keepsCounts s _ w true
  all_goals exact keepsCounts_next_put s _

/-! ## Events that choose before they act on the machine -/

theorem execBlockingConditionMet_keepsCounts (s : State) : (execBlockingConditionMet s).KeepsCounts s := by
  unfold execBlockingConditionMet
  dsimp only
  split
  · split
    · obtain ⟨t, ht, h⟩ := lookAgain_keepsCounts _ { s with ctl := { s.ctl with curV := seqV s.ctl.occ.seq } }
      exact ⟨t, ht, h.agenda, h.turns, h.cyc, h.tick⟩
    · exact keepsCounts_next_self s
  · exact keepsCounts_next_self s

theorem execAdmissionGrant_keepsCounts (s : State) : (execAdmissionGrant s).KeepsCounts s := by
  unfold execAdmissionGrant
  dsimp only
  split
  · exact keepsCounts_next_self s
  split
  · split
    · exact keepsCounts_next_put s _  -- ACCW
    · exact keepsCounts_next_put s _  -- REDUCE
    · exact keepsCounts_next_self s
  · exact keepsCounts_next_self s

theorem execContextWaitSatisfied_keepsCounts (s : State) : (execContextWaitSatisfied s).KeepsCounts s := by
  unfold execContextWaitSatisfied
  dsimp only
  split
  · exact keepsCounts_next_self s
  split
  · split
    · exact keepsCounts_next_put s _  -- SEMWT
    · exact keepsCounts_next_put s _  -- RFILL
    · exact keepsCounts_next_put s _  -- RDRAIN
    · exact keepsCounts_next_self s
  · exact keepsCounts_next_self s

/-- The steps that may change the counts of clocks and ticks. -/
def clockSteps : List Instr := [.lockCycleTick, .coldReset, .resetCold]

/-- Every other step answers a next state with the counts of the state it began in: by far the most meanings are written with
`onMach`, so that they replace the machine and nothing else; those that choose before they act have their lemmas above. -/
theorem exec_keepsCounts (i : Instr) (s : State) (h : i ∉ clockSteps) : Out.KeepsCounts (exec i s) s := by
  cases i
  case lockCycleTick | coldReset | resetCold => simp [clockSteps] at h
  case blockingConditionMet => exact execBlockingConditionMet_keepsCounts s
  case admissionGrant => exact execAdmissionGrant_keepsCounts s
  case contextWaitSatisfied => exact execContextWaitSatisfied_keepsCounts s
  case gldOa w => exact gldBuf_keepsCounts s _ w false
  case gldOb w => exact gldBuf_keepsCounts s _ w true
  case vadd w | vsub w | vmul w | vfma w | vminmax w | vsgn w | vclamp w | viadd w | visub w | vimul w | vlogic w | vshift w |
      viminmax w | vcmp w | vsel w | vcvt w | vqnt w | vsf w | vbcr w | vbcc w | vrotr w | vrotc w | vperm w | vmov w | vli w |
      vredr w | vredc w | vsegr w | vscanr w | vrng w => exact cTry_keepsCounts s w _ _
  all_goals exact keepsCounts_next_put s _

/-! ## The moves that are due in a clock (Machine/Due.lean) -/

theorem State.sameCounts_forOcc (s : State) (o : Occ) : s.SameCounts (s.forOcc o) := ⟨rfl, rfl, rfl, rfl⟩

theorem State.sameCounts_forCtx (s : State) (e : EngineId) (n : Fin 4) : s.SameCounts (s.forCtx e n) := ⟨rfl, rfl, rfl, rfl⟩

/-- A step that may be due: where there is one, it has the counts of `s`. -/
def State.DueKeeps (s : State) (o : Option State) : Prop := ∀ t, o = some t → s.SameCounts t

section
variable {s : State}

theorem dueKeeps_none : s.DueKeeps none := fun _ h => nomatch h

theorem dueKeeps_some {t : State} (h : s.SameCounts t) : s.DueKeeps (some t) := fun _ ht => Option.some.inj ht ▸ h

/-- The step of an agent, which sees `s` as `t`. -/
theorem dueKeeps_stateOr {t : State} {o : Out} (hst : s.SameCounts t) (h : Out.KeepsCounts o t) (u : State) :
    s.DueKeeps (some (Out.stateOr o u)) := by
  obtain ⟨v, rfl, hv⟩ := h
  exact dueKeeps_some (hst.trans hv)

theorem State.DueKeeps.orElse {a b : Option State} (ha : s.DueKeeps a) (hb : s.DueKeeps b) : s.DueKeeps (a <|> b) := by
  cases a with
  | none => exact hb
  | some t => exact ha

theorem State.DueKeeps.ite {c : Prop} [Decidable c] {a b : Option State} (ha : s.DueKeeps a) (hb : s.DueKeeps b) :
    s.DueKeeps (if c then a else b) := by
  split
  · exact ha
  · exact hb

/-- A due step that is made only under a condition. -/
theorem State.DueKeeps.onlyIf {c : Prop} [Decidable c] {a : Option State} (ha : s.DueKeeps a) : s.DueKeeps (if c then a else none) :=
  ha.ite dueKeeps_none

/-- A due step that is made unless a condition holds. -/
theorem State.DueKeeps.unless {c : Prop} [Decidable c] {a : Option State} (ha : s.DueKeeps a) : s.DueKeeps (if c then none else a) :=
  dueKeeps_none.ite ha

theorem dueKeeps_findSome? {α : Type} (l : List α) (f : α → Option State) (h : ∀ a, s.DueKeeps (f a)) : s.DueKeeps (l.findSome? f) :=
  fun t ht => by
    obtain ⟨a, _, ha⟩ := List.exists_of_findSome?_eq_some ht
    exact h a t ha

theorem dueKeeps_withMach (m : Option Mach) : s.DueKeeps (s.withMach m) := fun t h => by
  obtain ⟨m', _, rfl⟩ := Option.map_eq_some_iff.mp h
  exact s.sameCounts_put m'

end

theorem State.ifSeq_keeps {s u : State} (n : Fin 320) (q : SeqName) (f : State → Out) (hu : s.SameCounts u)
    (hf : Out.KeepsCounts (f u) u) : s.DueKeeps (u.ifSeq n q f) :=
  (dueKeeps_stateOr hu hf u).unless

theorem State.dueWait_keeps (s : State) (n : Fin 320) (q : SeqName) : s.DueKeeps (s.dueWait n q) := by
  have hmet := ifSeq_keeps n q execBlockingConditionMet (s.sameCounts_forOcc { core := n, seq := q })
    (execBlockingConditionMet_keepsCounts _)
  have htime := ifSeq_keeps n q execWaitTimeout (s.sameCounts_forOcc { core := n, waiter := .seq n q }) (keepsCounts_next_put _ _)
  exact (hmet.orElse htime).unless

theorem State.dueStep_keeps (s : State) (n : Fin 320) : s.DueKeeps (s.dueStep n) :=
  (dueKeeps_stateOr (s.sameCounts_forOcc _) (keepsCounts_next_put _ _) s).onlyIf

theorem State.dueLink_keeps (s : State) (n : Fin 320) (q : SeqName) : s.DueKeeps (s.dueLink n q) := by
  unfold State.dueLink
  split
  · exact (ifSeq_keeps n q execRingExtensionLink (s.sameCounts_forOcc _) (keepsCounts_next_put _ _)).onlyIf
  · exact dueKeeps_none

theorem State.dueX_keeps (s : State) (n : Fin 320) : s.DueKeeps (s.dueX n) := by
  have hv := s.sameCounts_forOcc { core := n }
  have hload := dueKeeps_stateOr (o := execLdsComplete _) hv (keepsCounts_next_put _ _) (s.forOcc { core := n })
  have hfence := ifSeq_keeps n .x execFencescComplete hv (keepsCounts_next_put _ _)
  exact hload.ite hfence.onlyIf

theorem State.dueStop_keeps (s : State) (n : Fin 320) : s.DueKeeps (s.dueStop n) :=
  (dueKeeps_some (s.sameCounts_put (s.mc.endStop s.ctl n))).unless.unless

theorem State.dueFault_keeps (s : State) (n : Fin 320) : s.DueKeeps (s.dueFault n) :=
  (dueKeeps_stateOr (s.sameCounts_forOcc _) (keepsCounts_next_put _ _) s).onlyIf

theorem State.dueCtx_keeps (s : State) (e : EngineId) (n : Fin 4) : s.DueKeeps (s.dueCtx e n) := by
  have hocc := s.sameCounts_forOcc { waiter := .ctx e n }
  unfold State.dueCtx
  dsimp only
  split
  · have htest := dueKeeps_stateOr (s.sameCounts_forCtx e n) (execContextWaitSatisfied_keepsCounts _) s
    have htime := dueKeeps_stateOr (o := execWaitTimeout _) hocc (keepsCounts_next_put _ _) s
    exact htest.unless.orElse htime.unless
  · have hlink := dueKeeps_stateOr (o := execRingExtensionLink _) hocc (keepsCounts_next_put _ _) s
    exact hlink.unless.onlyIf
  · exact dueKeeps_none

theorem State.dueEngine_keeps (s : State) (e : EngineId) : s.DueKeeps (s.dueEngine e) :=
  (dueKeeps_findSome? _ _ fun n => s.dueCtx_keeps e n).onlyIf

theorem State.dueCore_keeps (s : State) (n : Fin 320) : s.DueKeeps (s.dueCore n) :=
  ((s.dueX_keeps n).orElse <| (s.dueStop_keeps n).orElse <| (s.dueWait_keeps n .x).orElse <| (s.dueWait_keeps n .l).orElse <|
    (s.dueWait_keeps n .c).orElse <| (s.dueStep_keeps n).orElse <| (s.dueWait_keeps n .s).orElse <| (s.dueLink_keeps n .l).orElse <|
    (s.dueLink_keeps n .c).orElse <| (s.dueLink_keeps n .s).orElse <| (s.dueEngine_keeps (.core n)).orElse (s.dueFault_keeps n)).unless

theorem State.duePromotion_keeps (s : State) : s.DueKeeps s.duePromotion :=
  (dueKeeps_some (s.sameCounts_put s.mc.promoteAll)).onlyIf

theorem State.dueFast_keeps (s : State) : s.DueKeeps s.dueFast := by
  unfold State.dueFast
  split
  · exact dueKeeps_stateOr (s.sameCounts_forOcc _) (keepsCounts_next_put _ _) s
  · exact dueKeeps_none

theorem State.dueKeeper_keeps (s : State) : s.DueKeeps s.dueKeeper := (dueKeeps_withMach _).orElse (dueKeeps_withMach _)

theorem State.dueTick_keeps (s : State) : s.DueKeeps s.dueTick := by
  have hslots := dueKeeps_stateOr (o := execSlotTableSwitch s) (.refl s) (keepsCounts_next_put s _) s
  exact ((dueKeeps_withMach _).orElse (hslots.onlyIf.orElse (dueKeeps_withMach _))).unless

theorem State.dueEcc_keeps (s : State) : s.DueKeeps s.dueEcc := fun t h => by
  obtain ⟨d, _, rfl⟩ := Option.map_eq_some_iff.mp h
  exact dueKeeps_stateOr (s.sameCounts_forOcc _) (keepsCounts_next_put _ _) s _ rfl

/-- A move that is due in a clock is made in it: no clock, tick or turn passes. -/
theorem State.due_keeps (s : State) : s.DueKeeps s.due :=
  (dueKeeps_findSome? _ _ s.dueCore_keeps).orElse <| (dueKeeps_findSome? _ _ s.dueEngine_keeps).orElse <|
    s.duePromotion_keeps.orElse <| s.dueKeeper_keeps.orElse <| s.dueFast_keeps.orElse <| s.dueTick_keeps.orElse s.dueEcc_keeps

/-! ## Clocks (R22) -/

theorem State.settle_sameCounts (s : State) (n : Nat) : s.SameCounts (s.settle n) := by
  induction n generalizing s with
  | zero => exact .refl s
  | succ n ih =>
    rw [State.settle]
    split
    next t ht => exact (s.due_keeps t ht).trans (ih t)
    next => exact .refl s

/-- A clock counts one tick when it is a multiple of 96 (R22). -/
theorem State.clockOne_tick (s : State) : s.clockOne.ctl.tick + s.ctl.cyc / 96 = s.ctl.tick + (s.ctl.cyc + 1) / 96 := by
  have h : s.clockOne.ctl.tick = if (s.ctl.cyc + 1) % 96 == 0 then s.ctl.tick + 1 else s.ctl.tick := rfl
  rw [h]
  split
  next h0 => have := beq_iff_eq.mp h0; omega
  next h0 => have := mt beq_iff_eq.mpr h0; omega

/-- `n` clocks count `n` clocks and a tick for each multiple of 96 among them, and leave the agenda and the turns. -/
theorem State.clocks_counts (s : State) (n : Nat) : (s.clocks n).agenda = s.agenda ∧ (s.clocks n).turns = s.turns ∧
    (s.clocks n).ctl.cyc = s.ctl.cyc + n ∧ (s.clocks n).ctl.tick + s.ctl.cyc / 96 = s.ctl.tick + (s.ctl.cyc + n) / 96 := by
  induction n generalizing s with
  | zero => exact ⟨rfl, rfl, rfl, rfl⟩
  | succ n ih =>
    rw [State.clocks]
    have hs := s.settle_sameCounts dueBound
    generalize s.settle dueBound = u at hs ⊢
    obtain ⟨ha, ht, hc, hk⟩ := ih u.clockOne
    have hcyc : u.clockOne.ctl.cyc = s.ctl.cyc + 1 := congrArg (· + 1) hs.cyc
    have htick := u.clockOne_tick
    rw [hs.cyc, hs.tick] at htick
    rw [hcyc] at hc hk
    exact ⟨ha.trans hs.agenda, ht.trans hs.turns, by omega, by omega⟩

/-! ## The steps that change the counts of clocks and ticks (R21, R424) -/

/-- LOCK_CYCLE_TICK ends at the next multiple of 96, having counted one tick. -/
theorem execLockCycleTick_counts (s : State) : ∃ t, execLockCycleTick s = .next t ∧ t.agenda = s.agenda ∧ t.turns = s.turns ∧
    t.ctl.cyc = 96 * (s.ctl.cyc / 96 + 1) ∧ t.ctl.tick = s.ctl.tick + 1 := by
  obtain ⟨ha, ht, hc, hk⟩ := s.clocks_counts (96 - s.ctl.cyc % 96)
  exact ⟨_, rfl, ha, ht, by omega, by omega⟩

/-- A state of a cold reset: the agenda and the turns of `s`, and its counts of clocks and ticks, or both afresh. -/
def State.ColdCounts (s t : State) : Prop := t.agenda = s.agenda ∧ t.turns = s.turns ∧
  ((t.ctl.cyc = s.ctl.cyc ∧ t.ctl.tick = s.ctl.tick) ∨ (t.ctl.cyc = 0 ∧ t.ctl.tick = 0))

theorem State.SameCounts.cold {s t : State} (h : s.SameCounts t) : s.ColdCounts t := ⟨h.agenda, h.turns, .inl ⟨h.cyc, h.tick⟩⟩

/-- Of the steps of bring-up the sixth starts the counts afresh (R424); the others leave them. -/
theorem bringStep_coldCounts (s : State) : s.ColdCounts (bringStep s) := by
  unfold bringStep
  dsimp only
  split
  case h_6 => exact ⟨rfl, rfl, .inr ⟨rfl, rfl⟩⟩
  all_goals exact State.SameCounts.cold ⟨rfl, rfl, rfl, rfl⟩

theorem execColdReset_coldCounts (s : State) : ∃ t, execColdReset s = .next t ∧ s.ColdCounts t := by
  refine ⟨_, rfl, ?_⟩
  split
  · exact State.SameCounts.cold ⟨rfl, rfl, rfl, rfl⟩
  split
  · exact bringStep_coldCounts s
  · exact (State.SameCounts.refl s).cold

theorem execResetCold_keepsCounts (s : State) : Out.KeepsCounts (execResetCold s) s := by
  unfold execResetCold
  split
  · exact keepsCounts_next_self s
  split
  · exact keepsCounts_next_self s
  split
  · exact keepsCounts_next_put s _
  split
  · exact keepsCounts_next_put s _
  · exact keepsCounts_next_put s _

/-- Settles O58, by the three steps that change the count of clocks or ticks, and all others, which leave every count. -/
theorem everyStepHasANextState : Obligations.EveryStepHasANextState := by
  unfold Obligations.EveryStepHasANextState
  intro i s
  by_cases hi : i ∈ clockSteps
  · simp only [clockSteps, List.mem_cons, List.not_mem_nil, or_false] at hi
    obtain rfl | rfl | rfl := hi
    · obtain ⟨t, ht, ha, hn, hc, hk⟩ := execLockCycleTick_counts s
      exact ⟨t, ht, ha, hn, by simp, fun _ => ⟨hc, hk⟩, by simp⟩
    · obtain ⟨t, ht, ha, hn, hc⟩ := execColdReset_coldCounts s
      exact ⟨t, ht, ha, hn, by simp, by simp, fun _ => hc⟩
    · obtain ⟨t, ht, h⟩ := execResetCold_keepsCounts s
      exact ⟨t, ht, h.agenda, h.turns, by simp, by simp, fun _ => .inl ⟨h.cyc, h.tick⟩⟩
  · obtain ⟨t, ht, h⟩ := exec_keepsCounts i s hi
    exact ⟨t, ht, h.agenda, h.turns, fun _ => ⟨h.cyc, h.tick⟩, fun e => absurd (e ▸ by simp [clockSteps]) hi,
      fun _ => .inl ⟨h.cyc, h.tick⟩⟩

end Sys2Proof.Machine

/-! ## Loads from scratchpad in positions (R27, R205) -/

namespace Sys2Proof.Machine

/-- A core as a load sees it: with the scratchpad as it has read it, its positions as they then are. -/
def Core.seeing (c : Core) (sp : Cells) (pos : Nat × Nat) : Core := { c with sp := sp, pos := pos }

section
variable (c : Core) (sp : Cells) (pos : Nat × Nat)

@[simp] theorem Core.seeing_stream (q : VSeq) (n : Nat) : (c.seeing sp pos).stream q n = c.stream q n := by cases q <;> rfl
@[simp] theorem Core.seeing_vs (q : VSeq) : (c.seeing sp pos).vs q = c.vs q := by cases q <;> rfl
@[simp] theorem Core.seeing_k (q : VSeq) (r : Reg4) : (c.seeing sp pos).k q r = c.k q r := by cases q <;> rfl
@[simp] theorem Core.seeing_cached (o : W64) : (c.seeing sp pos).cached o = c.cached o := rfl

/-- Writing a stream register leaves the scratchpad. -/
theorem Core.setStream_withSp (q : VSeq) (n : Nat) (x : Option Stream) :
    ({ c with sp := sp } : Core).setStream q n x = { c.setStream q n x with sp := sp } := by cases q <;> rfl

/-- Writing a mask register leaves the scratchpad. -/
theorem Core.setM_withSp (n : Nat) (x : Mask) : ({ c with sp := sp } : Core).setM n x = { c.setM n x with sp := sp } := by
  unfold Core.setM
  split <;> rfl

/-- Writing both leaves it. -/
theorem Core.setM_setStream_withSp (m : Nat) (x : Mask) (q : VSeq) (n : Nat) (y : Option Stream) :
    (({ c with sp := sp } : Core).setM m x).setStream q n y = { (c.setM m x).setStream q n y with sp := sp } := by
  rw [Core.setM_withSp, Core.setStream_withSp]

/-- Raising flags leaves the scratchpad. -/
theorem Core.vFlags_withSp (q : VSeq) (f : Flags) :
    ({ c with sp := sp } : Core).vFlags q f = { c.vFlags q f with sp := sp } := by cases q <;> rfl

end

/-- The state after a load, by its effect on the core: past the word, with the scratchpad as it is, or trapped. -/
def State.afterLoad (s : State) (len : Nat) : CoreRes → State
  | .ok c => s.vPass len { c with sp := s.core.sp }
  | .trap code i0 i1 => s.vTrap code i0 i1

theorem vPosition_iff (q : VSeq) (cyc : Nat) : vPosition q cyc = true ↔ inPosition q cyc := by
  cases q <;> simp [vPosition, VSeq.toSeq, atPosition, inPosition]

/-! ### One clock of a load -/

/-- The units that a load with the units `l` read has left. -/
def Core.toRead (c : Core) (need : Core → List Nat) (l : List (Nat × List Byte)) : List Nat :=
  unread l (need (c.seeing (seenAs c.sp l) c.pos))

/-- What a load has read after its next position: of every bank one unit more, as far as one is left. -/
def Core.readMore (c : Core) (q : VSeq) (need : Core → List Nat) : List (Nat × List Byte) :=
  c.gotOf q ++ (wheelServes (c.toRead need (c.gotOf q))).map fun u => (u, unitAt c.sp u)

section
variable {c : Core} {q : VSeq} {need : Core → List Nat} (i : Instr) (cyc : Nat) (pos : Bool)

/-- A load that has read all ends. -/
theorem Core.loadStep_all (h : c.toRead need (c.gotOf q) = []) :
    c.loadStep q i cyc pos need = .done (c.seeing (seenAs c.sp (c.gotOf q)) c.pos) :=
  if_pos (List.isEmpty_iff.mpr h)

/-- A load that has units left, in a position that is free. -/
theorem Core.loadStep_position (h : c.toRead need (c.gotOf q) ≠ []) (hp : pos = true) (hf : c.pos.1 ≤ cyc) :
    c.loadStep q i cyc pos need = if (c.toRead need (c.readMore q need)).isEmpty
      then .done (c.seeing (seenAs c.sp (c.readMore q need)) (cyc + 1, 0))
      else .wait (({ c with pos := (cyc + 1, 0) } : Core).setVs q
        { c.vs q with acc := some ⟨i, c.readMore q need⟩, wait := none, ready := cyc + 1 }) := by
  have hvs : ({ c with pos := (cyc + 1, 0) } : Core).vs q = c.vs q := by cases q <;> rfl
  rw [← hvs]
  exact (if_neg (mt List.isEmpty_iff.mp h)).trans (if_pos (by simp [hp, hf]))

/-- A load that has units left, elsewhere: it keeps what it has read. -/
theorem Core.loadStep_elsewhere (h : c.toRead need (c.gotOf q) ≠ []) (hp : ¬(pos = true ∧ c.pos.1 ≤ cyc)) :
    c.loadStep q i cyc pos need = .wait (c.setVs q { c.vs q with acc := some ⟨i, c.gotOf q⟩, wait := none }) :=
  (if_neg (mt List.isEmpty_iff.mp h)).trans (if_neg (by simpa using hp))

end

/-- A load looks at its scratchpad alone to tell what it needs. -/
theorem Core.loadStep_congr {c : Core} (q : VSeq) (i : Instr) (cyc : Nat) (pos : Bool) {need needs : Core → List Nat}
    (h : ∀ sp, need (c.seeing sp c.pos) = needs (c.seeing sp c.pos)) :
    c.loadStep q i cyc pos need = c.loadStep q i cyc pos needs := by
  have hview (l : List (Nat × List Byte)) : need { c with sp := seenAs c.sp l } = needs { c with sp := seenAs c.sp l } := h _
  unfold Core.loadStep
  simp only [hview]

/-! ### The word of a load -/

section
variable {s : State} {i : Instr} {len : Nat} {g : Guard} {pos : Ctl → Bool} {check : Ctl → Core → Option (Byte × W64 × W64)}
  {need : Ctl → Core → List Nat} {act : Ctl → Core → CoreRes}

theorem vLoad_skip (h : guardHolds g s.vs.p = false) : vLoad s i len g pos check need act = .next (s.vPass len s.core) := by
  unfold vLoad State.vPass
  rw [onMach_put, if_pos (by show (!s.core.vGuard s.ctl.curV g) = true; rw [vGuard_eq, h]; rfl)]
  rfl

/-- A load under a true guard: its check traps, or it goes on for a clock. -/
theorem vLoad_go (h : s.vGo g) : vLoad s i len g pos check need act = .next (match check s.ctl s.core with
    | some t => s.vTrap t.1 t.2.1 t.2.2
    | none => match s.core.loadStep s.ctl.curV i s.ctl.cyc (pos s.ctl) (need s.ctl) with
      | .wait c => s.putCore c
      | .done v => s.afterLoad len (act s.ctl v)) := by
  unfold vLoad
  rw [onMach_put, if_neg (by show ¬(!s.core.vGuard s.ctl.curV g) = true; rw [vGuard_eq, h]; decide)]
  show Host.Outcome.next (s.put (match check s.ctl s.core with
    | some t => _
    | none => match s.core.loadStep s.ctl.curV i s.ctl.cyc (pos s.ctl) (need s.ctl) with
      | .wait c => _
      | .done v => match act s.ctl v with | .ok c => _ | .trap code i0 i1 => _)) = _
  cases check s.ctl s.core with
  | some t => rfl
  | none =>
    cases s.core.loadStep s.ctl.curV i s.ctl.cyc (pos s.ctl) (need s.ctl) with
    | wait c => rfl
    | done v =>
      dsimp only
      cases act s.ctl v <;> rfl

theorem vLoad_trap (h : s.vGo g) {code : Byte} {i0 i1 : W64} (hc : check s.ctl s.core = some (code, i0, i1)) :
    vLoad s i len g pos check need act = .next (s.vTrap code i0 i1) := by
  rw [vLoad_go h, hc]

/-- A load that its check lets pass and that has read all. -/
theorem vLoad_done (h : s.vGo g) (hc : check s.ctl s.core = none) {v : Core}
    (hv : s.core.loadStep s.ctl.curV i s.ctl.cyc (pos s.ctl) (need s.ctl) = .done v) :
    vLoad s i len g pos check need act = .next (s.afterLoad len (act s.ctl v)) := by
  rw [vLoad_go h, hc, hv]

/-- A load that its check lets pass and that has units left. -/
theorem vLoad_wait (h : s.vGo g) (hc : check s.ctl s.core = none) {c : Core}
    (hv : s.core.loadStep s.ctl.curV i s.ctl.cyc (pos s.ctl) (need s.ctl) = .wait c) :
    vLoad s i len g pos check need act = .next (s.putCore c) := by
  rw [vLoad_go h, hc, hv]

/-- A load that its check lets pass reads, position after position, the units that it needs; then it ends as `act` says of the
scratchpad as it has read it. -/
theorem OwnLoad.of_vLoad (he : exec i s = vLoad s i len g ownPosition check need act) (hg : s.vGo g)
    (hc : check s.ctl s.core = none) {needs : Core → List Nat}
    (hn : ∀ sp, need s.ctl (s.core.seeing sp s.core.pos) = needs (s.core.seeing sp s.core.pos)) {done : Core → Prop}
    (hd : ∀ sp pos, exec i s = .next (s.afterLoad len (act s.ctl (s.core.seeing sp pos))) → done (s.core.seeing sp pos)) :
    OwnLoad s i needs done := by
  have hstep := Core.loadStep_congr s.ctl.curV i s.ctl.cyc (ownPosition s.ctl) hn
  have hown : ownPosition s.ctl = true ↔ inPosition s.ctl.curV s.ctl.cyc := vPosition_iff _ _
  refine ⟨fun h0 => hd _ _ ?_, fun h0 ⟨hp, hf⟩ h1 => hd _ _ ?_, fun h0 ⟨hp, hf⟩ h1 => ?_, fun h0 hp => ?_⟩
  · exact he.trans (vLoad_done hg hc (hstep.trans (Core.loadStep_all i _ _ h0)))
  · have hlast := (Core.loadStep_position i _ _ h0 (hown.mpr hp) hf).trans (if_pos (List.isEmpty_iff.mpr h1))
    exact he.trans (vLoad_done hg hc (hstep.trans hlast))
  · have hmore := (Core.loadStep_position i _ _ h0 (hown.mpr hp) hf).trans (if_neg (mt List.isEmpty_iff.mp h1))
    exact he.trans (vLoad_wait hg hc (hstep.trans hmore))
  · exact he.trans (vLoad_wait hg hc (hstep.trans (Core.loadStep_elsewhere i _ _ h0 (mt (And.imp_left hown.mp) hp))))

end

/-! ### Tiles made lane by lane, with their flags -/

/-- A flag is raised by a list of flags when one of them raises it. -/
theorem getLsbD_foldl_or {α : Type} (f : α → Flags) (j : Nat) (l : List α) (a : Flags) :
    (l.foldl (fun a x => a ||| f x) a).getLsbD j = true ↔ a.getLsbD j = true ∨ ∃ x ∈ l, (f x).getLsbD j = true := by
  induction l generalizing a with
  | nil => simp
  | cons x l ih => simp [ih, or_assoc]

theorem lane_tileOf (f : Nat → W32 × Flags) {n : Nat} (hn : n < 1024) : lane (tileOf f).1 n = (f n).1 := vget_tab 1024 _ n 0 hn

theorem flags_tileOf (f : Nat → W32 × Flags) (j : Nat) : (tileOf f).2.getLsbD j = true ↔ ∃ n < 1024, (f n).2.getLsbD j = true := by
  simp [tileOf, getLsbD_foldl_or]

/-! ### Loads through a stream -/

/-- A load through an open stream that its check lets pass. -/
theorem OwnLoad.of_streamLoad {s : State} {i : Instr} {w : VArgs} {n : Nat} {check : Stream → Option (Byte × W64 × W64)}
    {need : Core → Stream → List Nat} {act : Ctl → Core → Stream → CoreRes} {t : Stream}
    (he : exec i s = streamLoad s i w n check need act) (hg : s.vGo w.g) (ht : s.core.stream s.ctl.curV n = some t)
    (hc : check t = none) {done : Core → Prop}
    (hd : ∀ sp pos, exec i s = .next (s.afterLoad 12 (act s.ctl (s.core.seeing sp pos) t)) → done (s.core.seeing sp pos)) :
    OwnLoad s i (fun v => need v t) done := by
  refine OwnLoad.of_vLoad he hg ?_ (fun sp => ?_) fun sp pos h => hd sp pos ?_
  · rw [ht]
    exact hc
  · rw [Core.seeing_stream, ht]
  · rwa [Core.seeing_stream, ht] at h

/-- A load that ends in a floating-point result is a word with these flags (R162, R201). -/
theorem FpWord.of_load {s : State} {i : Instr} {w : VArgs} {fl : Flags} {v r c : Core} (hg : s.vGo w.g)
    (hv : v.vs s.ctl.curV = s.vs) (h : exec i s = .next (s.afterLoad 12 (vFp v s.ctl.curV fl r)))
    (hc : c = { r with sp := s.core.sp }) : FpWord s i w True fl c := by
  unfold vFp fpTraps at h
  rw [hv] at h
  refine ⟨fun _ _ h0 => ?_, fun _ _ h1 => ?_, fun hf => absurd (hg.symm.trans hf) (by decide)⟩
  · rw [if_neg (by simpa using h0)] at h
    exact h.trans (congrArg (fun c => Host.Outcome.next (s.vPass 12 c)) (hc ▸ (Core.vFlags_withSp r s.core.sp _ fl).symm))
  · rw [if_pos (by simpa using h1)] at h
    exact h

/-! ## Opening and closing streams (R95, R96, R208) -/

/-- GOPEN turns away an offset that is not aligned or whose record does not lie in the data area. -/
theorem openOffset_bad_iff (o : W64) : (o.toNat % 8 != 0 || decide (0x3E0000 < o.toNat + 192)) = true ↔
    ¬(o.toNat % 8 = 0 ∧ o.toNat + 192 ≤ 0x3E0000) := by
  simp only [Bool.or_eq_true, bne_iff_ne, ne_eq, decide_eq_true_eq]
  omega

/-- The record at an offset: the one that the cache holds, or the one in the scratchpad. -/
def Core.recordFor (c : Core) (o : W64) : Shape :=
  match c.cached o with
  | some e => e.recd
  | none => c.record o.toNat

/-- The entry that GOPEN puts first in the cache. -/
theorem Core.cached_getD (c : Core) (o : W64) : (c.cached o).getD ⟨o.toNat, c.record o.toNat⟩ = ⟨o.toNat, c.recordFor o⟩ := by
  unfold Core.recordFor
  cases h : c.cached o with
  | none => rfl
  | some e =>
    have ho : e.offset = o.toNat := beq_iff_eq.mp (List.find?_some (p := fun x : CacheEntry => x.offset == o.toNat) h)
    exact ho ▸ rfl

/-- What GOPEN makes of its core, by the record at its offset. -/
def Core.gopenResult (c : Core) (q : VSeq) (d : Nat) (o : W64) : CoreRes :=
  match (c.recordFor o).openFault o with
  | some (code, at0) => .trap code at0 0
  | none => .ok (({ c with cache := cacheUse ⟨o.toNat, c.recordFor o⟩ c.cache } : Core).setStream q d
      (some (opened (c.recordFor o) o.toNat none)))

/-- What GOPEN.X makes of its core, by entry `n` of the object table, at offset `at0`. -/
def Core.gopenXResult (c : Core) (q : VSeq) (d n at0 : Nat) : CoreRes :=
  let rights := c.sp.get (at0 + 208)
  if !rights.getLsbD 7 then .trap trAccess (BitVec.ofNat 64 n) 0
  else match (c.record at0).openFault (BitVec.ofNat 64 n) with
    | some (code, i0) => .trap code i0 0
    | none => .ok (c.setStream q d (some (opened (c.record at0) at0
        (some ⟨n, c.sp.rd (at0 + 192) 8, c.sp.rd (at0 + 200) 8, rights.getLsbD 0, rights.getLsbD 1⟩))))

/-- GOPEN is a load of the record that the cache does not hold. -/
theorem exec_gopen_eq (w : VArgs) (s : State) : exec (.gopen w) s = vLoad s (.gopen w) 12 w.g ownPosition
    (fun k c =>
      let o := openOffset w k c
      if o.toNat % 8 != 0 || decide (0x3E0000 < o.toNat + 192) then some (trShapeInvalid, o, 0) else none)
    (fun k c => if (c.cached (openOffset w k c)).isSome then [] else unitsOf (openOffset w k c).toNat 192)
    fun k c => c.gopenResult k.curV w.d.toNat (openOffset w k c) := by
  refine (exec_gopen w s).trans (congrArg (vLoad s _ 12 w.g ownPosition _ _) (funext fun k => funext fun c => ?_))
  dsimp only
  rw [Core.cached_getD]
  rfl

/-- GOPEN.X is a load of its entry of the object table. -/
theorem exec_gopenX_eq (w : VArgs) (s : State) : exec (.gopenX w) s = vLoad s (.gopenX w) 12 w.g ownPosition
    (fun _ c => if c.otlen.toNat ≤ objIndex w then some (trAccess, BitVec.ofNat 64 (objIndex w), 0) else none)
    (fun _ c => unitsOf (c.objOffset w) 209)
    fun k c => c.gopenXResult k.curV w.d.toNat (objIndex w) (c.objOffset w) :=
  exec_gopenX w s

@[simp] theorem Core.seeing_openOffset (s : State) (w : VArgs) (sp : Cells) (pos : Nat × Nat) :
    openOffset w s.ctl (s.core.seeing sp pos) = s.k w.a + w.imm.signExtend 64 :=
  congrArg (· + w.imm.signExtend 64) (Core.seeing_k _ _ _ _ _)

/-- What the cache holds once a record is used: it, and those of other offsets behind it. -/
theorem cacheUse_eq (o : Nat) (r : Shape) (l : List CacheEntry) :
    cacheUse ⟨o, r⟩ l = ((⟨o, r⟩ : CacheEntry) :: l.filter fun e => e.offset ≠ o).take 16 :=
  congrArg (fun f => ((⟨o, r⟩ : CacheEntry) :: l.filter f).take 16) (funext fun e => (decide_not (p := e.offset = o)).symm)

/-- A record that passes its checks is opened, and is the first of the cache. -/
theorem afterLoad_gopenResult_opens (s : State) (v : Core) (d : Nat) (o : W64) (h : (v.recordFor o).openFault o = none) :
    s.afterLoad 12 (v.gopenResult s.ctl.curV d o) = s.vPass 12 (({ v with
      sp := s.core.sp
      cache := (⟨o.toNat, v.recordFor o⟩ :: v.cache.filter fun e => e.offset ≠ o.toNat).take 16 } : Core).setStream s.ctl.curV d
        (some (opened (v.recordFor o) o.toNat none))) := by
  unfold Core.gopenResult
  rw [h, ← cacheUse_eq]
  exact congrArg (s.vPass 12) (Core.setStream_withSp { v with cache := cacheUse ⟨o.toNat, v.recordFor o⟩ v.cache } _ _ _ _).symm

/-- A record that fails them traps. -/
theorem afterLoad_gopenResult_traps (s : State) (v : Core) (d : Nat) (o : W64) {code : Byte} {at1 : W64}
    (h : (v.recordFor o).openFault o = some (code, at1)) :
    s.afterLoad 12 (v.gopenResult s.ctl.curV d o) = s.vTrap code at1 0 := by
  unfold Core.gopenResult
  rw [h]
  rfl

/-- An object of the table that may be opened, with a record that passes its checks. -/
theorem afterLoad_gopenXResult_opens (s : State) (v : Core) (d n at0 : Nat) (hv : (v.sp.get (at0 + 208)).getLsbD 7 = true)
    (h : (v.record at0).openFault (BitVec.ofNat 64 n) = none) :
    s.afterLoad 12 (v.gopenXResult s.ctl.curV d n at0) = s.vPass 12 (({ v with sp := s.core.sp } : Core).setStream s.ctl.curV d
      (some (opened (v.record at0) at0 (some ⟨n, v.sp.rd (at0 + 192) 8, v.sp.rd (at0 + 200) 8,
        (v.sp.get (at0 + 208)).getLsbD 0, (v.sp.get (at0 + 208)).getLsbD 1⟩)))) := by
  unfold Core.gopenXResult
  dsimp only
  rw [hv, h]
  exact congrArg (s.vPass 12) (Core.setStream_withSp v _ _ _ _).symm

/-- One whose record fails them. -/
theorem afterLoad_gopenXResult_traps (s : State) (v : Core) (d n at0 : Nat) (hv : (v.sp.get (at0 + 208)).getLsbD 7 = true)
    {code : Byte} {at1 : W64} (h : (v.record at0).openFault (BitVec.ofNat 64 n) = some (code, at1)) :
    s.afterLoad 12 (v.gopenXResult s.ctl.curV d n at0) = s.vTrap code at1 0 := by
  unfold Core.gopenXResult
  dsimp only
  rw [hv, h]
  rfl

/-- An object that is not valid. -/
theorem afterLoad_gopenXResult_invalid (s : State) (v : Core) (d n at0 : Nat)
    (hv : (v.sp.get (at0 + 208)).getLsbD 7 = false) :
    s.afterLoad 12 (v.gopenXResult s.ctl.curV d n at0) = s.vTrap 0x81 (BitVec.ofNat 64 n) 0 := by
  unfold Core.gopenXResult
  dsimp only
  rw [hv]
  rfl

/-- Settles O28: GOPEN and GOPEN.X are loads in positions, of a record and of an entry of the object table; GCLOSE and SHFENCE act on
their core alone. -/
theorem streamsOpenAndClose : Obligations.StreamsOpenAndClose := by
  unfold Obligations.StreamsOpenAndClose
  intro s w c q d o aligned held rec1 i at0 rights obj
  have hopen := exec_gopen_eq w s
  have hopenX := exec_gopenX_eq w s
  refine ⟨fun hg ho => ?_, fun hg ho => ?_, fun hg hi => ?_, fun hg hi => ?_, ?_, ?_, fun hg => ⟨?_, ?_⟩⟩
  · refine OwnLoad.of_vLoad hopen hg (if_neg (mt (openOffset_bad_iff o).mp (not_not_intro ho))) (fun sp => ?_)
      fun sp pos h => ?_
    · simp only [Core.seeing_openOffset, Core.seeing_cached]
      rfl
    · simp only [Core.seeing_openOffset] at h
      exact ⟨fun hr => h.trans (congrArg _ (afterLoad_gopenResult_opens s _ d o hr)),
        fun code at1 hr => h.trans (congrArg _ (afterLoad_gopenResult_traps s _ d o hr))⟩
  · exact hopen.trans (vLoad_trap hg (if_pos ((openOffset_bad_iff o).mpr ho)))
  · refine OwnLoad.of_vLoad hopenX hg (if_neg (Nat.not_le.mpr hi)) (fun sp => rfl) fun sp pos h => ⟨?_, ?_, ?_⟩
    · exact fun hv hr => h.trans (congrArg _ (afterLoad_gopenXResult_opens s _ d i at0 hv hr))
    · exact fun code at1 hv hr => h.trans (congrArg _ (afterLoad_gopenXResult_traps s _ d i at0 hv hr))
    · exact fun hv => h.trans (congrArg _ (afterLoad_gopenXResult_invalid s _ d i at0 hv))
  · exact hopenX.trans (vLoad_trap hg (if_pos hi))
  · exact VWord.of_vDo _ (exec_gclose w s) rfl
  · exact VWord.of_vDo _ (exec_shfence w s) rfl
  · exact hopen.trans (vLoad_skip hg)
  · exact hopenX.trans (vLoad_skip hg)

/-! ## Packed and ragged loads (R89, R211, R214) -/

theorem zpFault_none {t : Stream} (n : Nat) {ok : Bool} (ho : ok = true) (he : t.ended = false) : t.zpFault n ok = none := by
  unfold Stream.zpFault
  rw [ho, he]
  rfl

/-! ### The lanes that begin a line -/

/-- A lane of GLDR as its bit of the mask. -/
def RagLane.beginBit : RagLane → Nat
  | .elem _ 0 => 1
  | _ => 0

theorem RagLane.beginBit_cases (x : RagLane) :
    (x.beginBit = 1 ∧ ∃ l, x = .elem l 0) ∨ (x.beginBit = 0 ∧ ∀ l, x ≠ .elem l 0) := by
  unfold RagLane.beginBit
  split
  · exact .inl ⟨rfl, _, rfl⟩
  · rename_i h
    exact .inr ⟨rfl, h⟩

/-- The bits of all lanes as one number. -/
def beginBits (ls : List RagLane) : Nat := ls.foldr (fun x acc => RagLane.beginBit x + 2 * acc) 0

/-- Bit `n` of the mask is set when lane `n` holds the first element of a line. -/
theorem testBit_beginBits (ls : List RagLane) (n : Nat) :
    (beginBits ls).testBit n = true ↔ ∃ l, ls[n]? = some (.elem l 0) := by
  induction ls generalizing n with
  | nil => simp [beginBits]
  | cons x ls ih =>
    have hbit := x.beginBit_cases
    rw [beginBits, List.foldr_cons, ← beginBits]
    have hhalf (a : Nat) : (x.beginBit + 2 * a) / 2 = a ∧ (x.beginBit + 2 * a) % 2 = x.beginBit := by omega
    cases n with
    | zero =>
      simp only [Nat.testBit_zero, List.getElem?_cons_zero, Option.some.injEq, hhalf, decide_eq_true_eq]
      obtain ⟨h, hx⟩ | ⟨h, hx⟩ := hbit <;> simp [h, hx]
    | succ n =>
      rw [Nat.testBit_succ, List.getElem?_cons_succ, ← ih n, (hhalf _).1]

/-- The mask of the lanes that begin a line. -/
def beginMask (ls : List RagLane) : Mask := BitVec.ofNat 1024 (beginBits ls)

theorem getLsbD_beginMask (ls : List RagLane) {n : Nat} (hn : n < 1024) :
    (beginMask ls).getLsbD n = true ↔ ∃ l, ls[n]? = some (.elem l 0) := by
  rw [← testBit_beginBits, beginMask, BitVec.getLsbD_ofNat, decide_eq_true hn, Bool.true_and]

/-! ### What GLDR does with its lanes -/

/-- The indices that a lane of GLDR may not touch: those of an element outside what it may access, or of a line that is too long. -/
def Stream.ragBad (t : Stream) : RagLane → Option (List Nat)
  | .elem l e => if t.elemOk (t.ragIx l e) then none else some (t.ragIx l e)
  | .fill => none
  | .tooLong l => some (t.ragIx l 0)

theorem Stream.ragBad_none {t : Stream} {x : RagLane} (hlong : ∀ l, x ≠ .tooLong l)
    (hok : ∀ l e, x = .elem l e → t.elemOk (t.ragIx l e) = true) : t.ragBad x = none := by
  cases x with
  | elem l e => exact if_pos (hok l e rfl)
  | fill => rfl
  | tooLong l => exact absurd rfl (hlong l)

/-- The value of a lane of GLDR: its element, or FILL under the pad's scale. -/
def Stream.ragValue (t : Stream) (rm : Rm) (sp : Cells) : RagLane → W32 × Flags
  | .elem l e => laneOf t.recd.fmt rm (t.raw sp (t.ragIx l e)) (t.scale sp (t.ragIx l e)) (t.band sp (t.ragIx l e))
  | _ => laneOf t.recd.fmt rm t.recd.fill.toNat t.recd.padScale 0x3F80

/-- The tile of a GLDR whose lanes are `ls`, with its flags. -/
def Stream.ragTile (t : Stream) (rm : Rm) (sp : Cells) (ls : List RagLane) : Tile × Flags :=
  tileOf fun n => t.ragValue rm sp ((ls[n]?).getD .fill)

/-- What GLDR makes of its core through the open stream `t`, whose lanes and next place are `p`. -/
def Core.gldrResult (c : Core) (q : VSeq) (w : VArgs) (t : Stream) (p : List RagLane × Nat × Nat) : CoreRes :=
  match p.1.findSome? t.ragBad with
  | some ix => .trap trStreamBound (ixInfo ix) (t.info w.a.toNat)
  | none =>
    match t.rightsBad false with
    | some i => .trap trAccess (BitVec.ofNat 64 i) 0
    | none =>
      let x := t.ragTile (fcrRm (c.vs q).fcr) c.sp p.1
      vFp c q x.2 (((c.setTile w.d.toNat x.1).setM w.c.toNat (beginMask p.1)).setStream q w.a.toNat
        (some { t with line := p.2.1, elt := p.2.2, ended := decide (t.recd.lines ≤ p.2.1) }))

/-- GLDR is a load of its stream's elements and of the lengths of their lines. -/
theorem exec_gldr_eq (w : VArgs) (s : State) : exec (.gldr w) s = streamLoad s (.gldr w) w w.a.toNat
    (fun t => t.zpFault w.a.toNat t.recd.isRagged) (fun c t => t.ragUnits c.sp)
    fun k c t => c.gldrResult k.curV w t (t.ragLanes c.sp 1024 t.line t.elt) := by
  refine (exec_gldr w s).trans (congrArg (streamLoad s _ w _ _ _) (funext fun k => funext fun c => funext fun t => ?_))
  dsimp only
  generalize t.ragLanes c.sp 1024 t.line t.elt = p
  rfl

/-- Where none of its lanes is bad and the object has the right, GLDR makes a tile and a mask. -/
theorem Core.gldrResult_good {c : Core} {q : VSeq} {w : VArgs} {t : Stream} {p : List RagLane × Nat × Nat}
    (hb : ∀ x ∈ p.1, t.ragBad x = none) (hr : t.rightsBad false = none) :
    let x := t.ragTile (fcrRm (c.vs q).fcr) c.sp p.1
    c.gldrResult q w t p =
      vFp c q x.2 (((c.setTile w.d.toNat x.1).setM w.c.toNat (beginMask p.1)).setStream q w.a.toNat
        (some { t with line := p.2.1, elt := p.2.2, ended := decide (t.recd.lines ≤ p.2.1) })) := by
  unfold Core.gldrResult
  rw [List.findSome?_eq_none_iff.mpr hb, hr]

/-- Settles O30: GLDM and GLDR are loads in positions through an open stream; what the check of each lets pass ends in a tile made lane
by lane, whose flags are those of its lanes, and for GLDR in the mask of the lanes that begin a line. -/
theorem packedAndRaggedLoads : Obligations.PackedAndRaggedLoads := by
  unfold Obligations.PackedAndRaggedLoads
  intro s w t c q r rm unit el zlane rag ix rlane begins good hg ht he hr
  have hvs := Core.seeing_vs s.core (q := s.ctl.curV)
  refine ⟨fun hz => ?_, fun hz => ?_⟩
  · refine OwnLoad.of_streamLoad (exec_gldm w s) hg ht (zpFault_none _ hz he) fun sp pos h es p hes hpad => ?_
    let v := s.core.seeing sp pos
    have hpart : (decide (t.recd.count < t.elt + 16 * t.recd.tileW) && !t.recd.pad) = false := by simpa using hpad
    have hread : t.readZp (s.core.seeing sp pos).sp (16 * t.recd.tileW / 64) t.zpos t.elt = .ok es p := hes
    simp only [hread, hpart, hr, Bool.false_eq_true, if_false, Bool.or_eq_true, beq_iff_eq, hvs, Nat.le_min, Nat.le_refl,
      and_true] at h
    exact ⟨(tileOf (zlane v es)).1, (tileOf (zlane v es)).2, fun n hn => lane_tileOf _ hn, fun j _ => flags_tileOf _ j,
      FpWord.of_load hg (hvs sp pos) h (Core.setStream_withSp (v.setTile w.d.toNat _) _ _ _ _)⟩
  · refine OwnLoad.of_streamLoad (exec_gldr_eq w s) hg ht (zpFault_none _ hz he) fun sp pos h hgood => ?_
    let v := s.core.seeing sp pos
    have hlane (n : Nat) : t.ragValue rm v.sp (((rag v).1[n]?).getD .fill) = rlane v n := by
      dsimp only [rlane]
      cases (rag v).1[n]? with
      | none => rfl
      | some x => cases x <;> rfl
    have htile : t.ragTile rm v.sp (rag v).1 = tileOf (rlane v) := congrArg tileOf (funext hlane)
    have hres := Core.gldrResult_good (c := v) (q := q) (w := w) (p := rag v)
      (fun x hx => Stream.ragBad_none (hgood x hx).1 (hgood x hx).2) hr
    have hrm : fcrRm (v.vs q).fcr = rm := congrArg (fun x => fcrRm x.fcr) (hvs sp pos)
    rw [hrm, htile] at hres
    exact ⟨(tileOf (rlane v)).1, beginMask (rag v).1, (tileOf (rlane v)).2, fun n hn => lane_tileOf _ hn,
      fun n hn => getLsbD_beginMask _ hn, fun j _ => flags_tileOf _ j,
      FpWord.of_load hg (hvs sp pos) (h.trans (congrArg (Host.Outcome.next <| s.afterLoad 12 ·) hres))
        (Core.setM_setStream_withSp (v.setTile w.d.toNat _) _ _ _ _ _ _)⟩

end Sys2Proof.Machine

/-! ## Registers of X and of the vector sequencers read back (R143, R144, R198, R231) -/

namespace Sys2Proof.Machine

theorem XState.getS_setS_eq (x : XState) (r r' : SReg) (v : W64) :
    (x.setS r v).getS r' = if r' = 0 then 0 else if r' = r then v else x.getS r' := by
  split
  case isTrue h0 => rw [h0, XState.getS_zero]
  case isFalse h0 =>
    split
    case isTrue h => rw [h, x.getS_setS r v (h ▸ h0)]
    case isFalse h => exact x.getS_setS_other r r' v h

/-- Writing a predicate writes its bit of the bank and leaves the others alone, and p7's as well. -/
theorem getLsbD_setPred (p : BitVec 8) (r : PReg) (b : Bool) {j : Nat} (hj : j < 8) :
    (setPred p r b).getLsbD j = if r ≠ 7 ∧ j = r.toNat then b else p.getLsbD j := by
  have hone : ((1 : BitVec 8) <<< r.toNat).getLsbD j = decide (j = r.toNat) := by
    rw [show (1 : BitVec 8) <<< r.toNat = BitVec.twoPow 8 r.toNat from rfl, BitVec.getLsbD_twoPow]
    grind
  unfold setPred
  cases b <;> grind

theorem getPred_setPred (p : BitVec 8) (r r' : PReg) (b : Bool) :
    getPred (setPred p r b) r' = if r' = 7 then true else if r' = r then b else getPred p r' := by
  have hr : r'.toNat = r.toNat ↔ r' = r := BitVec.toNat_inj
  rw [getPred, getLsbD_setPred p r b r'.isLt]
  simp only [hr, getPred]
  grind

/-- A bank's entry reads as it was written, and the others as before. -/
theorem vget_vset {α : Type} {n : Nat} (v : Vector α n) {i : Nat} (hi : i < n) (j : Nat) (x d : α) :
    vget (vset v i x) j d = if j = i then x else vget v j d := by
  split
  case isTrue h => rw [h, vget_vset_same v i x d hi]
  case isFalse h => exact vget_vset_other v i j x d h

theorem VState.getK_setK (v : VState) (n n' : Nat) (x : W64) (hn : n < 8) :
    (v.setK n x).getK n' = if n' = 0 then 0 else if n' = n then x else v.getK n' := by
  by_cases h0 : n = 0
  · subst h0
    grind [VState.setK_zero, VState.getK_zero]
  · rw [VState.setK, beq_false_of_ne h0, if_neg Bool.false_ne_true, VState.getK, VState.getK, vget_vset v.k hn]
    simp only [beq_iff_eq]
    grind

theorem Core.getM_setM (c : Core) (n n' : Nat) (x : Mask) (hn : n < 8) :
    (c.setM n x).getM n' = if n' = 7 then BitVec.allOnes 1024 else if n' = n then x else c.getM n' := by
  by_cases h7 : n = 7
  · subst h7
    grind [Core.setM_seven, Core.getM_seven]
  · rw [Core.setM, beq_false_of_ne h7, if_neg Bool.false_ne_true, Core.getM, Core.getM, vget_vset c.m (by omega)]
    simp only [beq_iff_eq]
    grind

/-- Settles O59, by reading a register back after a write to it, to another one, and to the hard-wired one. -/
theorem hardWiredRegisters : Obligations.HardWiredRegisters :=
  ⟨XState.getS_setS_eq, getPred_setPred,
    fun v r r' x hr _ => by
      have h (q : Reg4) : r' = q ↔ r'.toNat = q.toNat := BitVec.toNat_inj.symm
      simp only [h]
      exact v.getK_setK r.toNat r'.toNat x hr,
    fun c n n' x hn _ => c.getM_setM n n' x hn⟩

end Sys2Proof.Machine

/-! ## Integer arithmetic of X as R153 and R154 write it -/

namespace Sys2Proof.Machine

theorem aluMinS_eq : aluMinS = fun x y => if x.toInt ≤ y.toInt then x else y := by
  funext x y
  simp only [aluMinS, BitVec.slt_eq_decide, decide_eq_true_eq]
  grind

theorem aluMaxS_eq : aluMaxS = fun x y => if y.toInt ≤ x.toInt then x else y := by
  funext x y
  simp only [aluMaxS, BitVec.slt_eq_decide, decide_eq_true_eq]
  grind

theorem aluMinU_eq : aluMinU = fun x y => if x.toNat ≤ y.toNat then x else y := by
  funext x y
  simp only [aluMinU, BitVec.ult_eq_decide, decide_eq_true_eq]
  grind

theorem aluMaxU_eq : aluMaxU = fun x y => if y.toNat ≤ x.toNat then x else y := by
  funext x y
  simp only [aluMaxU, BitVec.ult_eq_decide, decide_eq_true_eq]
  grind

theorem aluClz_eq : aluClz = fun x => BitVec.ofNat 64 (if x.toNat = 0 then 64 else 63 - x.toNat.log2) := by
  funext x
  simp only [aluClz, bitLen, beq_iff_eq]
  split
  · rfl
  · rw [Nat.sub_add_eq, Nat.sub_right_comm]

theorem lowestBit_eq_findIdx (v n i : Nat) : lowestBit v i n = i + (List.range' i n).findIdx v.testBit := by
  induction n generalizing i with
  | zero => rfl
  | succ n ih =>
    rw [lowestBit, List.range'_succ, List.findIdx_cons]
    cases v.testBit i with
    | true => rfl
    | false => simp only [Bool.false_eq_true, if_false, cond_false, ih]; omega

theorem aluCtz_eq : aluCtz = fun x => BitVec.ofNat 64 ((List.range 64).findIdx x.getLsbD) := by
  funext x
  rw [aluCtz, lowestBit_eq_findIdx, Nat.zero_add, List.range_eq_range']
  rfl

theorem aluPopc_eq : aluPopc = fun x => BitVec.ofNat 64 ((List.range 64).filter x.getLsbD).length := by
  funext x
  rw [aluPopc, List.countP_eq_length_filter]

theorem aluMul_eq : aluMul = fun x y => BitVec.ofNat 64 (x.toNat * y.toNat) := by
  funext x y
  rw [aluMul, BitVec.ofNat_mul, BitVec.ofNat_toNat, BitVec.ofNat_toNat, BitVec.setWidth_eq, BitVec.setWidth_eq]

/-- The product of the operands extended to 128 bits is the integer product in 128 bits, so its high half is a quotient by 2^64. -/
theorem aluMulh_eq : aluMulh = fun x y => BitVec.ofInt 64 (x.toInt * y.toInt / 2 ^ 64) := by
  funext x y
  have hp : x.signExtend 128 * y.signExtend 128 = BitVec.ofInt 128 (x.toInt * y.toInt) := (BitVec.ofInt_mul _ _).symm
  apply BitVec.eq_of_toNat_eq
  rw [aluMulh, hp, BitVec.toNat_setWidth, BitVec.toNat_ushiftRight, BitVec.toNat_ofInt, BitVec.toNat_ofInt, Nat.shiftRight_eq_div_pow]
  generalize x.toInt * y.toInt = p
  omega

theorem aluDiv_eq : aluDiv = fun x y => if y = 0 then 0xFFFFFFFFFFFFFFFF else BitVec.ofInt 64 (x.toInt.tdiv y.toInt) := by
  funext x y
  simp only [aluDiv, beq_iff_eq]
  rfl

theorem aluDivu_eq : aluDivu = fun x y => if y = 0 then 0xFFFFFFFFFFFFFFFF else BitVec.ofNat 64 (x.toNat / y.toNat) := by
  funext x y
  simp only [aluDivu, beq_iff_eq]
  rfl

theorem aluRem_eq : aluRem = fun x y => if y = 0 then x else BitVec.ofInt 64 (x.toInt - y.toInt * x.toInt.tdiv y.toInt) := by
  funext x y
  simp only [aluRem, beq_iff_eq, Int.tmod_def]

theorem aluRemu_eq : aluRemu = fun x y => if y = 0 then x else BitVec.ofNat 64 (x.toNat - y.toNat * (x.toNat / y.toNat)) := by
  funext x y
  simp only [aluRemu, beq_iff_eq, Nat.mod_eq_sub_mul_div]

/-! ### Each word of the tables is the shared meaning at the table's operation -/

section
variable {s : State} {i : Instr} {g : Guard} {d a b : SReg}

theorem XWord.of_xAlu2 {f : W64 → W64 → W64} (he : exec i s = xAlu2 s g d a b f) :
    XWord s i g 4 [d, a, b] (s.core.x.setS d (f (s.core.x.getS a) (s.core.x.getS b))) :=
  .of_xDo _ he (XState.setS_pc _ _ _) rfl

theorem XWord.of_xAlu1 {f : W64 → W64} (he : exec i s = xAlu1 s g d a f) :
    XWord s i g 4 [d, a] (s.core.x.setS d (f (s.core.x.getS a))) :=
  .of_xDo _ he (XState.setS_pc _ _ _) rfl

theorem XWord.of_xAluImm {len : Nat} {imm : W64} {f : W64 → W64 → W64} (he : exec i s = xAluImm s len g d a imm f) :
    XWord s i g len [d, a] (s.core.x.setS d (f (s.core.x.getS a) imm)) :=
  .of_xDo _ he (XState.setS_pc _ _ _) rfl

theorem exec_aluTable {p : Instr × (W64 → W64 → W64)} (hp : p ∈ aluTable g d a b) : exec p.1 s = xAlu2 s g d a b p.2 := by
  simp only [aluTable, List.mem_cons, List.not_mem_nil, or_false] at hp
  obtain rfl | rfl | rfl | rfl | rfl | rfl | rfl | rfl | rfl | rfl | rfl | rfl | rfl := hp
  · exact exec_add g d a b s
  · exact exec_sub g d a b s
  · exact exec_andR g d a b s
  · exact exec_orR g d a b s
  · exact exec_xorR g d a b s
  · exact exec_andn g d a b s
  · exact exec_sll g d a b s
  · exact exec_srl g d a b s
  · exact exec_sra g d a b s
  · rw [exec_minS, execMinS, aluMinS_eq]
  · rw [exec_maxS, execMaxS, aluMaxS_eq]
  · rw [exec_minU, execMinU, aluMinU_eq]
  · rw [exec_maxU, execMaxU, aluMaxU_eq]

theorem exec_countTable {p : Instr × (W64 → W64)} (hp : p ∈ countTable g d a) : exec p.1 s = xAlu1 s g d a p.2 := by
  simp only [countTable, List.mem_cons, List.not_mem_nil, or_false] at hp
  obtain rfl | rfl | rfl := hp
  · rw [exec_clz, execClz, aluClz_eq]
  · rw [exec_ctz, execCtz, aluCtz_eq]
  · rw [exec_popc, execPopc, aluPopc_eq]

theorem exec_mulTable {p : Instr × (W64 → W64 → W64)} (hp : p ∈ mulTable g d a b) : exec p.1 s = xAlu2 s g d a b p.2 := by
  simp only [mulTable, List.mem_cons, List.not_mem_nil, or_false] at hp
  obtain rfl | rfl | rfl | rfl | rfl | rfl | rfl := hp
  · rw [exec_mul, execMul, aluMul_eq]
  · rw [exec_mulh, execMulh, aluMulh_eq]
  · exact exec_mulhu g d a b s
  · rw [exec_div, execDiv, aluDiv_eq]
  · rw [exec_divu, execDivu, aluDivu_eq]
  · rw [exec_rem, execRem, aluRem_eq]
  · rw [exec_remu, execRemu, aluRemu_eq]

theorem exec_immTable {imm : BitVec 16} {l : W32} {p : Instr × Instr × (W64 → W64 → W64)} (hp : p ∈ immTable g d a imm l) :
    exec p.1 s = xAluImm s 8 g d a (imm.signExtend 64) p.2.2 ∧ exec p.2.1 s = xAluImm s 12 g d a (l.signExtend 64) p.2.2 := by
  simp only [immTable, List.mem_cons, List.not_mem_nil, or_false] at hp
  obtain rfl | rfl | rfl | rfl | rfl | rfl | rfl | rfl | rfl | rfl | rfl | rfl | rfl := hp
  · exact ⟨exec_addImm64 g d a imm s, exec_addImm96 g d a l s⟩
  · exact ⟨exec_subImm64 g d a imm s, exec_subImm96 g d a l s⟩
  · exact ⟨exec_andImm64 g d a imm s, exec_andImm96 g d a l s⟩
  · exact ⟨exec_orImm64 g d a imm s, exec_orImm96 g d a l s⟩
  · exact ⟨exec_xorImm64 g d a imm s, exec_xorImm96 g d a l s⟩
  · exact ⟨exec_andnImm64 g d a imm s, exec_andnImm96 g d a l s⟩
  · exact ⟨exec_sllImm64 g d a imm s, exec_sllImm96 g d a l s⟩
  · exact ⟨exec_srlImm64 g d a imm s, exec_srlImm96 g d a l s⟩
  · exact ⟨exec_sraImm64 g d a imm s, exec_sraImm96 g d a l s⟩
  · rw [exec_minImm64, exec_minImm96, execMinImm64, execMinImm96, aluMinS_eq]; exact ⟨rfl, rfl⟩
  · rw [exec_maxImm64, exec_maxImm96, execMaxImm64, execMaxImm96, aluMaxS_eq]; exact ⟨rfl, rfl⟩
  · rw [exec_minuImm64, exec_minuImm96, execMinuImm64, execMinuImm96, aluMinU_eq]; exact ⟨rfl, rfl⟩
  · rw [exec_maxuImm64, exec_maxuImm96, execMaxuImm64, execMaxuImm96, aluMaxU_eq]; exact ⟨rfl, rfl⟩

end

/-- Settles O1: each word of the tables is the shared meaning of a register form at the operation that the table gives it. -/
theorem registerArithmetic : Obligations.RegisterArithmetic :=
  ⟨fun _ _ _ _ _ => ⟨fun _ hp => .of_xAlu2 (exec_aluTable hp), fun _ hp => .of_xAlu1 (exec_countTable hp)⟩,
    fun _ _ _ _ _ _ hp => .of_xAlu2 (exec_mulTable hp)⟩

/-! ## Bit fields and immediate loads (R155, R156) -/

theorem getLsbD_bitField (x : W64) (l w : Nat) {j : Nat} (hj : j < 64) :
    (bitField x l w).getLsbD j = if j < w then x.getLsbD (l + j) else false := by
  rw [bitField, BitVec.getLsbD_ofNat, Nat.testBit_mod_two_pow, Nat.testBit_div_two_pow, BitVec.testBit_toNat, Nat.add_comm j l]
  simp [hj]

theorem getLsbD_bitFieldS (x : W64) (l w : Nat) (hw : 1 ≤ w) {j : Nat} (hj : j < 64) :
    (bitFieldS x l w).getLsbD j = if j < w then x.getLsbD (l + j) else x.getLsbD (l + w - 1) := by
  have hbit (k : Nat) (hk : k < w) : (BitVec.ofNat w (x.toNat / 2 ^ l)).getLsbD k = x.getLsbD (l + k) := by
    rw [BitVec.getLsbD_ofNat, Nat.testBit_div_two_pow, BitVec.testBit_toNat, Nat.add_comm k l]
    simp [hk]
  rw [bitFieldS, BitVec.getLsbD_signExtend, BitVec.msb_eq_getLsbD_last, hbit (w - 1) (by omega), Nat.add_sub_assoc hw]
  split
  case isTrue hjw => simp [hj, hbit j hjw]
  case isFalse => simp [hj]

theorem getLsbD_bitInsert (x y : W64) (l w : Nat) {j : Nat} (hj : j < 64) :
    (bitInsert x y l w).getLsbD j = if l ≤ j ∧ j < l + w then y.getLsbD (j - l) else x.getLsbD j := by
  have hmask : (BitVec.ofNat 64 (2 ^ w - 1) <<< l).getLsbD j = decide (l ≤ j ∧ j < l + w) := by
    rw [BitVec.getLsbD_shiftLeft, BitVec.getLsbD_ofNat, Nat.testBit_two_pow_sub_one]
    grind
  simp only [bitInsert, BitVec.getLsbD_or, BitVec.getLsbD_and, BitVec.getLsbD_not, BitVec.getLsbD_shiftLeft, hmask, hj]
  grind

theorem append_setWidth_eq_ofNat (l : W32) (x : W64) :
    l ++ x.setWidth 32 = BitVec.ofNat 64 (l.toNat * 2 ^ 32 + x.toNat % 2 ^ 32) := by
  have hl : l.toNat < 2 ^ 32 := l.isLt
  apply BitVec.eq_of_toNat_eq
  rw [BitVec.toNat_append, BitVec.toNat_setWidth, ← Nat.shiftLeft_add_eq_or_of_lt (Nat.mod_lt _ (by decide)), Nat.shiftLeft_eq,
    BitVec.toNat_ofNat]
  omega

theorem aluImmediateForms : AluImmediateForms := fun _ _ _ _ _ _ _ hp =>
  ⟨.of_xAluImm (exec_immTable hp).1, .of_xAluImm (exec_immTable hp).2⟩

theorem bitFieldsAndLoadImmediate : BitFieldsAndLoadImmediate := by
  intro s g d a lsb width i l
  refine ⟨fun hw _ => ⟨?bfx, ?bfxs, ?bfi⟩, ?li64, ?li96, ?lih⟩
  case bfx => exact ⟨_, fun j hj => getLsbD_bitField _ _ _ hj, .of_xDo _ (exec_bfx ..) (XState.setS_pc _ _ _) rfl⟩
  case bfxs => exact ⟨_, fun j hj => getLsbD_bitFieldS _ _ _ hw hj, .of_xDo _ (exec_bfxs ..) (XState.setS_pc _ _ _) rfl⟩
  case bfi => exact ⟨_, fun j hj => getLsbD_bitInsert _ _ _ _ hj, .of_xDo _ (exec_bfi ..) (XState.setS_pc _ _ _) rfl⟩
  case li64 => exact .of_xDo _ (exec_li64 ..) (XState.setS_pc _ _ _) rfl
  case li96 => exact .of_xDo _ (exec_li96 ..) (XState.setS_pc _ _ _) rfl
  case lih => exact .of_xDo _ (exec_lih ..) (XState.setS_pc _ _ _) (congrArg _ (append_setWidth_eq_ofNat _ _))

/-- Settles O2: the immediate forms are the operations of the register forms on the extended immediate; a bit field is read and
written bit by bit. -/
theorem immediateArithmetic : Obligations.ImmediateArithmetic := ⟨aluImmediateForms, bitFieldsAndLoadImmediate⟩

/-! ## Compare and predicate logic (R157, R158, R160) -/

theorem intCond_eq_cmpHolds (cond : BitVec 3) (x y : W64) : intCond cond.toNat x y = cmpHolds cond x y := by
  have hnot {p q : Prop} [Decidable p] [Decidable q] (h : ¬p ↔ q) : (!decide p) = decide q :=
    decide_not.symm.trans (decide_eq_decide.2 h)
  unfold cmpHolds
  generalize cond.toNat = n
  match n with
  | 0 => rfl
  | 1 => exact hnot Iff.rfl
  | 2 => exact BitVec.slt_eq_decide
  | 3 => exact (congrArg not BitVec.slt_eq_decide).trans (hnot Int.not_lt)
  | 4 => exact BitVec.ult_eq_decide
  | _ + 5 => exact (congrArg not BitVec.ult_eq_decide).trans (hnot Nat.not_lt)

theorem combine_eq_pairAfter (comb : BitVec 2) (p : BitVec 8) (pd pe : PReg) (t : Bool) :
    combine comb.toNat p pd pe t =
      setPred (setPred p pd (pairAfter comb t (getPred p pd) (getPred p pe)).1) pe
        (pairAfter comb t (getPred p pd) (getPred p pe)).2 := by
  unfold pairAfter
  generalize comb.toNat = n
  match n with
  | 0 => rfl
  | 1 => rfl
  | _ + 2 => rfl

theorem exec_plogTable {s : State} {g : Guard} {pd pa pb : PReg} {p : Instr × (Bool → Bool → Bool)} (hp : p ∈ plogTable g pd pa pb) :
    exec p.1 s = xPlog s g pd pa pb p.2 := by
  have hxor : (fun x y : Bool => x != y) = fun x y => xor x y := by
    funext x y
    cases x <;> cases y <;> rfl
  have hxnor : (fun x y : Bool => x == y) = fun x y => !(xor x y) := by
    funext x y
    cases x <;> cases y <;> rfl
  simp only [plogTable, List.mem_cons, List.not_mem_nil, or_false] at hp
  obtain rfl | rfl | rfl | rfl | rfl | rfl | rfl | rfl := hp
  · exact exec_plogAnd g pd pa pb s
  · exact exec_plogOr g pd pa pb s
  · rw [exec_plogXor, execPlogXor, hxor]
  · exact exec_plogAndn g pd pa pb s
  · exact exec_plogNand g pd pa pb s
  · exact exec_plogNor g pd pa pb s
  · rw [exec_plogXnor, execPlogXnor, hxnor]
  · exact exec_plogMov g pd pa s

/-- Settles O3: CMP writes its pair from the values that both predicates had; the words of predicate logic write what their table
makes of two predicates. -/
theorem predicateWords : Obligations.PredicateWords := by
  intro s g cond comb pd pe pa pb a b i
  refine ⟨.of_xDo _ (exec_cmp ..) rfl ?_, .of_xDo _ (exec_cmp ..) rfl ?_, fun p hp => .of_xDo _ (exec_plogTable hp) rfl rfl⟩
  · simp only [intCond_eq_cmpHolds, combine_eq_pairAfter]
    rfl
  · simp only [intCond_eq_cmpHolds, combine_eq_pairAfter]
    rfl

end Sys2Proof.Machine

/-! ## Floating-point words of X (R158, R159, R161-R167) -/

namespace Sys2Proof.Machine

theorem fpTraps_iff (fcr : W64) (f : Flags) : fpTraps fcr f = true ↔ f.setWidth 5 &&& fcr.extractLsb' 5 5 ≠ 0 := by
  rw [fpTraps, bne_iff_ne]

/-- A word whose meaning is xFp is a floating-point word of X (R162), with the flags and the write that it computes from X. -/
theorem XFloatWord.of_xFp {s : State} {i : Instr} {g : Guard} {len : Nat} {regs : List SReg} {f : XState → Flags × (XState → XState)}
    (he : exec i s = xFp s len g regs f) {fl : Flags} {w : XState → XState} (hf : f s.core.x = (fl, w))
    (hpc : (w s.core.x).pc = s.core.x.pc) : XFloatWord s i g len regs fl w := by
  have hgo (h : s.xGo g regs) := he.trans (xTry_go s len g regs _ h)
  simp only [hf, fpDone] at hgo
  refine ⟨fun h hno => ?_, fun h htrap => ?_, fun h => he.trans (xTry_skip s len g regs _ h)⟩
  · rw [hgo h, if_neg (mt (fpTraps_iff _ _).1 (not_not_intro hno))]
    exact congrArg (fun x => Host.Outcome.next (s.putCore { s.core with x := x })) (XState.next_eq_past _ _ _ _ hpc)
  · rw [hgo h, if_pos ((fpTraps_iff _ _).2 htrap)]
    rfl

/-- A word that rounds the value it computes and writes it, with the flags of both (R161). -/
theorem XFloatWord.of_rounds {s : State} {i : Instr} {g : Guard} {len : Nat} {regs : List SReg} {prec : BitVec 2} {d : SReg}
    {f : XState → FVal × Flags} (he : exec i s = xFp s len g regs fun x => x.fpRound prec d (f x).1 (f x).2) :
    XFloatWord s i g len regs (rounds s.core.x prec d (f s.core.x)).1 (rounds s.core.x prec d (f s.core.x)).2 :=
  .of_xFp he rfl (XState.setS_pc _ _ _)

/-- A conversion to an integer range (R167). -/
theorem XFloatWord.of_xToInt {s : State} {i : Instr} {g : Guard} {src : BitVec 2} {d a : SReg} {lo hi : Int}
    (he : exec i s = xToInt s g src d a lo hi) :
    XFloatWord s i g 4 [d, a] (toIntRange (fcrRm s.core.x.fcr) lo hi (s.core.x.fpOp src a)).2
      fun y => y.setS d (BitVec.ofInt 64 (toIntRange (fcrRm s.core.x.fcr) lo hi (s.core.x.fpOp src a)).1) := by
  refine .of_xFp he ?_ (XState.setS_pc _ _ _)
  generalize toIntRange (fcrRm s.core.x.fcr) lo hi (s.core.x.fpOp src a) = r
  rfl

/-- The bits of a scalar operand of a precision, as FMIN and FMAX read them under DZ (R165). -/
def XState.fpBits (x : XState) (prec : BitVec 2) (r : SReg) : Nat :=
  (precFmt prec).dazBits (fcrDz x.fcr) ((x.getS r).toNat % 2 ^ (precFmt prec).width)

/-- A minimum or a maximum (R165). -/
theorem XFloatWord.of_xMinMax {s : State} {i : Instr} {g : Guard} {isMax : Bool} {prec : BitVec 2} {d a b : SReg}
    (he : exec i s = xMinMax s g isMax prec d a b) :
    XFloatWord s i g 4 [d, a, b] (fminmax (precFmt prec) isMax (s.core.x.fpBits prec a) (s.core.x.fpBits prec b)).2
      fun y => y.setS d (BitVec.ofNat 64 (fminmax (precFmt prec) isMax (s.core.x.fpBits prec a) (s.core.x.fpBits prec b)).1) := by
  obtain ⟨r, fl, hr⟩ : ∃ r fl, fminmax (precFmt prec) isMax (s.core.x.fpBits prec a) (s.core.x.fpBits prec b) = (r, fl) :=
    ⟨_, _, rfl⟩
  rw [hr]
  refine .of_xFp he ?_ (XState.setS_pc _ _ _)
  unfold XState.fpBits at hr
  dsimp only
  rw [hr]

theorem floatWords : FloatWords := by
  intro s g prec src d a b c negp nega
  refine ⟨?add, ?sub, ?mul, ?fma, ?fp, ?i64, ?u64, ?toI64, ?toU64⟩
  case add => exact .of_rounds (f := fun x => (x.fpOp prec a).add (fcrRm x.fcr) (x.fpOp prec b)) (exec_fadd g prec d a b s)
  case sub => exact .of_rounds (f := fun x => (x.fpOp prec a).add (fcrRm x.fcr) (x.fpOp prec b).neg) (exec_fsub g prec d a b s)
  case mul => exact .of_rounds (f := fun x => (x.fpOp prec a).mul (x.fpOp prec b)) (exec_fmul g prec d a b s)
  case fma =>
    exact .of_rounds (f := fun x => FVal.fma (fcrRm x.fcr) (x.fpOp prec a) (x.fpOp prec b) (x.fpOp prec c) negp nega)
      (exec_ffma g negp nega prec d a b c s)
  case fp => exact .of_rounds (f := fun x => (x.fpOp src a, (x.fpOp src a).sigF)) (exec_fcvtFpFp g prec src d a s)
  case i64 => exact .of_rounds (f := fun x => (FVal.ofInt (x.getS a).toInt, 0)) (exec_fcvtI64Fp g prec d a s)
  case u64 => exact .of_rounds (f := fun x => (FVal.ofInt (x.getS a).toNat, 0)) (exec_fcvtU64Fp g prec d a s)
  case toI64 => exact .of_xToInt (exec_fcvtFpI64 g prec d a s)
  case toU64 => exact .of_xToInt (exec_fcvtFpU64 g prec d a s)

/-! ### Minima, maxima and comparisons raise NV or nothing (R159, R165) -/

theorem FVal.sigF_eq (v : FVal) : v.sigF = 0 ∨ v.sigF = 0x10 := by
  unfold FVal.sigF
  split
  · exact .inr rfl
  · exact .inl rfl

theorem FVal.sigF_or_eq (v w : FVal) : v.sigF ||| w.sigF = 0 ∨ v.sigF ||| w.sigF = 0x10 := by
  obtain h | h := v.sigF_eq <;> obtain h' | h' := w.sigF_eq <;> rw [h, h'] <;> decide

theorem fIf_fNV_eq (p : Bool) : fIf p fNV = 0 ∨ fIf p fNV = 0x10 := by
  cases p with
  | true => exact .inr rfl
  | false => exact .inl rfl

theorem fcmpCond_flags (cond : Nat) (a b : FVal) : (fcmpCond cond a b).2 = 0 ∨ (fcmpCond cond a b).2 = 0x10 := by
  unfold fcmpCond
  split
  · exact a.sigF_or_eq b
  · exact fIf_fNV_eq _
  · exact fIf_fNV_eq _
  · exact a.sigF_or_eq b

theorem fminmax_flags_eq (f : Fmt) (m : Bool) (a b : Nat) :
    (fminmax f m a b).2 = (f.decode a).sigF ||| (f.decode b).sigF := by
  unfold fminmax
  dsimp only
  split
  · rfl
  split
  · rfl
  split
  · rfl
  split <;> rfl

theorem fminmax_bits (f : Fmt) (m : Bool) (a b : Nat) :
    (fminmax f m a b).1 = a ∨ (fminmax f m a b).1 = b ∨ (fminmax f m a b).1 = f.qnan := by
  have pick (c : Prop) [Decidable c] (x y : Nat) : (if c then x else y) = x ∨ (if c then x else y) = y := by
    split
    · exact .inl rfl
    · exact .inr rfl
  unfold fminmax
  dsimp only
  split
  · exact .inr (.inr rfl)
  split
  · exact .inr (.inl rfl)
  split
  · exact .inl rfl
  split
  · exact (pick _ b a).elim (fun h => .inr (.inl h)) .inl
  · exact (pick _ b a).elim (fun h => .inr (.inl h)) .inl

theorem floatCompareMinMax : FloatCompareMinMax := by
  intro s g prec d a b cond comb pd pe
  refine ⟨fun m => ⟨fminmax_bits _ m _ _, ?flags⟩, fcmpCond_flags _ _ _, ?min, ?max, ?cmp⟩
  case flags =>
    rw [fminmax_flags_eq]
    exact FVal.sigF_or_eq _ _
  case min => exact .of_xMinMax (exec_fmin g prec d a b s)
  case max => exact .of_xMinMax (exec_fmax g prec d a b s)
  case cmp =>
    have h := XFloatWord.of_xFp (exec_fcmp g cond comb prec pd pe a b s) rfl rfl
    simp only [XFloatWord, combine_eq_pairAfter] at h
    exact h

/-- Settles O4: every floating-point word of X is the shared meaning of R162 at the flags and the write that its rule computes. -/
theorem floatingPointOfX : Obligations.FloatingPointOfX := ⟨floatWords, floatCompareMinMax⟩

end Sys2Proof.Machine

/-! ## Control registers (R146-R150, R192) -/

namespace Sys2Proof.Machine

/-! ### The fields that a write of `fcr` or `fsr` sets -/

theorem getLsbD_ones (n : Nat) (hn : n ≤ 64) (j : Nat) : (BitVec.ofNat 64 (2 ^ n - 1)).getLsbD j = decide (j < n) := by
  rw [BitVec.getLsbD_ofNat, Nat.testBit_two_pow_sub_one]
  grind

theorem getLsbD_fcrFields (j : Nat) : (0x3F8 : W64).getLsbD j = decide (3 ≤ j ∧ j < 10) := by
  rw [show (0x3F8 : W64) = BitVec.ofNat 64 (2 ^ 7 - 1) <<< 3 from rfl, BitVec.getLsbD_shiftLeft, getLsbD_ones 7 (by decide)]
  grind

/-- A write of `fcr` sets bits 3-9, leaves RM where its code is 5-7, and keeps the reserved bits zero (R147). -/
theorem getLsbD_writeFcr (old v : W64) (j : Nat) :
    (writeFcr old v).getLsbD j =
      if j < 3 then (if v.toNat % 8 < 5 then v.getLsbD j else old.getLsbD j) else decide (j < 10) && v.getLsbD j := by
  have h3 := getLsbD_ones 3 (by decide) j
  have h10 := getLsbD_ones 10 (by decide) j
  have hf := getLsbD_fcrFields j
  unfold writeFcr
  split
  · rw [BitVec.getLsbD_or, BitVec.getLsbD_and, BitVec.getLsbD_and, hf, show (7 : W64) = BitVec.ofNat 64 (2 ^ 3 - 1) from rfl, h3]
    grind
  · rw [BitVec.getLsbD_and, show (0x3FF : W64) = BitVec.ofNat 64 (2 ^ 10 - 1) from rfl, h10]
    grind

theorem writeFcr_toNat_mod (old v : W64) :
    (writeFcr old v).toNat % 8 = if v.toNat % 8 < 5 then v.toNat % 8 else old.toNat % 8 := by
  apply Nat.eq_of_testBit_eq
  intro j
  rw [apply_ite (Nat.testBit · j)]
  simp only [show 8 = 2 ^ 3 from rfl, Nat.testBit_mod_two_pow, BitVec.testBit_toNat, getLsbD_writeFcr]
  grind

theorem writeFsr_toNat (v : W64) : (writeFsr v).toNat = v.toNat % 64 := by
  rw [writeFsr, BitVec.toNat_and]
  exact Nat.and_two_pow_sub_one_eq_mod v.toNat 6

theorem writeFsr_eq_ofNat (v : W64) : writeFsr v = BitVec.ofNat 64 (v.toNat % 64) := by
  rw [← writeFsr_toNat, BitVec.ofNat_toNat, BitVec.setWidth_eq]

/-- A CSR write leaves X's pc alone. -/
theorem csrWrite_pc (c : Core) (a : BitVec 12) (v : W64) : (csrWrite c a v).x.pc = c.x.pc := by
  unfold csrWrite
  split <;> rfl

/-! ### The words -/

/-- The core that a CSR word leaves, before its old value is written to s[D]. -/
def csrAfter (c : Core) (csr : BitVec 12) : Option W64 → Core
  | some v => csrWrite c csr v
  | none => c

theorem csrAfter_pc (c : Core) (csr : BitVec 12) (v : Option W64) : (csrAfter c csr v).x.pc = c.x.pc := by
  cases v with
  | none => rfl
  | some v => exact csrWrite_pc c csr v

section
variable {s : State} {g : Guard} {d a : SReg} {csr : BitVec 12} {f : W64 → W64 → Option W64}

theorem xCsr_skip (h : guardHolds g s.core.x.p = false) : xCsr s g d a csr f = .next (s.xAfter 8 s.core.x) := by
  unfold xCsr State.xAfter State.xPass
  rw [onMach_put, if_pos (by show (!guardHolds g s.core.x.p) = true; rw [h]; rfl)]
  rfl

theorem xCsr_go (h : s.xGo g [d, a]) :
    xCsr s g d a csr f =
      let old := csrRead s.ctl s.mc csr
      let c := csrAfter s.core csr (f old (s.core.x.getS a))
      .next (s.xPass 8 { c with x := c.x.setS d old }) := by
  have hpc (v : Option W64) : ((csrAfter s.core csr v).x.setS d (csrRead s.ctl s.mc csr)).pc = s.core.x.pc :=
    (XState.setS_pc _ _ _).trans (csrAfter_pc _ _ _)
  unfold xCsr State.xPass
  rw [onMach_put, if_neg (by show ¬(!guardHolds g s.core.x.p) = true; rw [h.1]; decide),
    if_neg (by show ¬([d, a].any s.core.x.busy) = true; rw [h.2]; decide)]
  simp only [← XState.next_eq_past _ _ _ _ (hpc _)]
  rfl

end

/-- `pr` reads the seven predicates that can be written, and p7 as 1 (R146). -/
theorem csrRead_pr (k : Ctl) (m : Mach) : (csrRead k m 0x006).toNat = (m.core k.cur.val).x.p.toNat % 128 + 128 := by
  have h : ∀ p : BitVec 8, ((p ||| 0x80#8).setWidth 64).toNat = p.toNat % 128 + 128 := by decide
  exact h (m.core k.cur.val).x.p

theorem csrWords : CsrWords := by
  intro s g d a csr
  have hfree (h : s.xGo g [d]) : s.xGo g [d, 0] := ⟨h.1, by simpa [XState.busy] using h.2⟩
  exact ⟨⟨fun h => (exec_csrr g d csr s).trans (xCsr_go (hfree h)), fun h => (exec_csrr g d csr s).trans (xCsr_skip h)⟩,
    ⟨fun h => (exec_csrw g d a csr s).trans (xCsr_go h), fun h => (exec_csrw g d a csr s).trans (xCsr_skip h)⟩,
    ⟨fun h => (exec_csrwSet g d a csr s).trans (xCsr_go h), fun h => (exec_csrwSet g d a csr s).trans (xCsr_skip h)⟩,
    ⟨fun h => (exec_csrwClr g d a csr s).trans (xCsr_go h), fun h => (exec_csrwClr g d a csr s).trans (xCsr_skip h)⟩,
    rfl, rfl, rfl, csrRead_pr _ _, rfl⟩

theorem csrFieldRules : CsrFieldRules := by
  intro c v
  refine ⟨fun j hj => ?reserved, fun j h3 h10 => ?set, writeFcr_toNat_mod _ _, writeFsr_toNat _, ?readOnly⟩
  case reserved => exact (getLsbD_writeFcr _ v j).trans (by grind)
  case set => exact (getLsbD_writeFcr _ v j).trans (by grind)
  case readOnly =>
    simp only [List.forall_mem_cons]
    exact ⟨rfl, rfl, rfl, rfl, rfl, rfl, rfl, rfl, rfl, rfl, rfl, rfl, rfl, rfl, fun _ h => nomatch h⟩

theorem flagsMerge : FlagsMerge := fun c v =>
  ⟨rfl, rfl, rfl, rfl, rfl, rfl, rfl, rfl, congrArg (· ||| c.c.fsrNew) (writeFsr_eq_ofNat v)⟩

/-- Settles O12: the four CSR words are one meaning at the value that each writes; the fields are read off the values that `fcr` and
`fsr` take, bit by bit. -/
theorem controlRegisters : Obligations.ControlRegisters := ⟨csrWords, csrFieldRules, flagsMerge⟩

end Sys2Proof.Machine

/-! ## Control flow of X (R169-R172) -/

namespace Sys2Proof.Machine

section
variable {s : State} {len : Nat} {g : Guard} {regs : List SReg}

/-- A branch whose guard is false is only passed. -/
theorem xBranch_skip {link : Bool} {target : XState → W32} (h : guardHolds g s.core.x.p = false) :
    xBranch s len g regs link target = .next (s.xAfter len s.core.x) := by
  unfold xBranch
  rw [onCore_put, if_pos (by rw [h]; rfl)]
  rfl

/-- A branch that is taken: X goes on at its target three clocks later, and a call leaves the address of the next word in s30. -/
theorem xBranch_go {link : Bool} {target : XState → W32} {t : W32} (ht : target s.core.x = t) (h : s.xGo g regs) :
    xBranch s len g regs link target =
      let x := s.core.x
      let y := if link then x.setS 30 ((x.pc + BitVec.ofNat 32 len).setWidth 64) else x
      .next (s.putCore { s.core with x := { y with pc := t, ready := s.ctl.cyc + 3, wait := none } }) := by
  subst ht
  unfold xBranch
  rw [onCore_put, if_neg (by rw [h.1]; decide), if_neg (by rw [h.2]; decide)]

/-- A word whose meaning is to change nothing is passed under a true guard as under a false one. -/
theorem xDo_nothing : xDo s len g [] (fun _ x => x) = .next (s.xAfter len s.core.x) := by
  cases h : guardHolds g s.core.x.p with
  | false => exact xDo_skip s len g [] _ h
  | true => exact xDo_go s len g [] _ rfl ⟨h, rfl⟩

end

/-- The target of a relative branch, in the words of R169: four bytes a parcel. -/
theorem relTarget_eq (off : W32) (x : XState) : relTarget off x = x.pc + 4 * off :=
  congrArg (x.pc + ·) (BitVec.mul_comm off 4)

/-- Each word of the table is a branch of its length, over its registers, to its target; the calls among them link. -/
theorem exec_branchTable {s : State} {g : Guard} {a : SReg} {o10 : BitVec 10} {o16 : BitVec 16} {o32 : W32}
    {p : Instr × Nat × List SReg × W32} (hp : p ∈ branchTable g a o10 o16 o32 s.core.x) :
    ∃ target : XState → W32, exec p.1 s = xBranch s p.2.1 g p.2.2.1 (isCall p.1) target ∧ target s.core.x = p.2.2.2 := by
  simp only [branchTable, List.mem_cons, List.not_mem_nil, or_false] at hp
  obtain rfl | rfl | rfl | rfl | rfl | rfl | rfl | rfl := hp
  · exact ⟨_, exec_br32 g o10 s, relTarget_eq _ _⟩
  · exact ⟨_, exec_br64 g o16 s, relTarget_eq _ _⟩
  · exact ⟨_, exec_br96 g o32 s, relTarget_eq _ _⟩
  · exact ⟨_, exec_call32 g o10 s, relTarget_eq _ _⟩
  · exact ⟨_, exec_call64 g o16 s, relTarget_eq _ _⟩
  · exact ⟨_, exec_call96 g o32 s, relTarget_eq _ _⟩
  · exact ⟨_, exec_jmpr g a s, rfl⟩
  · exact ⟨_, exec_ret g s, rfl⟩

/-- Settles O5: each word of the table is one shared branch at its target; a NOP is passed whatever its guard. -/
theorem branches : Obligations.Branches := by
  intro s g a o10 o16 o32
  refine ⟨fun p hp => ?branch, ?nop⟩
  case branch =>
    obtain ⟨target, he, ht⟩ := exec_branchTable hp
    exact ⟨fun h => he.trans (xBranch_go ht h), fun h => he.trans (xBranch_skip h)⟩
  case nop =>
    simp only [List.forall_mem_cons]
    exact ⟨(exec_nop32 g s).trans xDo_nothing, (exec_nop64 g s).trans xDo_nothing, (exec_nop96 g s).trans xDo_nothing,
      fun _ h => nomatch h⟩

/-! ## Posted scalar accesses of X (R174-R176, R180) -/

/-- An index of a semaphore, 0-4095 (R179). -/
theorem semRange_none {i : W64} (h : i.toNat < 4096) : semRange i = none := if_neg (Nat.not_le.mpr h)

/-- Any other index raises SEM_RANGE with it. -/
theorem semRange_some {i : W64} (h : 4096 ≤ i.toNat) : semRange i = some (0x42, i, 0) := if_pos h

section
variable {s : State} {g : Guard} {d a b : SReg} {size : BitVec 2} {sx : Bool} {off : BitVec 16}

/-- A load that would be the 65th outstanding does not issue. -/
theorem execLds_full (h : 64 ≤ s.core.x.lc) : execLds g d a size sx off s = .next s := by
  unfold execLds
  rw [onCore_put, if_pos h, State.putCore_self]

/-- A load under a false guard is counted until its turn comes (R175). -/
theorem execLds_skip (hc : s.core.x.lc < 64) (h : guardHolds g s.core.x.p = false) :
    execLds g d a size sx off s = .next (s.xAfter 8 { s.core.x with pend := s.core.x.pend ++ [.skip d s.ctl.cyc] }) := by
  unfold execLds
  rw [onCore_put, if_neg (Nat.not_le.mpr hc), if_pos (by rw [h]; rfl)]
  rfl

/-- A load that issues is posted. -/
theorem execLds_go (hc : s.core.x.lc < 64) (h : s.xGo g [d, a]) :
    execLds g d a size sx off s = .next (s.xAfter 8 { s.core.x with
      pend := s.core.x.pend ++ [.load d (scalarOff (s.core.x.getS a) off (sizeBytes size)) (sizeBytes size) sx none] }) := by
  unfold execLds
  rw [onCore_put, if_neg (Nat.not_le.mpr hc), if_neg (by rw [h.1]; decide), if_neg (by rw [h.2]; decide)]
  rfl

/-- SEMADD of an index in range is posted. -/
theorem execSemadd_go (h : s.xGo g [a, b]) (hi : (indexOf (s.core.x.getS a) off).toNat < 4096) :
    execSemadd g a b off s = .next (s.xAfter 8 { s.core.x with
      pend := s.core.x.pend ++ [.semadd (indexOf (s.core.x.getS a) off).toNat (s.core.x.getS b)] }) := by
  refine (xTry_go s 8 g [a, b] _ h).trans ?_
  dsimp only
  rw [semRange_none hi]
  rfl

/-- SEMADD of an index out of range traps with it. -/
theorem execSemadd_trap (h : s.xGo g [a, b]) (hi : 4096 ≤ (indexOf (s.core.x.getS a) off).toNat) :
    execSemadd g a b off s = .next (s.xTrap 0x42 (indexOf (s.core.x.getS a) off) 0) := by
  refine (xTry_go s 8 g [a, b] _ h).trans ?_
  dsimp only
  rw [semRange_some hi]

end

/-- Settles O6: a load, a store and a semaphore operation each add their access to the end of X's list. -/
theorem scalarAccesses : Obligations.ScalarAccesses := by
  intro s g d a b size sx off
  refine ⟨?load, ?skipped, ?full, ?store, ?storeOff, ?semadd, ?range, ?semaddOff⟩
  case load => exact fun hc h => (exec_lds g d a size sx off s).trans (execLds_go hc h)
  case skipped => exact fun hc h => (exec_lds g d a size sx off s).trans (execLds_skip hc h)
  case full => exact fun h => (exec_lds g d a size sx off s).trans (execLds_full h)
  case store => exact fun h => (exec_sts g a b size off s).trans (xDo_go s 8 g [a, b] _ rfl h)
  case storeOff => exact fun h => (exec_sts g a b size off s).trans (xDo_skip s 8 g [a, b] _ h)
  case semadd => exact fun h hi => (exec_semadd g a b off s).trans (execSemadd_go h hi)
  case range => exact fun h hi => (exec_semadd g a b off s).trans (execSemadd_trap h hi)
  case semaddOff => exact fun h => (exec_semadd g a b off s).trans (xTry_skip s 8 g [a, b] _ h)

end Sys2Proof.Machine

/-! ## Blocking words of X (R43, R178) -/

namespace Sys2Proof.Machine

/-! ### A look at the condition in the clock in which the word is met -/

section
variable (i : Instr) (lim cyc : Nat)

/-- A condition that holds at an opportunity: a limit has not yet run out. -/
theorem blkStep_act : blkStep i lim cyc true none true = .act := by
  refine if_pos ?_
  simp only [Option.getD_none, Bool.true_and, Bool.or_eq_true, beq_iff_eq, decide_eq_true_eq]
  omega

/-- A condition that does not hold at an opportunity, with limit code 0. -/
theorem blkStep_giveUp : blkStep i 0 cyc true none false = .giveUp := rfl

/-- With another limit the word waits. -/
theorem blkStep_hold_limit (h : lim ≠ 0) : blkStep i lim cyc true none false = .hold ⟨i, cyc, some lim⟩ := by
  unfold blkStep
  rw [if_neg (by simp), if_neg (by simpa using h)]
  rfl

/-- So it does where the clock is no opportunity. -/
theorem blkStep_hold_clock (ok : Bool) : blkStep i lim cyc false none ok = .hold ⟨i, cyc, some lim⟩ := rfl

end

section
variable {s : State} {i : Instr} {len : Nat} {g : Guard} {regs : List SReg} {rel : Bool} {rp : PReg} {lim : Nat}
  {opp : Ctl → Core → Bool} {pre : Ctl → Mach → Option (Byte × W64 × W64)} {act : Ctl → Mach → Option Mach}

/-- The state in which a blocking word of `len` bytes leaves the machine `m`: past it, its outcome in a predicate. -/
def State.xReport (s : State) (len : Nat) (rp : PReg) (m : Mach) (b : Bool) : State :=
  let c := m.core s.ctl.cur.val
  s.put (m.setCore s.ctl.cur.val { c with x := { c.x.past c.x.pc s.ctl.cyc len with p := setPred c.x.p rp b } })

/-- A blocking word of X may look at its condition: no register of it awaits a load, and of a release the earlier accesses are
served (R117, R151). -/
def State.xMayLook (s : State) (regs : List SReg) (rel : Bool) : Prop :=
  regs.any s.core.x.busy = false ∧ (rel = true → s.core.x.pend.any Posted.unserved = false)

theorem State.xMayLook.notHeld (h : s.xMayLook regs rel) : (regs.any s.core.x.busy || (rel && !s.core.x.drained)) = false := by
  obtain ⟨hb, hr⟩ := h
  rw [hb, Bool.false_or, XState.drained, Bool.not_not]
  cases rel with
  | false => rfl
  | true => exact hr rfl

theorem xBlock_skip (h : guardHolds g s.core.x.p = false) :
    xBlock s i len g regs rel rp lim opp pre act = .next (s.xAfter len s.core.x) := by
  unfold xBlock
  rw [onMach_put, if_pos (by show (!guardHolds g s.core.x.p) = true; rw [h]; rfl)]
  rfl

/-- Under a true guard a blocking word that may look raises its trap, or acts, gives up or waits. -/
theorem xBlock_go (h : guardHolds g s.core.x.p = true) (hl : s.xMayLook regs rel) :
    xBlock s i len g regs rel rp lim opp pre act = .next (match pre s.ctl s.mc with
      | some t => s.xTrap t.1 t.2.1 t.2.2
      | none =>
        let r := if opp s.ctl s.core then act s.ctl s.mc else none
        match blkStep i lim s.ctl.cyc (opp s.ctl s.core) s.core.x.wait r.isSome with
        | .act => s.xReport len rp (r.getD s.mc) true
        | .giveUp => s.xReport len rp s.mc false
        | .hold w => s.putCore { s.core with x := { s.core.x with wait := some w } }) := by
  unfold xBlock
  rw [onMach_put, if_neg (by show ¬(!guardHolds g s.core.x.p) = true; rw [h]; decide),
    if_neg (by show ¬(regs.any s.core.x.busy || (rel && !s.core.x.drained)) = true; rw [hl.notHeld]; decide)]
  show Host.Outcome.next (s.put (match pre s.ctl s.mc with
    | some (code, i0, i1) => _
    | none => match blkStep i lim s.ctl.cyc (opp s.ctl s.core) s.core.x.wait
        (if opp s.ctl s.core then act s.ctl s.mc else none).isSome with
      | .act => _
      | .giveUp => _
      | .hold w => _)) = _
  cases pre s.ctl s.mc with
  | some t => rfl
  | none =>
    dsimp only
    cases blkStep i lim s.ctl.cyc (opp s.ctl s.core) s.core.x.wait (if opp s.ctl s.core then act s.ctl s.mc else none).isSome <;> rfl

theorem xBlock_trap (h : guardHolds g s.core.x.p = true) (hl : s.xMayLook regs rel) {code : Byte} {i0 i1 : W64}
    (hp : pre s.ctl s.mc = some (code, i0, i1)) :
    xBlock s i len g regs rel rp lim opp pre act = .next (s.xTrap code i0 i1) := by
  rw [xBlock_go h hl, hp]

/-- A word whose meaning is xBlock is a blocking word of X, whose first look finds no wait behind it. -/
theorem XBlocks.of_xBlock (he : exec i s = xBlock s i len g regs rel rp lim opp pre act) {free ready : Prop} {a : Option Mach}
    (hfree : free → s.xMayLook regs rel ∧ pre s.ctl s.mc = none) (hready : opp s.ctl s.core = true ↔ ready)
    (ha : act s.ctl s.mc = a) : XBlocks s i g len lim rp free ready a := by
  subst ha
  refine ⟨fun hg hf hw hr m hm => ?acts, fun hg hf hw hr hm h0 => ?givesUp, fun hg hf hw hn => ?waits,
    fun hg => he.trans (xBlock_skip hg)⟩
  all_goals
    obtain ⟨hl, hp⟩ := hfree hf
    refine (he.trans (xBlock_go hg hl)).trans ?_
    rw [hp, hw]
    dsimp only
  case acts =>
    rw [hready.mpr hr, if_pos rfl, hm, Option.isSome_some, blkStep_act]
    rfl
  case givesUp =>
    rw [hready.mpr hr, if_pos rfl, hm, h0, Option.isSome_none, blkStep_giveUp]
    rfl
  case waits =>
    cases ho : opp s.ctl s.core with
    | false => rw [blkStep_hold_clock]
    | true =>
      obtain ⟨hm, hlim⟩ := hn (hready.mp ho)
      rw [if_pos rfl, hm, Option.isSome_none, blkStep_hold_limit i lim _ hlim]

end

/-! ### SEMWAIT and TXGO (R179, R181, R196) -/

section
variable {s : State} {i : Instr} {len : Nat} {g : Guard} {a b : SReg} {off : BitVec 16} {take : Bool} {entry : BitVec 13}
  {rp : PReg} {lim : Nat}

/-- What a semaphore that holds enough gives X, which acquires by it. -/
theorem Core.map_semTest_acquired {α : Type} (c : Core) (i n : Nat) (take : Bool) (f : Core → α) :
    (c.semTest i n take).map (fun c => f c.acquired) = if (n : Int) ≤ (c.sem i).toInt
      then some (f { (if take then c.setSem i (c.sem i - BitVec.ofNat 64 n) else c) with lastSem := c.emit.written })
      else none := by
  unfold Core.semTest
  split
  · cases take <;> rfl
  · rfl

/-- A SEMWAIT of an index in range looks in X's positions once X's accesses are served. -/
theorem XBlocks.of_xSemwait (he : exec i s = xSemwait s i len g a b off take rp lim) :
    let c := s.core
    let idx := c.x.getS a + off.signExtend 64
    let n : Nat := (c.x.getS b).toNat % 2 ^ 32
    XBlocks s i g len lim rp ([a, b].any c.x.busy = false ∧ idx.toNat < 4096)
      (s.ctl.cyc % 8 = 6 ∧ s.ctl.cyc / 8 % 2 = 0 ∧ c.x.pend.any Posted.unserved = false)
      (if n = 0 then some s.mc
        else if (n : Int) ≤ (c.sem idx.toNat).toInt then some (s.mc.setCore s.ctl.cur.val
          { (if take then c.setSem idx.toNat (c.sem idx.toNat - BitVec.ofNat 64 n) else c) with lastSem := c.emit.written })
        else none) := by
  refine XBlocks.of_xBlock he (fun ⟨hb, hi⟩ => ⟨⟨hb, nofun⟩, semRange_none hi⟩) ?ready ?act
  case ready => simp [atPosition, XState.drained, and_assoc]
  case act => exact ite_congr rfl (fun _ => rfl) fun _ => Core.map_semTest_acquired _ _ _ _ _

theorem xSemwait_trap (h : s.xGo g [a, b]) (hi : 4096 ≤ (indexOf (s.core.x.getS a) off).toNat) :
    xSemwait s i len g a b off take rp lim = .next (s.xTrap 0x42 (indexOf (s.core.x.getS a) off) 0) :=
  xBlock_trap (rel := false) h.1 ⟨h.2, nofun⟩ (semRange_some hi)

/-- A TXGO of an entry in its task's move program appends to the invocation queue while that has room. -/
theorem XBlocks.of_xTxgo (he : exec i s = xTxgo s i len g a entry rp lim) :
    let e := s.coreEngine
    XBlocks s i g len lim rp ([a].any s.core.x.busy = false ∧ s.core.x.pend.any Posted.unserved = false ∧
        ∀ t, s.core.task = some t → 8 * entry.toNat < t.desc.codeLen - t.desc.moveOff) True
      (if e.invq.length < 16
        then some (s.mc.setEngine (.core s.ctl.cur) { e with invq := e.invq ++ [(entry, s.core.x.getS a)] }) else none) := by
  refine XBlocks.of_xBlock he (fun ⟨hb, hs, ht⟩ => ⟨⟨hb, fun _ => hs⟩, ?inCode⟩) (iff_of_true rfl trivial) rfl
  show (match s.core.task with | none => none | some b => _) = none
  cases hc : s.core.task with
  | none => rfl
  | some t => exact if_neg (Nat.not_le.mpr (ht t hc))

end

/-- Settles O9: SEMWAIT and TXGO are blocking words of X, each at its own trap, opportunity and action. -/
theorem semwaitAndTxgoOfX : Obligations.SemwaitAndTxgoOfX := by
  intro s g a b off take entry rp l8 l32
  refine ⟨?semwait64, ?semwait96, fun h hi => ⟨?range64, ?range96⟩, ?txgo64, ?txgo96⟩
  case semwait64 => exact .of_xSemwait (exec_semwait64 g a b off take rp l8 s)
  case semwait96 => exact .of_xSemwait (exec_semwait96 g a b off take rp l32 s)
  case range64 => exact (exec_semwait64 g a b off take rp l8 s).trans (xSemwait_trap h hi)
  case range96 => exact (exec_semwait96 g a b off take rp l32 s).trans (xSemwait_trap h hi)
  case txgo64 => exact .of_xTxgo (exec_txgo64 g a entry rp l8 s)
  case txgo96 => exact .of_xTxgo (exec_txgo96 g a entry rp l32 s)

/-! ## TAGFF (R183) -/

/-- Clearing the first bit that a search of 64 places finds, and nothing where it finds none. -/
theorem and_not_firstBit (t : W64) (p : Nat → Bool) :
    t &&& ~~~((1 : W64) <<< (BitVec.ofNat 64 ((List.range 64).findIdx p)).toNat) =
      if (List.range 64).findIdx p < 64 then t &&& ~~~BitVec.twoPow 64 ((List.range 64).findIdx p) else t := by
  have hn : (List.range 64).findIdx p ≤ 64 := Nat.le_trans List.findIdx_le_length (Nat.le_of_eq List.length_range)
  generalize (List.range 64).findIdx p = n at hn ⊢
  have hmod : (BitVec.ofNat 64 n).toNat = n := by rw [BitVec.toNat_ofNat]; omega
  rw [hmod]
  split
  · rfl
  · have h64 : n = 64 := by omega
    rw [h64, BitVec.shiftLeft_eq_zero (Nat.le_refl 64), BitVec.not_zero, BitVec.and_allOnes]

/-- So `.clr` clears it: only where it is asked for and there is one. -/
theorem clearFirstBit_eq (clr : Bool) (t : W64) (p : Nat → Bool) :
    (if clr then t &&& ~~~((1 : W64) <<< (BitVec.ofNat 64 ((List.range 64).findIdx p)).toNat) else t) =
      if clr ∧ (List.range 64).findIdx p < 64 then t &&& ~~~BitVec.twoPow 64 ((List.range 64).findIdx p) else t := by
  rw [and_not_firstBit]
  cases clr with
  | false => simp only [Bool.false_eq_true, false_and, if_false]
  | true => simp only [true_and, if_true]

/-- Acquiring unless no tag was found. -/
theorem Core.acquired_unless (c : Core) (t : W64) :
    (if t == 0 then c else c.acquired) = { c with lastSem := if t = 0 then c.lastSem else c.emit.written } := by
  simp only [beq_iff_eq]
  split <;> rfl

section
variable {s : State} {g : Guard} {d a : SReg} {clr : Bool}

theorem execTagff_skip (h : guardHolds g s.core.x.p = false) : execTagff g d a clr s = .next (s.xAfter 4 s.core.x) := by
  unfold execTagff
  rw [onCore_put, if_pos (by rw [h]; rfl)]
  rfl

/-- TAGFF of the ready tags `t` among those asked for, the lowest of which is `low`. -/
theorem execTagff_go (h : s.xGo g [d, a]) :
    let c := s.core
    let t := c.tagr &&& c.x.getS a
    let low := (List.range 64).findIdx t.getLsbD
    execTagff g d a clr s = .next (s.xPass 4 { c with
      tagr := if clr ∧ low < 64 then c.tagr &&& ~~~BitVec.twoPow 64 low else c.tagr
      x := c.x.setS d (BitVec.ofNat 64 low)
      lastSem := if t = 0 then c.lastSem else c.emit.written }) := by
  unfold execTagff State.xPass
  rw [onCore_put, if_neg (by rw [h.1]; decide), if_neg (by rw [h.2]; decide), aluCtz_eq]
  simp only [Core.acquired_unless, clearFirstBit_eq, XState.next_eq_past _ _ _ _ (XState.setS_pc _ _ _)]

end

/-! ## Address conversion (R100, R195) -/

/-- A word that computes a register from an address only changes X. -/
theorem xAddr_eq_xDo (s : State) (g : Guard) (d a : SReg) (f : Mach → Nat → W64 → W64) :
    xAddr s g d a f = xDo s 4 g [d, a] fun _ x => x.setS d (f s.mc s.ctl.cur.val (x.getS a)) := by
  unfold xAddr xDo
  rw [onMach_put, onCore_put]
  unfold State.putCore State.core
  dsimp only
  split
  · rfl
  split
  · rw [Mach.setCore_self]
  · rfl

theorem XWord.of_xAddr {s : State} {i : Instr} {g : Guard} {d a : SReg} {f : Mach → Nat → W64 → W64}
    (he : exec i s = xAddr s g d a f) {v : W64} (hv : f s.mc s.ctl.cur.val (s.core.x.getS a) = v) :
    XWord s i g 4 [d, a] (s.core.x.setS d v) :=
  .of_xDo _ (he.trans (xAddr_eq_xDo s g d a f)) (XState.setS_pc _ _ _) (congrArg _ hv)

/-- An own-window address is one whose bits above the offset are the window's (R97). -/
theorem windowCode_eq_one_iff (v : W64) : windowCode v = 1 ↔ v.toNat / 2 ^ 22 = 0xFF00 * 2 ^ 26 := by
  unfold windowCode
  split
  · omega
  split
  next h => exact iff_of_true rfl (by simpa using h)
  next h =>
    refine iff_of_false ?_ (by simpa using h)
    split <;> decide

theorem toGlobal_eq (m : Mach) (n : Nat) (v : W64) :
    toGlobal m n v = if v.toNat / 2 ^ 22 = 0xFF00 * 2 ^ 26 then
      BitVec.ofNat 64 (0xFE * 2 ^ 56 + m.ownPkg * 2 ^ 32 + n / 40 * 2 ^ 28 + n % 40 * 2 ^ 22 + v.toNat % 2 ^ 22)
      else 0xFFFFFFFFFFFFFFFF :=
  ite_congr (propext (beq_iff_eq.trans (windowCode_eq_one_iff v))) (fun _ => rfl) fun _ => rfl

/-- The global address of a core's own scratchpad reads back as its fields. -/
theorem globalFields {off pkg n : Nat} {v : W64} (ho : off < 2 ^ 22) (hp : pkg < 256) (hn : n < 320)
    (hv : v = BitVec.ofNat 64 (0xFE * 2 ^ 56 + pkg * 2 ^ 32 + n / 40 * 2 ^ 28 + n % 40 * 2 ^ 22 + off)) :
    v.toNat / 2 ^ 40 = 0xFE0000 ∧ gPkg v = pkg ∧ gDie v = n / 40 ∧ gCore v = n % 40 ∧ gOff v = off := by
  have hdie : n / 40 < 8 := by omega
  have hcore : n % 40 < 40 := Nat.mod_lt n (by decide)
  generalize n / 40 = die at hv hdie ⊢
  generalize n % 40 = core at hv hcore ⊢
  have hv' : v.toNat = 0xFE * 2 ^ 56 + pkg * 2 ^ 32 + die * 2 ^ 28 + core * 2 ^ 22 + off := by
    rw [hv, BitVec.toNat_ofNat]
    omega
  unfold gPkg gDie gCore gOff
  rw [hv']
  omega

/-- An address of this package and core, as an own-window one. -/
theorem toOwn_here {m : Mach} {n off pkg : Nat} {v : W64} (ho : off < 2 ^ 22) (hp : pkg < 256) (hn : n < 320)
    (hpkg : pkg = 0xFF ∨ pkg = m.ownPkg)
    (hv : v = BitVec.ofNat 64 (0xFE * 2 ^ 56 + pkg * 2 ^ 32 + n / 40 * 2 ^ 28 + n % 40 * 2 ^ 22 + off)) :
    toOwn m n v = BitVec.ofNat 64 (0xFF * 2 ^ 56 + off) := by
  obtain ⟨hwin, hgp, hgd, hgc, hgo⟩ := globalFields ho hp hn hv
  unfold toOwn
  rw [hwin, hgp, hgd, hgc, hgo]
  exact if_pos (by simpa using hpkg)

/-- An address of another window, or with a reserved bit set. -/
theorem toOwn_other {m : Mach} {n : Nat} {v : W64} (h : v.toNat / 2 ^ 40 ≠ 0xFE0000) : toOwn m n v = 0xFFFFFFFFFFFFFFFF :=
  if_neg (by rw [beq_false_of_ne h]; simp)

/-- Settles O10: TAGFF answers and clears the lowest ready tag; the aperture words write what the address says to s[D]. -/
theorem tagsAndAddresses : Obligations.TagsAndAddresses := by
  intro s g d a clr
  refine ⟨?tagff, ?tagffOff, ?glob, ?own, ?other, ?window⟩
  case tagff => exact fun h => (exec_tagff g d a clr s).trans (execTagff_go h)
  case tagffOff => exact fun h => (exec_tagff g d a clr s).trans (execTagff_skip h)
  case glob => exact .of_xAddr (exec_apcvtGlob g d a s) (toGlobal_eq _ _ _)
  case own =>
    exact fun off pkg ho hp hpkg hv => .of_xAddr (exec_apcvtOwn g d a s) (toOwn_here ho hp s.ctl.cur.isLt hpkg hv)
  case other => exact fun h => .of_xAddr (exec_apcvtOwn g d a s) (toOwn_other h)
  case window => exact .of_xAddr (exec_aptst g d a s) rfl

end Sys2Proof.Machine

/-! ## Words of C on tiles (R232, R233, R236) -/

namespace Sys2Proof.Machine

/-- Replacing a sequencer by itself. -/
theorem Core.setVs_vs_self (c : Core) (q : VSeq) : c.setVs q (c.vs q) = c := by cases q <;> rfl

/-- No flag raised changes nothing. -/
theorem Core.vFlags_zero (c : Core) (q : VSeq) : c.vFlags q 0 = c := by
  have h0 : orFsr (c.vs q).fsrNew 0 = (c.vs q).fsrNew := BitVec.or_zero
  rw [Core.vFlags, h0]
  exact c.setVs_vs_self q

/-- A result without a flag never traps. -/
theorem vFp_zero (c : Core) (q : VSeq) (r : Core) : vFp c q 0 r = .ok r := by
  have h0 : fpTraps (c.vs q).fcr 0 = false := by
    rw [fpTraps, show (0 : Flags).setWidth 5 = 0 from rfl]
    simp
  rw [vFp, h0, Core.vFlags_zero]
  rfl

/-! ### What a word of C can do at issue -/

section
variable {s : State} {i : Instr} {w : VArgs} {tiles : List Reg4} {f : Ctl → Core → CoreRes}

/-- While one of its tiles awaits a MACCR it is not issued. -/
theorem cTry_pending (hg : s.vGo w.g) (hp : s.core.maccrPending tiles = true) : cTry s w tiles f = .next s :=
  if_pos (by show (s.core.vGuard s.ctl.curV w.g && s.core.maccrPending tiles) = true; rw [vGuard_eq, hg, hp]; rfl)

theorem cTry_go (hg : s.vGo w.g) (hp : s.core.maccrPending tiles = false) : cTry s w tiles f = .next (match f s.ctl s.core with
    | .ok c => s.vPass 12 c
    | .trap code i0 i1 => s.vTrap code i0 i1) :=
  (if_neg (by show ¬(s.core.vGuard s.ctl.curV w.g && s.core.maccrPending tiles) = true; rw [hp, Bool.and_false]; decide)).trans
    (vTry_go s 12 w.g f hg)

theorem cTry_skip (h : guardHolds w.g s.vs.p = false) : cTry s w tiles f = .next (s.vPass 12 s.core) :=
  (if_neg (by show ¬(s.core.vGuard s.ctl.curV w.g && s.core.maccrPending tiles) = true; rw [vGuard_eq, h]; simp)).trans
    (vTry_skip s 12 w.g f h)

/-- A word whose meaning is cTry is a word of C with the flags and the core that its effect ends in. -/
theorem CWord.of_cTry (he : exec i s = cTry s w tiles f) {fl : Flags} {c : Core}
    (hf : f s.ctl s.core = vFp s.core s.ctl.curV fl c) : CWord s i w tiles fl c := by
  have hgo (hg : s.vGo w.g) (hp : s.core.maccrPending tiles = false) := he.trans (cTry_go hg hp)
  have hvs : s.core.vs s.ctl.curV = s.vs := rfl
  simp only [hf, vFp, hvs] at hgo
  refine ⟨⟨fun hg hp h0 => ?_, fun hg hp h1 => ?_, fun hg => he.trans (cTry_skip hg)⟩,
    fun hg hp => he.trans (cTry_pending hg hp)⟩
  · rw [hgo hg hp, if_neg (mt (fpTraps_iff _ _).1 (not_not_intro h0))]
    rfl
  · rw [hgo hg hp, if_pos ((fpTraps_iff _ _).2 h1)]
    rfl

/-- One that raises no flag. -/
theorem CWord.of_cTry_ok (he : exec i s = cTry s w tiles f) {c : Core} (hf : f s.ctl s.core = .ok c) : CWord s i w tiles 0 c :=
  .of_cTry he (hf.trans (vFp_zero _ _ _).symm)

end

/-! ### The active lanes of a tile or a mask -/

/-- A flag is raised by the chosen members of a list when one of them raises it. -/
theorem getLsbD_foldl_or_if {α : Type} (p : α → Bool) (f : α → Flags) (j : Nat) (l : List α) (a : Flags) :
    (l.foldl (fun a x => if p x then a ||| f x else a) a).getLsbD j = true ↔
      a.getLsbD j = true ∨ ∃ x ∈ l, p x = true ∧ (f x).getLsbD j = true := by
  have hstep : (fun (a : Flags) x => if p x then a ||| f x else a) = fun a x => a ||| (if p x then f x else 0) := by
    funext a x
    cases p x with
    | true => rfl
    | false => exact BitVec.or_zero.symm
  rw [hstep, getLsbD_foldl_or]
  refine or_congr_right (exists_congr fun x => and_congr_right fun _ => ?_)
  cases p x <;> simp

/-- The flags that the active lanes raise. -/
theorem Core.flags_active (c : Core) (w : VArgs) (f : Nat → Flags) (j : Nat) :
    ((List.range 1024).foldl (fun a n => if c.active w n then a ||| f n else a) (0 : Flags)).getLsbD j = true ↔
      ∃ n < 1024, c.active w n = true ∧ (f n).getLsbD j = true := by
  simp [getLsbD_foldl_or_if]

section
variable (c : Core) (w : VArgs) (d : Nat) (f : Nat → W32 × Flags)

theorem Core.lane_lanes {n : Nat} (hn : n < 1024) :
    lane (c.lanes w d f).1 n = if c.active w n then (f n).1 else lane (c.tile d) n := vget_tab 1024 _ n 0 hn

theorem Core.lane_lanes_active {n : Nat} (hn : n < 1024) (h : c.active w n = true) : lane (c.lanes w d f).1 n = (f n).1 :=
  (c.lane_lanes w d f hn).trans (if_pos h)

theorem Core.lane_lanes_inactive {n : Nat} (hn : n < 1024) (h : ¬c.active w n = true) :
    lane (c.lanes w d f).1 n = lane (c.tile d) n := (c.lane_lanes w d f hn).trans (if_neg h)

theorem Core.flags_lanes (j : Nat) :
    (c.lanes w d f).2.getLsbD j = true ↔ ∃ n < 1024, c.active w n = true ∧ (f n).2.getLsbD j = true := by
  simp only [Core.lanes]
  exact c.flags_active w (fun n => (f n).2) j

end

/-- The bits of a list as one number. -/
theorem testBit_foldr_bits (f : Nat → Bool) (l : List Nat) (j : Nat) :
    (l.foldr (fun n acc => cond (f n) 1 0 + 2 * acc) 0).testBit j = (l[j]?.map f).getD false := by
  induction l generalizing j with
  | nil => simp
  | cons x l ih =>
    rw [List.foldr_cons]
    generalize l.foldr (fun n acc => cond (f n) 1 0 + 2 * acc) 0 = a at ih ⊢
    have hhalf : (cond (f x) 1 0 + 2 * a) / 2 = a ∧ (cond (f x) 1 0 + 2 * a) % 2 = cond (f x) 1 0 := by
      cases f x <;> simp only [cond_true, cond_false] <;> omega
    cases j with
    | zero =>
      rw [Nat.testBit_zero, hhalf.2]
      cases h : f x <;> simp [h]
    | succ j => rw [Nat.testBit_succ, hhalf.1, ih j, List.getElem?_cons_succ]

theorem getLsbD_maskOf (f : Nat → Bool) {n : Nat} (hn : n < 1024) : (maskOf f).getLsbD n = f n := by
  rw [maskOf, BitVec.getLsbD_ofNat, testBit_foldr_bits, List.getElem?_range hn]
  simp [hn]

/-! ### Words that write lanes of v(D) -/

section
variable {s : State} {i : Instr} {w : VArgs} {f g : Nat → W32 × Flags}

/-- A word of C that writes its active lanes of v(D), with their flags. -/
theorem LaneWord.of_cTry {eff : Ctl → Core → CoreRes} (he : exec i s = cTry s w (w.d :: tileSources i) eff)
    (heff : eff s.ctl s.core = vFp s.core s.ctl.curV (s.core.lanes w w.d.toNat f).2
      (s.core.setTile w.d.toNat (s.core.lanes w w.d.toNat f).1))
    (hfg : ∀ n < 1024, f n = g n) : LaneWord s i w g := by
  refine ⟨_, _, fun n hn => ⟨fun h => ?_, s.core.lane_lanes_inactive w _ f hn⟩, fun j _ => ?_, .of_cTry he heff⟩
  · rw [s.core.lane_lanes_active w _ f hn h, hfg n hn]
  · rw [Core.flags_lanes]
    exact exists_congr fun n => and_congr_right fun hn => by rw [hfg n hn]

/-- One that raises no flag. -/
theorem LaneWord.of_cTry_ok {eff : Ctl → Core → CoreRes} {x y : Nat → W32}
    (he : exec i s = cTry s w (w.d :: tileSources i) eff)
    (heff : eff s.ctl s.core = .ok (s.core.setTile w.d.toNat (s.core.lanes w w.d.toNat fun n => (x n, 0)).1))
    (hxy : ∀ n < 1024, x n = y n) : LaneWord s i w fun n => (y n, 0) := by
  refine .of_cTry (f := fun n => (x n, 0)) he (heff.trans ?_) fun n hn => congrArg (·, (0 : Flags)) (hxy n hn)
  have h0 : (s.core.lanes w w.d.toNat fun n => (x n, 0)).2 = 0 := by
    apply BitVec.eq_of_getLsbD_eq
    intro j _
    rw [Bool.eq_iff_iff, Core.flags_lanes]
    simp
  rw [h0, vFp_zero]

theorem vLanes_eq (s : State) (w : VArgs) (src : List Reg4) (f : Core → Fp → Nat → W32 × Flags) :
    vLanes s w src f = cTry s w (w.d :: src) fun k c =>
      vFp c k.curV (c.lanes w w.d.toNat (f c (Fp.ofFcr (c.vs k.curV).fcr))).2
        (c.setTile w.d.toNat (c.lanes w w.d.toNat (f c (Fp.ofFcr (c.vs k.curV).fcr))).1) := by
  refine congrArg (cTry s w (w.d :: src)) (funext fun k => funext fun c => ?_)
  generalize c.lanes w w.d.toNat (f c (Fp.ofFcr (c.vs k.curV).fcr)) = p
  rfl

/-- A word whose meaning is vLanes, whose lanes are stated for the lanes that a tile has. -/
theorem LaneWord.of_vLanes_lt {f : Core → Fp → Nat → W32 × Flags} (he : exec i s = vLanes s w (tileSources i) f)
    (hfg : ∀ n < 1024, f s.core (Fp.ofFcr s.vs.fcr) n = g n) : LaneWord s i w g :=
  .of_cTry (he.trans (vLanes_eq s w _ f)) rfl hfg

/-- A word whose meaning is vLanes. -/
theorem LaneWord.of_vLanes {f : Core → Fp → Nat → W32 × Flags} (he : exec i s = vLanes s w (tileSources i) f)
    (hfg : ∀ n, f s.core (Fp.ofFcr s.vs.fcr) n = g n) : LaneWord s i w g := .of_vLanes_lt he fun n _ => hfg n

end

end Sys2Proof.Machine

/-! ## Integer and logic lane words (R240) -/

namespace Sys2Proof.Machine

/-- A 4-bit field is 1 as the model's meanings ask it. -/
theorem toNat_beq_one (x : BitVec 4) : (x.toNat == 1) = true ↔ x = 1 := beq_iff_eq.trans (BitVec.toNat_inj (y := 1))

section
variable (a b : W32)

theorem sat32_eq (z : Int) : sat32 z =
    if 2147483647 < z then (0x7FFFFFFF, 0x20) else if z < -2147483648 then (0x80000000, 0x20) else (BitVec.ofInt 32 z, 0) := rfl

theorem smin32_min : smin32 false a b = if a.toInt ≤ b.toInt then a else b := by
  simp only [smin32, BitVec.slt_eq_decide, decide_eq_true_eq]
  grind

theorem smin32_max : smin32 true a b = if b.toInt ≤ a.toInt then a else b := by
  simp only [smin32, BitVec.slt_eq_decide, decide_eq_true_eq]
  grind

theorem umin32_eq : (if b.ult a then b else a) = if a.toNat ≤ b.toNat then a else b := by
  simp only [BitVec.ult_eq_decide, decide_eq_true_eq]
  grind

theorem umax32_eq : (if a.ult b then b else a) = if b.toNat ≤ a.toNat then a else b := by
  simp only [BitVec.ult_eq_decide, decide_eq_true_eq]
  grind

end

/-- A word of I32 operands is a word of lanes at its operation. -/
theorem LaneWord.of_vInt2 {s : State} {i : Instr} {w : VArgs} {f : Nat → W32 → W32 → W32 × Flags}
    {g : W32 → W32 → W32 × Flags} (he : exec i s = vInt2 s w (tileSources i) f) (hfg : ∀ a b, f w.fn.toNat a b = g a b) :
    LaneWord s i w fun n => g (intLane s.core w.a w.sa n) (intLane s.core w.b w.sb n) :=
  .of_vLanes he fun _ => hfg _ _

/-- Settles O21: each word is the shared word of I32 operands, at the operation that its table names by FN. -/
theorem laneIntegers : Obligations.LaneIntegers := by
  intro s w p hp
  simp only [laneIntTable, List.mem_cons, List.not_mem_nil, or_false] at hp
  obtain rfl | rfl | rfl | rfl | rfl | rfl := hp
  · refine .of_vInt2 (exec_viadd w s) fun a b => ?_
    simp only [toNat_beq_one, sat32_eq]
  · refine .of_vInt2 (exec_visub w s) fun a b => ?_
    simp only [toNat_beq_one, sat32_eq]
  · refine .of_vInt2 (exec_vimul w s) fun a b => ?_
    match w.fn.toNat with
    | 0 | 1 | _ + 2 => simp
  · refine .of_vInt2 (exec_vlogic w s) fun a b => ?_
    match w.fn.toNat with
    | 0 | 1 | 2 | 3 | _ + 4 => simp
  · refine .of_vInt2 (exec_vshift w s) fun a b => ?_
    match w.fn.toNat with
    | 0 | 1 | _ + 2 => simp
  · refine .of_vInt2 (exec_viminmax w s) fun a b => ?_
    match w.fn.toNat with
    | 0 | 1 | 2 | _ + 3 => simp [smin32_min, smin32_max, umin32_eq, umax32_eq]

end Sys2Proof.Machine

/-! ## Floating-point lane words (R236, R238, R239) -/

namespace Sys2Proof.Machine

/-- A word of two floating-point operands. -/
theorem LaneWord.of_vFp2 {s : State} {i : Instr} {w : VArgs} {f : Fp → FVal → FVal → FVal × Flags}
    (he : exec i s = vFp2 s w f) (ht : tileSources i = [w.a, w.b]) :
    let k := Fp.ofFcr s.vs.fcr
    let t := w.fmt.toNat
    LaneWord s i w fun n => perElem t fun h =>
      k.done t (f k (k.val t (s.core.opFp t w.a w.sa n) h) (k.val t (s.core.opFp t w.b w.sb n) h)) := by
  unfold vFp2 at he
  rw [← ht] at he
  exact .of_vLanes he fun _ => rfl

/-- Settles O22: each word is the shared word of floating-point operands at its operation, whose results are rounded once. -/
theorem laneFloatArithmetic : Obligations.LaneFloatArithmetic := by
  intro s w t rm fz el word
  refine ⟨?add, ?sub, ?mul, ?fma⟩
  case add => exact LaneWord.of_vFp2 (f := fun k a b => a.add k.rm b) (exec_vadd w s) rfl
  case sub => exact LaneWord.of_vFp2 (f := fun k a b => a.add k.rm b.neg) (exec_vsub w s) rfl
  case mul => exact LaneWord.of_vFp2 (f := fun _ a b => a.mul b) (exec_vmul w s) rfl
  case fma => exact LaneWord.of_vLanes (exec_vfma w s) fun _ => rfl

end Sys2Proof.Machine

/-! ## Lane words that select and move (R239, R242, R248) -/

namespace Sys2Proof.Machine

/-- FN is 0, 1, or neither, and then at least 2. -/
theorem fn_cases (x : BitVec 4) : x = 0 ∨ x = 1 ∨ (x ≠ 0 ∧ x ≠ 1 ∧ ∃ m, x.toNat = m + 2) := by
  have h0 : x = 0 ↔ x.toNat = 0 := (BitVec.toNat_inj (y := 0)).symm
  have h1 : x = 1 ↔ x.toNat = 1 := (BitVec.toNat_inj (y := 1)).symm
  rw [ne_eq, ne_eq, h0, h1]
  match x.toNat with
  | 0 => exact .inl rfl
  | 1 => exact .inr (.inl rfl)
  | m + 2 => exact .inr (.inr ⟨by omega, by omega, m, rfl⟩)

theorem bne_eq_decide_ne {α : Type} [DecidableEq α] (x y : α) : (x != y) = decide (x ≠ y) := (decide_not (p := x = y)).symm

theorem isPacked_iff (t : Nat) : isPacked t = true ↔ t = 2 ∨ t = 3 := by simp [isPacked]

theorem signMask_eq (t : Nat) : (if isPacked t then 0x80008000 else 0x80000000 : W32) =
    if t = 2 ∨ t = 3 then 0x80008000 else 0x80000000 := by simp only [isPacked_iff]

/-- Of the I32 operands of VCLAMP, the first kept between the other two (R239). -/
theorem clamp32_eq (a b x : W32) :
    smin32 false (smin32 true a b) x = BitVec.ofInt 32 (min (max a.toInt b.toInt) x.toInt) := by
  have hofInt (y : W32) (z : Int) (h : y.toInt = z) : y = BitVec.ofInt 32 z := h ▸ (BitVec.ofInt_toInt (x := y)).symm
  rw [smin32_min, smin32_max]
  refine hofInt _ _ ?_
  grind

theorem Core.opOf_int {c : Core} {t : Nat} (ht : t = 1) (r : Reg4) (sb : Byte) (n : Nat) : c.opOf t r sb n = intLane c r sb n :=
  if_pos (beq_iff_eq.mpr ht)

theorem Core.opOf_fp {c : Core} {t : Nat} (ht : t ≠ 1) (r : Reg4) (sb : Byte) (n : Nat) : c.opOf t r sb n = c.opFp t r sb n :=
  if_neg (mt beq_iff_eq.mp ht)

theorem laneSelection : LaneSelection := by
  intro s w c t sign bits a b x ia ib ic
  have hint (ht : t = 1) := Core.opOf_int (c := c) ht
  have hfp (ht : t ≠ 1) := Core.opOf_fp (c := c) ht
  refine ⟨?minmax, ?sgn, fun ht => ?clampInt, fun ht => ?clampFp, fun ht => ?selFp, fun ht => ?selInt, ?li⟩
  case minmax => exact .of_vLanes (exec_vminmax w s) fun _ => rfl
  case sgn =>
    refine .of_vLanes (exec_vsgn w s) fun n => congrArg (·, (0 : Flags)) ?_
    rw [signMask_eq]
    obtain hf | hf | ⟨h0, h1, m, hf⟩ := fn_cases w.fn
    · rw [hf]
      rfl
    · rw [hf]
      rfl
    · rw [if_neg h0, if_neg h1, hf]
      rfl
  case clampInt =>
    refine .of_vLanes (exec_vclamp w s) fun n => (if_pos (beq_iff_eq.mpr ht)).trans (congrArg (·, (0 : Flags)) ?_)
    rw [clamp32_eq, hint ht, hint ht, hint ht]
  case clampFp =>
    refine .of_vLanes (exec_vclamp w s) fun n => (if_neg (mt beq_iff_eq.mp ht)).trans ?_
    dsimp only
    rw [hfp ht, hfp ht, hfp ht]
    rfl
  case selFp =>
    refine .of_vLanes (exec_vsel w s) fun n => congrArg (·, (0 : Flags)) ?_
    rw [hfp ht, hfp ht]
  case selInt =>
    refine .of_vLanes (exec_vsel w s) fun n => congrArg (·, (0 : Flags)) ?_
    rw [hint ht, hint ht]
  case li => exact .of_vLanes (exec_vli w s) fun n => congrArg (·, (0 : Flags)) (by simp)

/-- A word that moves whole lanes of v(A), stated by the row and the column that each lane comes from. -/
theorem LaneWord.of_vMove {s : State} {i : Instr} {w : VArgs} {idx : List Reg4} {f : Core → Nat → Nat}
    {from1 : Nat → Nat → Nat × Nat} (he : exec i s = vMove s w idx f) (ht : tileSources i = w.a :: idx)
    (hf : ∀ n, f s.core n = 64 * (from1 (n / 64) (n % 64)).1 + (from1 (n / 64) (n % 64)).2) :
    LaneWord s i w fun n => (srcLane s.core w.a w.sa (64 * (from1 (n / 64) (n % 64)).1 + (from1 (n / 64) (n % 64)).2), 0) := by
  unfold vMove at he
  rw [← ht] at he
  exact .of_vLanes he fun n => congrArg (fun m => (srcLane s.core w.a w.sa m, (0 : Flags))) (hf n)

theorem laneMovement : LaneMovement := by
  intro s w c i b move
  refine ⟨fun _ => ?bcr, fun _ => ?bcc, ?rotr, ?rotc, fun hfn => ?permRow, fun hfn => ?permCol⟩
  case bcr => exact LaneWord.of_vMove (from1 := fun _ col => (i, col)) (exec_vbcr w s) rfl fun _ => rfl
  case bcc => exact LaneWord.of_vMove (from1 := fun row _ => (row, i)) (exec_vbcc w s) rfl fun _ => rfl
  case rotr => exact LaneWord.of_vMove (from1 := fun row col => ((row + i) % 16, col)) (exec_vrotr w s) rfl fun _ => rfl
  case rotc => exact LaneWord.of_vMove (from1 := fun row col => (row, (col + i) % 64)) (exec_vrotc w s) rfl fun _ => rfl
  case permRow =>
    refine LaneWord.of_vMove (from1 := fun row col => (row, b (64 * row + col) % 64)) (exec_vperm w s) rfl fun n =>
      (if_pos (beq_iff_eq.mpr hfn)).trans ?_
    rw [Nat.div_add_mod]
    rfl
  case permCol =>
    refine LaneWord.of_vMove (from1 := fun row col => (b (64 * row + col) % 16, col)) (exec_vperm w s) rfl fun n =>
      (if_neg (mt beq_iff_eq.mp hfn)).trans ?_
    rw [Nat.div_add_mod]
    rfl

/-- Settles O23: the words that select are words of lanes at their rule's element, those that move at the lane their rule names. -/
theorem laneSelectionAndMovement : Obligations.LaneSelectionAndMovement := ⟨laneSelection, laneMovement⟩

end Sys2Proof.Machine

/-! ## Masks and predicates of C (R232, R241, R243, R248) -/

namespace Sys2Proof.Machine

/-- A comparison of I32 lanes raises no flag; EQ and LT are those of integers (R241). -/
theorem cmpLane_int (k : Fp) {t : Nat} (ht : t = 1) (fn : Nat) (a b : W32) :
    (cmpLane k t fn a b).2 = 0 ∧ (fn = 0 → (cmpLane k t fn a b).1 = decide (a = b)) ∧
      (fn = 1 → (cmpLane k t fn a b).1 = decide (a.toInt < b.toInt)) := by
  subst ht
  refine ⟨rfl, ?_, ?_⟩
  · rintro rfl
    rfl
  · rintro rfl
    exact BitVec.slt_eq_decide

/-- A mask of C whose active bits are `f`'s and whose others stay. -/
def Core.maskAfter (c : Core) (w : VArgs) (d : Nat) (f : Nat → Bool) : Mask :=
  maskOf fun n => if c.active w n then f n else (c.getM d).getLsbD n

theorem Core.getLsbD_maskAfter (c : Core) (w : VArgs) (d : Nat) (f : Nat → Bool) {n : Nat} (hn : n < 1024) :
    (c.maskAfter w d f).getLsbD n = if c.active w n then f n else (c.getM d).getLsbD n := getLsbD_maskOf _ hn

section
variable {s : State} {w : VArgs}

/-- VMOV between tiles. -/
theorem exec_vmov_tile (h : w.fn = 0) : exec (.vmov w) s = cTry s w [w.d, w.a] fun _ c =>
    .ok (c.setTile w.d.toNat (c.lanes w w.d.toNat fun n => (c.opBits w.a w.sa n, 0)).1) := by
  rw [exec_vmov, execVmov, h]
  rfl

/-- VMOV between masks. -/
theorem exec_vmov_mask (h : w.fn = 1) : exec (.vmov w) s = cTry s w [] fun _ c =>
    .ok (c.setM (w.d.toNat % 8) (c.maskAfter w (w.d.toNat % 8) fun n => (c.getM (w.a.toNat % 8)).getLsbD n)) := by
  rw [exec_vmov, execVmov, h]
  rfl

/-- VMOV from a tile to a mask. -/
theorem exec_vmov_test (h : w.fn = 2) : exec (.vmov w) s = cTry s w [w.a] fun _ c =>
    .ok (c.setM (w.d.toNat % 8) (c.maskAfter w (w.d.toNat % 8) fun n => c.opBits w.a w.sa n != 0)) := by
  rw [exec_vmov, execVmov, h]
  rfl

/-- VMOV from a mask to a tile. -/
theorem exec_vmov_build (h : w.fn = 3) : exec (.vmov w) s = cTry s w [w.d] fun _ c =>
    .ok (c.setTile w.d.toNat (c.lanes w w.d.toNat fun n => (if (c.getM (w.a.toNat % 8)).getLsbD n then 1 else 0, 0)).1) := by
  rw [exec_vmov, execVmov, h]
  rfl

end

/-- Settles O24: the words that write masks are words of C with a mask made bit by bit; VPM writes a predicate. -/
theorem masksOfC : Obligations.MasksOfC := by
  intro s w c q t k cmp on d e becomes m report
  refine ⟨?cmp, fun ht n => ?cmpInt, fun hfn => ?tile, fun hfn => ?mask, fun hfn => ?test, fun hfn => ?build, ?vpm,
    rfl, fun _ => rfl⟩
  case cmp =>
    exact ⟨c.maskAfter w d fun n => (cmp n).1, c.maskAfter w e fun n => !(cmp n).1, _,
      fun n hn => c.getLsbD_maskAfter w d _ hn, fun n hn => c.getLsbD_maskAfter w e _ hn,
      fun j _ => c.flags_active w (fun n => (cmp n).2) j, .of_cTry (exec_vcmp w s) rfl⟩
  case cmpInt =>
    obtain ⟨hfl, heq, hlt⟩ := cmpLane_int k ht w.fn.toNat (c.opOf t w.a w.sa n) (c.opOf t w.b w.sb n)
    exact ⟨hfl, fun h => heq (congrArg BitVec.toNat h), fun h => hlt (congrArg BitVec.toNat h)⟩
  case tile =>
    have ht : w.d :: tileSources (.vmov w) = [w.d, w.a] := congrArg (w.d :: ·) (if_pos hfn)
    have he := exec_vmov_tile (s := s) hfn
    rw [← ht] at he
    exact .of_cTry_ok he rfl fun n _ => rfl
  case mask => exact ⟨_, fun n hn => c.getLsbD_maskAfter w d _ hn, .of_cTry_ok (exec_vmov_mask hfn) rfl⟩
  case test =>
    refine ⟨_, fun n hn => (c.getLsbD_maskAfter w d _ hn).trans ?_, .of_cTry_ok (exec_vmov_test hfn) rfl⟩
    rw [bne_eq_decide_ne]
    rfl
  case build =>
    have ht : w.d :: tileSources (.vmov w) = [w.d] := congrArg (w.d :: ·) (if_neg (by rw [hfn]; decide))
    have he := exec_vmov_build (s := s) hfn
    rw [← ht] at he
    exact .of_cTry_ok he rfl fun n _ => rfl
  case vpm =>
    refine .of_vDo _ (exec_vpm w s) (congrArg (fun b => c.setVPred q (w.d.extractLsb' 0 3) b) ?_)
    obtain hf | hf | ⟨h0, h1, n, hf⟩ := fn_cases w.fn
    · simp only [report, hf]
      exact bne_eq_decide_ne _ _
    · simp only [report, hf]
      rfl
    · simp only [report, if_neg h0, if_neg h1, hf]
      rfl

end Sys2Proof.Machine

/-! ## Conversion, quantisation, special functions and random numbers (R244-R247, R252, R253) -/

namespace Sys2Proof.Machine

/-- Element `h` of lane `n` as VCVT converts it (R244). -/
def Core.cvtElem (c : Core) (k : Fp) (w : VArgs) (n h : Nat) : Nat × Flags :=
  let t := w.fmt.toNat
  let dest := w.fn.toNat
  let a := c.opFp t w.a w.sa n
  convElem k dest
    (if w.c.getLsbD 0 then some (if h = 0 then (c.srWords w n).1 else (c.srWords w n).2) else none)
    (if t = 1 then FVal.ofInt a.toInt
      else (elemFmt t).daz (k.dz && !(4 ≤ dest && dest ≤ 10)) ((elemFmt t).decode (part t a h)))

/-- VCVT is a word of lanes, of one converted element or of two. -/
theorem exec_vcvt_eq (w : VArgs) (s : State) : exec (.vcvt w) s = vLanes s w [w.a] fun c k n =>
    if isPacked w.fmt.toNat then
      (BitVec.ofNat 32 ((c.cvtElem k w n 0).1 + (c.cvtElem k w n 1).1 * 2 ^ cvtBits w.fn.toNat),
        (c.cvtElem k w n 0).2 ||| (c.cvtElem k w n 1).2)
    else (BitVec.ofNat 32 (c.cvtElem k w n 0).1, (c.cvtElem k w n 0).2) := by
  refine (exec_vcvt w s).trans (congrArg (vLanes s w [w.a]) (funext fun c => funext fun k => funext fun n => ?_))
  unfold Core.cvtElem
  cases w.c.getLsbD 0 <;> simp only [beq_iff_eq] <;> rfl

/-- A random number of VRNG: 32 bits, or one of [0, 1) or of (0, 1] (R253). -/
def rngValue (fn : BitVec 4) (z : W32) : W32 :=
  let unit (x : Nat) : W32 := (toF32 .rne (.fin false x (-24))).1
  if fn = 0 then z else if fn = 1 then unit (z.toNat / 256) else unit (z.toNat / 256 + 1)

/-- VRNG writes the random number of each active lane, and raises no flag. -/
theorem exec_vrng_eq (w : VArgs) (s : State) : exec (.vrng w) s = cTry s w [w.d, w.b] fun k c =>
    .ok (c.setTile w.d.toNat (c.lanes w w.d.toNat fun n => (rngValue w.fn
      (zcg ((c.vs k.curV).getK (w.a.toNat % 8)) w.imm ((c.vs k.curV).getK (w.c.toNat % 8) ++ c.opBits w.b w.sb n)).1, 0)).1) := by
  refine (exec_vrng w s).trans (congrArg (cTry s w [w.d, w.b]) (funext fun k => funext fun c => ?_))
  unfold rngValue
  obtain hf | hf | ⟨h0, h1, m, hf⟩ := fn_cases w.fn
  · simp only [hf]
    rfl
  · simp only [hf]
    rfl
  · simp only [if_neg h0, if_neg h1, hf]

/-- The codes and the scale bytes of VQNT by row, as it works them out once for each row. -/
def Core.quantRows (c : Core) (w : VArgs) (rm : Rm) (n : Nat) : List (Nat × Flags) × List (Nat × Flags) :=
  (((List.range 16).map (c.quantRow w rm))[n / 64]?).getD ([], [])

theorem Core.quantRows_eq (c : Core) (w : VArgs) (rm : Rm) {n : Nat} (hn : n < 1024) :
    c.quantRows w rm n = c.quantRow w rm (n / 64) := by
  rw [Core.quantRows, List.getElem?_map, List.getElem?_range (show n / 64 < 16 by omega)]
  rfl

/-- VQNT writes two tiles, with the flags of both. -/
theorem exec_vqnt_eq (w : VArgs) (s : State) : exec (.vqnt w) s = cTry s w [w.d, w.d + 1, w.a] fun k c =>
    let row := c.quantRows w (fcrRm (c.vs k.curV).fcr)
    let x := c.lanes w w.d.toNat fun n => packedLane (fmtBits w.fn.toNat) (row n).1 (n % 64)
    let y := c.lanes w (w.d.toNat + 1) fun n => packedLane 8 (row n).2 (n % 64)
    vFp c k.curV (x.2 ||| y.2) ((c.setTile w.d.toNat x.1).setTile (w.d.toNat + 1) y.1) := by
  refine (exec_vqnt w s).trans (congrArg (cTry s w [w.d, w.d + 1, w.a]) (funext fun k => funext fun c => ?_))
  simp only [Core.quantRows]

/-- Settles O25: each is a word of C whose active lanes take the element that its rule computes. -/
theorem laneConversion : Obligations.LaneConversion := by
  intro s w c k t dest a rnd u v el codes scales
  refine ⟨fun h2 h3 => ?one, fun ht => ?two, ?special, ?random, fun _ => ?quant⟩
  case one => exact .of_vLanes (exec_vcvt_eq w s) fun _ => if_neg (mt (isPacked_iff t).mp (not_or.mpr ⟨h2, h3⟩))
  case two => exact .of_vLanes (exec_vcvt_eq w s) fun _ => if_pos ((isPacked_iff t).mpr ht)
  case special => exact .of_vLanes (exec_vsf w s) fun _ => rfl
  case random => exact .of_cTry_ok (exec_vrng_eq w s) rfl fun _ _ => rfl
  case quant =>
    have hrow {n : Nat} (hn : n < 1024) := c.quantRows_eq w k.rm hn
    have hcodes {n : Nat} (hn : n < 1024) : packedLane _ (c.quantRows w k.rm n).1 (n % 64) = codes n :=
      congrArg (fun r => packedLane (fmtBits w.fn.toNat) r.1 (n % 64)) (hrow hn)
    have hscales {n : Nat} (hn : n < 1024) : packedLane 8 (c.quantRows w k.rm n).2 (n % 64) = scales n :=
      congrArg (fun r => packedLane 8 r.2 (n % 64)) (hrow hn)
    refine ⟨_, _, _, fun n hn hon => ⟨?_, ?_⟩, fun n hn hoff => ⟨?_, ?_⟩, fun j _ => ?_,
      .of_cTry (exec_vqnt_eq w s) rfl⟩
    · exact (c.lane_lanes_active w _ _ hn hon).trans (congrArg Prod.fst (hcodes hn))
    · exact (c.lane_lanes_active w _ _ hn hon).trans (congrArg Prod.fst (hscales hn))
    · exact c.lane_lanes_inactive w _ _ hn (by rw [hoff]; decide)
    · exact c.lane_lanes_inactive w _ _ hn (by rw [hoff]; decide)
    · rw [BitVec.getLsbD_or, Bool.or_eq_true, Core.flags_lanes, Core.flags_lanes, ← exists_or]
      refine exists_congr fun n => ?_
      rw [← and_or_left, ← and_or_left]
      refine and_congr_right fun hn => and_congr_right fun _ => ?_
      rw [← hcodes hn, ← hscales hn]
      rfl

end Sys2Proof.Machine

/-! ## Reductions and scans of lanes (R249-R251) -/

namespace Sys2Proof.Machine

/-! ### Combinations of I32 lanes are those of integers -/

theorem foldl_add_eq_sum (l : List W32) (a : W32) : l.foldl (· + ·) a = BitVec.ofInt 32 (a.toInt + (l.map BitVec.toInt).sum) := by
  induction l generalizing a with
  | nil => simp
  | cons x l ih =>
    rw [List.foldl_cons, ih, List.map_cons, List.sum_cons, ← Int.add_assoc]
    simp only [BitVec.ofInt_add, BitVec.ofInt_toInt]

/-- A combination that is one of integers at every step is the combination of the integers. -/
theorem foldl_eq_ofInt {f : W32 → W32 → W32} {g : Int → Int → Int} (h : ∀ a x, (f a x).toInt = g a.toInt x.toInt)
    (l : List W32) (a : W32) : l.foldl f a = BitVec.ofInt 32 (l.foldl (fun z x => g z x.toInt) a.toInt) := by
  rw [List.foldl_hom BitVec.toInt (g₁ := f) (fun a x => (h a x).symm), BitVec.ofInt_toInt]

theorem toInt_smin32_min (a x : W32) : (smin32 false a x).toInt = min a.toInt x.toInt := by
  rw [smin32_min]
  grind

theorem toInt_smin32_max (a x : W32) : (smin32 true a x).toInt = max a.toInt x.toInt := by
  rw [smin32_max]
  grind

/-- What FN names is combined as integers are (R249). -/
theorem redInt_ofFn (fn : Nat) : redInt (Red.ofFn fn) = intCombined fn := by
  funext l
  match fn with
  | 0 => exact (foldl_add_eq_sum l 0).trans (congrArg _ (Int.zero_add _))
  | 1 => exact foldl_eq_ofInt toInt_smin32_min l 0x7FFFFFFF
  | 2 => exact foldl_eq_ofInt toInt_smin32_max l 0x80000000
  | 3 | 4 | _ + 5 => rfl

theorem Red.ofFn_of_le {fn : Nat} (h : fn ≤ 2) : Red.ofFn fn = if fn = 0 then .add else if fn = 1 then .min else .max := by
  match fn with
  | 0 | 1 | 2 => rfl

/-! ### The sets of lanes -/

theorem filter_range_lt {N q : Nat} (h : q ≤ N) {p : Nat → Bool} (hp : ∀ r < N, p r = true ↔ r < q) :
    (List.range N).filter p = List.range q := by
  obtain ⟨m, rfl⟩ := Nat.exists_eq_add_of_le h
  have hlow : (List.range q).filter p = List.range q := List.filter_eq_self.mpr fun r hr => by
    have := List.mem_range.mp hr
    exact (hp r (by omega)).mpr this
  have hhigh : ((List.range m).map (q + ·)).filter p = [] := List.filter_eq_nil_iff.mpr fun r hr => by
    obtain ⟨i, hi, rfl⟩ := List.mem_map.mp hr
    have := List.mem_range.mp hi
    rw [hp _ (by omega)]
    omega
  rw [List.range_add, List.filter_append, hlow, hhigh, List.append_nil]

theorem filter_range_ge {N q : Nat} (h : q ≤ N) {p : Nat → Bool} (hp : ∀ r < N, p r = true ↔ q ≤ r) :
    (List.range N).filter p = (List.range (N - q)).map (q + ·) := by
  obtain ⟨m, rfl⟩ := Nat.exists_eq_add_of_le h
  have hlow : (List.range q).filter p = [] := List.filter_eq_nil_iff.mpr fun r hr => by
    have := List.mem_range.mp hr
    rw [hp r (by omega)]
    omega
  have hhigh : ((List.range m).map (q + ·)).filter p = (List.range m).map (q + ·) := List.filter_eq_self.mpr fun r hr => by
    obtain ⟨i, hi, rfl⟩ := List.mem_map.mp hr
    have := List.mem_range.mp hi
    exact (hp _ (by omega)).mpr (by omega)
  rw [List.range_add, List.filter_append, hlow, hhigh, List.nil_append, Nat.add_sub_cancel_left]

/-- The segment of a lane starts at the last edge up to it, and where there is none at lane 0 (R250). -/
theorem segStart_spec (b : Mask) (n : Nat) : segStart b n ≤ n ∧ (segStart b n = 0 ∨ b.getLsbD (segStart b n) = true) ∧
    ∀ x ≤ n, b.getLsbD x = true → x ≤ segStart b n := by
  induction n with
  | zero => exact ⟨Nat.le_refl 0, .inl rfl, fun x hx _ => hx⟩
  | succ n ih =>
    obtain ⟨hle, hedge, hlast⟩ := ih
    rw [segStart]
    split
    case isTrue hb => exact ⟨Nat.le_refl _, .inr hb, fun x hx _ => hx⟩
    case isFalse hb =>
      refine ⟨Nat.le_succ_of_le hle, hedge, fun x hx hbx => ?_⟩
      obtain hx | rfl := Nat.le_succ_iff.mp hx
      · exact hlast x hx hbx
      · exact absurd hbx hb

/-- The lanes of a segment up to a lane are those behind which no edge follows. -/
theorem segment_eq (b : Mask) (n : Nat) : (List.range (n + 1 - segStart b n)).map (fun i => segStart b n + i) =
    (List.range (n + 1)).filter fun m => (List.range (n + 1)).all fun x => decide (x ≤ m) || !b.getLsbD x := by
  obtain ⟨hle, hedge, hlast⟩ := segStart_spec b n
  refine (filter_range_ge (Nat.le_succ_of_le hle) fun m hm => ?_).symm
  have hall : ((List.range (n + 1)).all fun x => decide (x ≤ m) || !b.getLsbD x) = true ↔
      ∀ x ≤ n, b.getLsbD x = true → x ≤ m := by
    simp only [List.all_eq_true, List.mem_range, Nat.lt_succ_iff, Bool.or_eq_true, decide_eq_true_eq, Bool.not_eq_true']
    exact forall₂_congr fun x _ => by cases b.getLsbD x <;> simp
  rw [hall]
  refine ⟨fun h => ?_, fun h x hx hbx => Nat.le_trans (hlast x hx hbx) h⟩
  obtain h0 | hb := hedge
  · exact h0 ▸ Nat.zero_le m
  · exact h _ hle hb

/-- The rows that a scan combines are those of a lane's column above it, and its own unless the scan is exclusive (R251). -/
theorem scanRows_eq (exclusive : Prop) [Decidable exclusive] {n : Nat} (hn : n < 1024) :
    (List.range (n / 64 + if exclusive then 0 else 1)).map (fun r => 64 * r + n % 64) =
      ((List.range 16).map fun r => 64 * r + n % 64).filter fun m => if exclusive then decide (m < n) else decide (m ≤ n) := by
  rw [List.filter_map]
  refine congrArg _ (filter_range_lt ?_ fun r _ => ?_).symm
  · split <;> omega
  · rw [Function.comp]
    split
    · rw [decide_eq_true_eq]
      omega
    · rw [decide_eq_true_eq]
      omega

/-! ### The words -/

/-- A word that combines lanes, by the number `fn` of its combination and its sets of lanes (R249). -/
theorem LaneWord.of_vReduce {s : State} {i : Instr} {w : VArgs} {r : Red} {set : Core → Nat → List Nat} {fn : Nat}
    {lanes : Nat → List Nat} (he : exec i s = vReduce s w r set) (ht : tileSources i = [w.a])
    (hset : ∀ n < 1024, set s.core n = lanes n) (hr : Red.ofFn fn = r) (hfp : w.fmt.toNat ≠ 1 → fn ≤ 2) :
    (w.fmt.toNat = 1 → LaneWord s i w fun n => (intCombined fn (reduced s w (lanes n)), 0)) ∧
    (w.fmt.toNat ≠ 1 → LaneWord s i w fun n => redFp (Fp.ofFcr s.vs.fcr) w.fmt.toNat
      (if fn = 0 then .add else if fn = 1 then .min else .max) (reduced s w (lanes n))) := by
  subst hr
  unfold vReduce at he
  rw [← ht] at he
  refine ⟨fun h1 => .of_vLanes_lt he fun n hn => ?_, fun h1 => .of_vLanes_lt he fun n hn => ?_⟩
  · rw [hset n hn, ← redInt_ofFn]
    exact if_pos (beq_iff_eq.mpr h1)
  · rw [hset n hn, ← Red.ofFn_of_le (hfp h1)]
    exact if_neg (mt beq_iff_eq.mp h1)

/-- The combination of VSCANR (R251). -/
theorem ofFn_scan (fn : Nat) : Red.ofFn (if fn = 2 then 1 else if fn = 3 then 2 else 0) =
    match fn with
    | 2 => .min
    | 3 => .max
    | _ => .add := by
  match fn with
  | 0 | 1 | 2 | 3 => rfl
  | n + 4 => simp; rfl

/-- Settles O26: each word combines the sets of lanes that its rule names, as integers or exactly and rounded once. -/
theorem laneReductions : Obligations.LaneReductions := by
  intro s w t fn k col row edge seg above scanFn word
  refine ⟨fun _ hint => ⟨?redr, ?redc⟩, fun hfn => ?segr, fun _ => ?scanr⟩
  case redr => exact LaneWord.of_vReduce (exec_vredr w s) rfl (fun _ _ => rfl) rfl hint.resolve_left
  case redc => exact LaneWord.of_vReduce (exec_vredc w s) rfl (fun _ _ => rfl) rfl hint.resolve_left
  case segr => exact LaneWord.of_vReduce (exec_vsegr w s) rfl (fun n _ => segment_eq _ n) rfl fun _ => hfn
  case scanr =>
    refine LaneWord.of_vReduce (exec_vscanr w s) rfl (fun n hn => ?_) (ofFn_scan fn) fun _ => ?_
    · have h1 : (w.fn == 1) = true ↔ fn = 1 := beq_iff_eq.trans (BitVec.toNat_inj (y := 1)).symm
      rw [Bool.cond_eq_ite]
      simp only [h1]
      exact scanRows_eq (fn = 1) hn
    · show (if fn = 2 then 1 else if fn = 3 then 2 else 0) ≤ 2
      split
      · decide
      · split <;> decide

end Sys2Proof.Machine

/-! ## Matrix words at issue (R233, R327-R333, R336-R341) -/

namespace Sys2Proof.Machine

/-! ### A load of any sequencer, from one clock of it -/

/-- The state after a clock of a load: it waits, or it has read all, and `fin` says of what it has read how it ends. -/
def State.afterStep (s : State) (fin : Core → State) : LoadStep → State
  | .wait c => s.putCore c
  | .done v => fin v

theorem LoadWord.of_loadStep {s : State} {i : Instr} {q : VSeq} {pos : Bool} {position : Prop} {need : Core → List Nat}
    {fin : Core → State} {done : Core → Prop}
    (he : exec i s = .next (s.afterStep fin (s.core.loadStep q i s.ctl.cyc pos need))) (hpos : pos = true ↔ position)
    (hd : ∀ sp at0, exec i s = .next (fin (s.core.seeing sp at0)) → done (s.core.seeing sp at0)) :
    LoadWord s i q position need done := by
  have hstep {l : LoadStep} (h : s.core.loadStep q i s.ctl.cyc pos need = l) : exec i s = .next (s.afterStep fin l) :=
    he.trans (congrArg (fun l => Host.Outcome.next (s.afterStep fin l)) h)
  refine ⟨fun h0 => ?all, fun h0 ⟨hp, hf⟩ h1 => ?last, fun h0 ⟨hp, hf⟩ h1 => ?more, fun h0 hp => ?elsewhere⟩
  case all => exact hd _ _ (hstep (Core.loadStep_all i _ _ h0))
  case last =>
    exact hd _ _ (hstep ((Core.loadStep_position i _ _ h0 (hpos.mpr hp) hf).trans (if_pos (List.isEmpty_iff.mpr h1))))
  case more =>
    exact hstep ((Core.loadStep_position i _ _ h0 (hpos.mpr hp) hf).trans (if_neg (mt List.isEmpty_iff.mp h1)))
  case elsewhere => exact hstep (Core.loadStep_elsewhere i _ _ h0 (mt (And.imp_left hpos.mp) hp))

/-! ### What a matrix word can do at issue -/

/-- The state after a matrix word has read what it reads at issue, which it sees as `v`: it traps, or it enters the queue. -/
def State.matEnter (s : State) (pre : Core → Option (Byte × W64 × W64)) (entry : Core → Nat → MEntry) (v : Core) : State :=
  match pre v with
  | some (code, i0, i1) => s.put (s.mc.takeTrap s.ctl s.ctl.cur ⟨code, 2, s.core.c.pc, i0, i1⟩)
  | none => s.putCore { s.core with
      pos := v.pos
      mat := { s.core.mat with queue := s.core.mat.queue ++ [entry v s.ctl.cyc] }
      c := s.core.c.next s.ctl.cyc 24 }

theorem State.matEnter_congr {s : State} {pre : Core → Option (Byte × W64 × W64)} {entry entry' : Core → Nat → MEntry}
    {v : Core} (h : entry v s.ctl.cyc = entry' v s.ctl.cyc) : s.matEnter pre entry v = s.matEnter pre entry' v := by
  unfold State.matEnter
  rw [h]

section
variable {s : State} {i : Instr} {w : MArgs} {hold : Core → Bool} {reads : Core → List Nat}
  {pre : Core → Option (Byte × W64 × W64)} {entry : Core → Nat → MEntry}

theorem matIssue_skip (h : guardHolds w.g s.core.c.p = false) :
    matIssue s i w hold reads pre entry = .next (s.putCore { s.core with c := s.core.c.next s.ctl.cyc 24 }) := by
  unfold matIssue
  rw [onMach_put, if_pos (by show (!guardHolds w.g s.core.c.p) = true; rw [h]; rfl)]
  rfl

theorem Core.ownedOf_isEmpty (c : Core) (w : MArgs) :
    (c.ownedOf w).isEmpty = true ↔ ∀ a ∈ argAccs w, c.mat.owned.getLsbD a = false := by
  simp [Core.ownedOf, List.filter_eq_nil_iff]

/-- While the follow-on port owns one of its accumulators it waits under the limit 255 (R333). -/
theorem matIssue_owned (hg : guardHolds w.g s.core.c.p = true) (ho : ∃ a ∈ argAccs w, s.core.mat.owned.getLsbD a = true) :
    matIssue s i w hold reads pre entry =
      .next (s.putCore { s.core with c := { s.core.c with wait := some (s.core.c.wait.getD ⟨i, s.ctl.cyc, some 255⟩) } }) := by
  have hne : (s.core.ownedOf w).isEmpty = false := by
    obtain ⟨a, ha, hown⟩ := ho
    exact Bool.eq_false_iff.mpr fun h => absurd ((s.core.ownedOf_isEmpty w).mp h a ha) (by rw [hown]; decide)
  unfold matIssue
  rw [onMach_put, if_neg (by show ¬(!guardHolds w.g s.core.c.p) = true; rw [hg]; decide),
    if_pos (by show (!(s.core.ownedOf w).isEmpty || _) = true; rw [hne]; rfl)]
  rfl

/-- A word that is free to issue reads for a clock what it reads at issue. -/
theorem matIssue_free {tiles : List Nat} (hf : matFree s w tiles) (hh : hold s.core = false) :
    matIssue s i w hold reads pre entry =
      .next (s.afterStep (s.matEnter pre entry) (s.core.loadStep .c i s.ctl.cyc (matPosition s.ctl.cyc) reads)) := by
  obtain ⟨hg, ho, hw, hb, hq, -⟩ := hf
  have hown : (s.core.ownedOf w).isEmpty = true := (s.core.ownedOf_isEmpty w).mpr ho
  have hwait : (s.core.c.wait.any fun x => x.expired s.ctl.cyc) = false := by
    cases h : s.core.c.wait with
    | none => rfl
    | some x => exact hw x h
  have hroom : s.core.matQueueFull = false := decide_eq_false (Nat.not_le.mpr hq)
  unfold matIssue
  rw [onMach_put, if_neg (by show ¬(!guardHolds w.g s.core.c.p) = true; rw [hg]; decide),
    if_neg (by
      show ¬(!(s.core.ownedOf w).isEmpty || (s.core.c.wait.any fun x => x.expired s.ctl.cyc)) = true
      rw [hown, hwait]; decide),
    if_neg (by show ¬(s.core.accBusy w || s.core.matQueueFull || hold s.core) = true; rw [hb, hroom, hh]; decide)]
  show Host.Outcome.next (s.put (match s.core.loadStep .c i s.ctl.cyc (matPosition s.ctl.cyc) reads with
    | .wait c' => _
    | .done view => match pre view with
      | some (code, i0, i1) => _
      | none => _)) = _
  cases s.core.loadStep .c i s.ctl.cyc (matPosition s.ctl.cyc) reads with
  | wait c => rfl
  | done v =>
    dsimp only [State.afterStep, State.matEnter]
    cases pre v <;> rfl

/-- The core as a word sees it that reads no scratchpad at issue. -/
def State.matView (s : State) : Core := s.core.seeing (seenAs s.core.sp (s.core.gotOf .c)) s.core.pos

/-- A word that reads no scratchpad traps or enters the queue. -/
theorem matIssue_noReads {tiles : List Nat} (hf : matFree s w tiles) (hh : hold s.core = false) :
    matIssue s i w hold noReads pre entry = .next (s.matEnter pre entry s.matView) := by
  rw [matIssue_free hf hh, Core.loadStep_all i _ _ rfl]
  rfl

/-- One that nothing traps enters it. -/
theorem matIssue_queued {tiles : List Nat} (hf : matFree s w tiles) (hh : hold s.core = false) (hp : pre s.matView = none) :
    matIssue s i w hold noReads pre entry = .next (queued s (entry s.matView s.ctl.cyc)) := by
  rw [matIssue_noReads hf hh, State.matEnter, hp]
  rfl

theorem matIssue_trap {tiles : List Nat} (hf : matFree s w tiles) (hh : hold s.core = false) {code : Byte} {i0 i1 : W64}
    (hp : pre s.matView = some (code, i0, i1)) :
    matIssue s i w hold noReads pre entry = .next (s.put (s.mc.takeTrap s.ctl s.ctl.cur ⟨code, 2, s.core.c.pc, i0, i1⟩)) := by
  rw [matIssue_noReads hf hh, State.matEnter, hp]

end

/-! ### The words -/

/-- The matrix words of C but MWAIT. -/
def matWords (w : MArgs) : List Instr := [.mma w, .mmaD w, .mmas w, .mzero w, .maccr w, .maccw w, .mscale w]

/-- They all issue in one way. -/
theorem exec_matWords {w : MArgs} {i : Instr} (hi : i ∈ matWords w) (s : State) :
    ∃ hold reads pre entry, exec i s = matIssue s i w hold reads pre entry := by
  simp only [matWords, List.mem_cons, List.not_mem_nil, or_false] at hi
  obtain rfl | rfl | rfl | rfl | rfl | rfl | rfl := hi
  · exact ⟨_, _, _, _, exec_mma w s⟩
  · exact ⟨_, _, _, _, exec_mmaD w s⟩
  · exact ⟨_, _, _, _, exec_mmas w s⟩
  · exact ⟨_, _, _, _, exec_mzero w s⟩
  · exact ⟨_, _, _, _, exec_maccr w s⟩
  · exact ⟨_, _, _, _, exec_maccw w s⟩
  · exact ⟨_, _, _, _, exec_mscale w s⟩

section
variable {s : State} {w : MArgs}

/-- Four tiles that no earlier MACCR is to write. -/
theorem matFree.tilesIdle {t : Nat} (hf : matFree s w [t, t + 1, t + 2, t + 3]) :
    ((List.range 4).any fun j => s.core.tileBusy (t + j)) = false := by
  obtain ⟨-, -, -, -, -, ht⟩ := hf
  refine List.any_eq_false.mpr fun j hj => ?_
  have hj4 := List.mem_range.mp hj
  rw [ht (t + j) (by simp; omega)]
  decide

theorem execMaccr_free (hf : matFree s w [w.opsAt 0 4, w.opsAt 0 4 + 1, w.opsAt 0 4 + 2, w.opsAt 0 4 + 3]) :
    execMaccr w s = .next (queued s (plainEntry 3 w s.ctl.cyc [])) := matIssue_queued hf hf.tilesIdle rfl

/-- The lanes of four tiles, the first tile's first. -/
theorem flatten_range_four {α : Type} (f : Nat → List α) : ((List.range 4).map f).flatten = f 0 ++ f 1 ++ f 2 ++ f 3 := by
  simp [List.range_succ]

theorem execMaccw_free (hf : matFree s w [w.opsAt 0 4, w.opsAt 0 4 + 1, w.opsAt 0 4 + 2, w.opsAt 0 4 + 3]) :
    let lanes (j : Nat) := (s.core.tile (w.opsAt 0 4 + j)).toList
    execMaccw w s = .next (queued s (plainEntry 4 w s.ctl.cyc (lanes 0 ++ lanes 1 ++ lanes 2 ++ lanes 3))) :=
  (matIssue_queued hf hf.tilesIdle rfl).trans
    (congrArg (fun l => Host.Outcome.next (queued s (plainEntry 4 w s.ctl.cyc l))) (flatten_range_four _))

theorem execMscale_free (hf : matFree s w [w.opsAt 0 4]) :
    execMscale w s = .next (queued s (plainEntry 5 w s.ctl.cyc ((s.core.tile (w.opsAt 0 4)).toList.take 64))) := by
  have ht : s.core.tileBusy (w.opsAt 0 4) = false := by
    obtain ⟨-, -, -, -, -, ht⟩ := hf
    exact ht _ (List.mem_singleton.mpr rfl)
  exact matIssue_queued hf ht rfl

/-- The engine accepts the pair of each accumulator of an MMA in buffer mode (R53). -/
def Core.pairsOk (c : Core) (w : MArgs) : Bool := (c.bufFormats w).2.all fun b => pairOk (c.bufFormats w).1.toNat b.toNat

theorem Core.pairsOk_iff (c : Core) (w : MArgs) : c.pairsOk w = true ↔
    ∀ j < w.acn.toNat + 1, pairOk (vget c.oa (w.opsAt 0 2) OpBuf.init).fmt.toNat
      (vget c.ob (w.opsAt (2 + 2 * j) 2) OpBuf.init).fmt.toNat = true := by
  simp [Core.pairsOk, Core.bufFormats]

theorem execMma_free (hf : matFree s w []) (hp : s.core.pairsOk w = true) :
    execMma w s = .next (queued s { plainEntry 0 w s.ctl.cyc [] with
      fmtA := (s.core.bufFormats w).1, fmtBs := (s.core.bufFormats w).2 }) :=
  matIssue_queued hf rfl (if_pos hp)

theorem execMma_trap (hf : matFree s w []) (hp : s.core.pairsOk w = false) :
    execMma w s = .next (s.put (s.mc.takeTrap s.ctl s.ctl.cur ⟨1, 2, s.core.c.pc,
      BitVec.ofNat 64 (((encode (.mma w)).map (·.2)).getD 0), s.core.c.pc.setWidth 64⟩)) :=
  matIssue_trap hf rfl (if_neg (by
    show ¬s.core.pairsOk w = true
    rw [hp]
    decide))

end

/-- The entry of an MMAS whose fibres have the descriptors `d` and `e`, with the rows that it has read of the scratchpad. -/
def mmasEntry (w : MArgs) (cyc : Nat) (sp : Cells) (d e : FibDesc) : MEntry :=
  { plainEntry 1 w cyc [] with
    fmtA := BitVec.ofNat 4 d.fmt
    fmtBs := List.replicate (w.acn.toNat + 1) (BitVec.ofNat 4 e.fmt)
    fibA := d
    fibB := e
    rowsA := (List.range 64).map fun i => d.rowEntries sp (d.row + i)
    rowsB := (List.range (64 * (w.acn.toNat + 1))).map fun i => e.rowEntries sp (e.row + i) }

theorem matPosition_iff (cyc : Nat) : matPosition cyc = true ↔ cyc % 4 = 3 := beq_iff_eq

/-- MMAS is a load of C in the engine's positions, after which it traps or enters the queue with its rows (R338). -/
theorem LoadWord.of_mmas {s : State} {w : MArgs} {x y : Fibre} {done : Core → Prop} (hf : matFree s w [])
    (hx : s.core.fibre (w.opsAt 0 2) = some x) (hy : s.core.fibre (w.opsAt 2 2) = some y)
    (hd : ∀ v : Core, exec (.mmas w) s = .next (s.matEnter (fun c => c.mmasFault w)
      (fun c cyc => mmasEntry w cyc c.sp x.desc y.desc) v) → done v) :
    LoadWord s (.mmas w) .c (s.ctl.cyc % 4 = 3) (fun v => v.mmasUnits w) done := by
  refine .of_loadStep ((exec_mmas w s).trans (matIssue_free hf rfl)) (matPosition_iff _) fun sp at0 h =>
    hd _ (h.trans (congrArg _ (State.matEnter_congr ?_)))
  have hfib : (s.core.seeing sp at0).mmasFibres w = (some x, some y) := by
    show (s.core.fibre (w.opsAt 0 2), s.core.fibre (w.opsAt 2 2)) = _
    rw [hx, hy]
  dsimp only
  rw [hfib]
  rfl

theorem matrixWordsIssue : MatrixWordsIssue := by
  intro s w x y c t plain lanes fa fb n rows all
  refine ⟨fun hf => ⟨?zero, ?direct⟩, fun hf => ⟨?read, ?write⟩, fun hf => ?scale, fun hf hp => ?buffers,
    fun hf hp => ?badPair, fun hf hx hy => ?sparse, fun i hi hg ho => ?owned, fun i hi hg => ?skipped⟩
  case zero => exact (exec_mzero w s).trans (matIssue_queued hf rfl rfl)
  case direct => exact (exec_mmaD w s).trans (matIssue_queued hf rfl rfl)
  case read => exact (exec_maccr w s).trans (execMaccr_free hf)
  case write => exact (exec_maccw w s).trans (execMaccw_free hf)
  case scale => exact (exec_mscale w s).trans (execMscale_free hf)
  case buffers => exact (exec_mma w s).trans (execMma_free hf ((c.pairsOk_iff w).mpr hp))
  case badPair =>
    obtain ⟨j, hj, hbad⟩ := hp
    refine (exec_mma w s).trans (execMma_trap hf (Bool.eq_false_iff.mpr fun hall => ?_))
    exact absurd ((c.pairsOk_iff w).mp hall j hj) (by rw [hbad]; decide)
  case sparse =>
    refine LoadWord.of_mmas hf hx hy fun v h => ⟨fun hno => ?_, fun code i0 i1 hfault => ?_⟩
    · rw [h, State.matEnter, hno]
      rfl
    · rw [h, State.matEnter, hfault]
  case owned =>
    obtain ⟨_, _, _, _, he⟩ := exec_matWords hi s
    exact he.trans (matIssue_owned hg ho)
  case skipped =>
    obtain ⟨_, _, _, _, he⟩ := exec_matWords hi s
    exact he.trans (matIssue_skip hg)

/-! ### MWAIT (R341) -/

/-- Taking accumulators from the follow-on port leaves it the others. -/
theorem getLsbD_takeAccs (l : List Nat) (o : BitVec 4) {j : Nat} (hj : j < 4) :
    (l.foldl (fun (o : BitVec 4) a => o &&& ~~~((1 : BitVec 4) <<< a)) o).getLsbD j = (o.getLsbD j && !l.contains j) := by
  induction l generalizing o with
  | nil => simp
  | cons a l ih =>
    have hbit : ((1 : BitVec 4) <<< a).getLsbD j = (j == a) := by
      rw [show (1 : BitVec 4) <<< a = BitVec.twoPow 4 a from rfl, BitVec.getLsbD_twoPow]
      grind
    rw [List.foldl_cons, ih, BitVec.getLsbD_and, BitVec.getLsbD_not, hbit, decide_eq_true hj, List.contains_cons]
    grind

theorem argAccs_contains (w : MArgs) (a : Nat) : (argAccs w).contains a = argNames w a := by
  rw [Bool.eq_iff_iff]
  simp only [argAccs, argNames, List.contains_iff_mem, List.mem_map, List.mem_range, Bool.and_eq_true, decide_eq_true_eq]
  constructor
  · rintro ⟨i, hi, rfl⟩
    omega
  · intro h
    exact ⟨a - w.acc.toNat, by omega, by omega⟩

/-- The state past an MWAIT that reports `b` and leaves the follow-on port the accumulators `o`. -/
def State.mwaitPast (s : State) (w : MArgs) (o : BitVec 4) (b : Bool) : State :=
  s.putCore { s.core with
    mat := { s.core.mat with owned := o }
    c := ({ s.core.c with p := setPred s.core.c.p (mwaitReport w) b } : VState).next s.ctl.cyc 24 }

/-- What comes of an MWAIT that looks at its condition. -/
def State.afterMwait (s : State) (w : MArgs) : Blk → State
  | .act => s.mwaitPast w ((argAccs w).foldl (fun (o : BitVec 4) a => o &&& ~~~((1 : BitVec 4) <<< a)) s.core.mat.owned) true
  | .giveUp => s.mwaitPast w s.core.mat.owned false
  | .hold x => s.putCore { s.core with c := { s.core.c with wait := some x } }

/-- The first look finds no wait behind it. -/
theorem exec_mwait_look {s : State} {w : MArgs} (hg : guardHolds w.g s.core.c.p = true) (hw : s.core.c.wait = none) {b : Bool}
    (hb : s.core.portBusy w = b) : exec (.mwait w) s =
      .next (s.afterMwait w (blkStep (.mwait w) (mwaitLimit w) s.ctl.cyc true none (!b))) := by
  subst hb
  refine (exec_mwait w s).trans ?_
  unfold execMwait
  rw [onCore_put]
  dsimp only
  rw [if_neg (by rw [hg]; decide), hw]
  cases blkStep (.mwait w) (mwaitLimit w) s.ctl.cyc true none (!s.core.portBusy w) <;> rfl

theorem matrixWait : MatrixWait := by
  intro s w c lim rp pass hg hw
  refine ⟨fun hb => ?done, fun hb h0 => ?givesUp, fun hb h0 => ?waits⟩
  case done =>
    refine ⟨_, fun a ha => (getLsbD_takeAccs (argAccs w) c.mat.owned ha).trans ?_, (exec_mwait_look hg hw hb).trans ?_⟩
    · rw [argAccs_contains]
    · exact congrArg (fun k => Host.Outcome.next (s.afterMwait w k)) (blkStep_act _ _ _)
  case givesUp =>
    have hstep : blkStep (.mwait w) lim s.ctl.cyc true none false = .giveUp := h0 ▸ blkStep_giveUp _ _
    exact (exec_mwait_look hg hw hb).trans (congrArg (fun k => Host.Outcome.next (s.afterMwait w k)) hstep)
  case waits =>
    exact (exec_mwait_look hg hw hb).trans
      (congrArg (fun k => Host.Outcome.next (s.afterMwait w k)) (blkStep_hold_limit _ _ _ h0))

/-- Settles O33: the words of C other than MWAIT issue in one way, each with its own hold, reads, trap and entry; MWAIT is a
blocking word that takes its accumulators back. -/
theorem matrixWordsOfC : Obligations.MatrixWordsOfC := ⟨matrixWordsIssue, matrixWait⟩

end Sys2Proof.Machine
